-- ==== Sys2Proof/Word.lean ====
section
/-!
DEFINITION. The word types of the model (spec/00 R7, spec/10 R228): bytes, 32-bit register words, 64-bit
scalar registers and lane masks, all as bit vectors, which is what the spec treats them as.
-/
namespace Sys2Proof

/-- One byte of memory. -/
abbrev Byte := BitVec 8
/-- One 32-bit word of a vector register in one lane (R228). -/
abbrev W32 := BitVec 32
/-- One scalar register, a PC, an address in a register (R228, R26). -/
abbrev W64 := BitVec 64
/-- A lane mask: bit L is lane L; bits at or above the warp's width W are zero (R229). -/
abbrev Mask := BitVec 64

/-- Bits `hi` down to `lo` of a number, both included (R7). -/
def bits (x hi lo : Nat) : Nat := (x >>> lo) % 2 ^ (hi + 1 - lo)

/-- Bit `i` of a number. -/
def bitAt (x i : Nat) : Bool := x.testBit i

/-- A truth value as the number 1 or 0. -/
def b2n (b : Bool) : Nat := if b then 1 else 0

end Sys2Proof
end

