-- ==== Sys2Proof/Config.lean ====
section
/-!
DEFINITION. What the spec leaves open: the free values of the model. Every constant here is opaque, with no
body, so nothing in Lean can evaluate it and a theorem about the model holds whatever its value is.
-/
namespace Sys2Proof.Config

/-- The free choice number `i` of the step numbered `tick` (log 1): which enabled move the device makes when
the agenda is empty, which of the allowed values a read outside the order returns (R35, R72, R408), and every
other point where the spec allows several outcomes. -/
opaque choice (tick i : Nat) : Nat

/-- How many steps may pass before a move that R362 promises is made (log 77): R362 says eventually, not when. -/
opaque patience : Nat

/-- The bytes of a saved image (R403): "the layout of an image belongs to the device". -/
opaque imageByte (tick addr : Nat) : Nat

/-- Whether the controller's internal encoding compresses the 256 bytes of a block (R87, R90). -/
opaque compresses (block content : Nat) : Bool

/-- The identity key derived from the device's secret in a life-cycle state (R424). -/
opaque identityKey (lcState : Nat) : Nat

/-- The Falcon-1024 signature of a digest under a key (R424); the digest is the SHAKE256 of the listed numbers. -/
opaque quoteSignature (key : Nat) (fields : List Nat) : Nat

/-- The 64-byte SHAKE256 measurements of the firmware images in load order (R424). -/
opaque firmwareMeasurements : List Nat

/-- The address field of a fault record for an uncorrectable word of a mask register, which has no on-chip map
offset (R238, R57). -/
opaque maskErrorAddress (slot reg half : Nat) : Nat

/-- Does a ray with an infinite component meet a box (R326)? The spec states the test for finite rays only. -/
opaque infiniteBox (ray box : List Nat) : Bool

/-- What a ray and a triangle of which one has an infinite component make (R326), for which the spec states no
result: a miss, or a hit from the back or not, with t and the weights of V1 and V2 in FP32 and the flags of their rounding. -/
opaque infiniteHit (ray triangle : List Nat) : Option (Bool × Nat × Nat × Nat × Nat)

end Sys2Proof.Config
end

