-- ==== Sys2Proof/Syntax.lean ====
section
/-!
DEFINITION. The instructions and the device's own steps as syntax: one constructor for each row of the opcode
table. An instruction carries the fields of its 96-bit word (spec/01 R12); a step of the device that has no
encoding carries what names it.
-/
namespace Sys2Proof

/-- The fields of an instruction word other than the major opcode (R12). -/
structure Fields where
  sw    : Bool
  minor : BitVec 7
  dst   : BitVec 8
  opa   : BitVec 8
  opb   : BitVec 8
  opc   : BitVec 8
  pneg  : Bool
  pk    : BitVec 3
  typ   : BitVec 4
  ascl  : Bool
  bscl  : Bool
  bimm  : Bool
  cscl  : Bool
  qual  : BitVec 4
  imm   : BitVec 32
  deriving DecidableEq, Repr

/-- An agent of the lease protocol (R159): a tower, the host, or an Ozuamas Link peer by its identifier. -/
inductive Agent where
  | tower (t : Nat)
  | host
  | peer (id : Nat)
  deriving DecidableEq, Repr

/-- Where an uncorrectable soft error strikes (R94, R169): a block's data, its metadata code, the L2's data,
or a near cache that holds the owner token. -/
inductive ErrorPlace where
  | blockData
  | metadata
  | l2
  | nearCache (core : Nat)
  deriving DecidableEq, Repr

/-- A word that carries a code (R238): a 32-bit word of the vector, scalar or mask register files, or a word of
a matrix cell. A vector word is named by its core lane and register, a scalar or mask word by its warp slot,
register and half. -/
inductive RegWord where
  | vec (lane reg : Nat)
  | sca (slot reg half : Nat)
  | msk (slot reg half : Nat)
  | cell (cell word : Nat)
  deriving DecidableEq, Repr

/-- Who writes an MMIO register (R411, R415): the host through a BAR, the management cluster, or a supervisor
warp with CFGWR. -/
inductive MmioWriter where
  | host
  | management
  | supervisorWarp
  deriving DecidableEq, Repr

/-- An address that the host uses (R415): an offset in one of its base address registers. -/
structure HostAddr where
  bar : Nat
  off : Nat
  deriving DecidableEq, Repr

/-- Whose flit it is and its sequence number (R416). -/
structure FlitHead where
  peer : Nat
  num  : Nat
  deriving DecidableEq, Repr

/-- What a peer's time message says (R418): its time, and whether it has a live host link. -/
structure LinkTime where
  ns     : Nat
  hosted : Bool
  deriving DecidableEq, Repr

/-- The rows of the opcode table. -/
inductive Instr where
  /-- NOP (R37). -/
  | nop (f : Fields)
  /-- BRA (R246). -/
  | bra (f : Fields)
  /-- BRS (R246). -/
  | brs (f : Fields)
  /-- BRV (R247). -/
  | brv (f : Fields)
  /-- JMPX (R246). -/
  | jmpx (f : Fields)
  /-- CALL (R246). -/
  | call (f : Fields)
  /-- CALLX (R248). -/
  | callx (f : Fields)
  /-- RET (R246). -/
  | ret (f : Fields)
  /-- RCVG (R350). -/
  | rcvg (f : Fields)
  /-- EXIT (R250). -/
  | exit (f : Fields)
  /-- YIELD (R251). -/
  | yield (f : Fields)
  /-- WAITC (R252). -/
  | waitc (f : Fields)
  /-- TRAPF (R253). -/
  | trapf (f : Fields)
  /-- SYSC (R399). -/
  | sysc (f : Fields)
  /-- BKPT (R253). -/
  | bkpt (f : Fields)
  /-- ELECT (R192). -/
  | elect (f : Fields)
  /-- LOOP (R246). -/
  | loop (f : Fields)
  /-- SGET (R240). -/
  | sget (f : Fields)
  /-- SPUT (R240). -/
  | sput (f : Fields)
  /-- XACQ (R234). -/
  | xacq (f : Fields)
  /-- XREL (R235). -/
  | xrel (f : Fields)
  /-- ISYNC (R176). -/
  | isync (f : Fields)
  /-- KOP (R254). -/
  | kop (f : Fields)
  /-- KPOP (R254). -/
  | kpop (f : Fields)
  /-- KFF1 (R254). -/
  | kff1 (f : Fields)
  /-- KTOS (R254). -/
  | ktos (f : Fields)
  /-- STOK (R254). -/
  | stok (f : Fields)
  /-- EXMRD (R254). -/
  | exmrd (f : Fields)
  /-- EXMWR (R255). -/
  | exmwr (f : Fields)
  /-- SADD (R257). -/
  | sadd (f : Fields)
  /-- SSUB (R257). -/
  | ssub (f : Fields)
  /-- SMUL (R257). -/
  | smul (f : Fields)
  /-- SMULH (R257). -/
  | smulh (f : Fields)
  /-- SDIV (R258). -/
  | sdiv (f : Fields)
  /-- SREM (R258). -/
  | srem (f : Fields)
  /-- SAND (R257). -/
  | sand (f : Fields)
  /-- SOR (R257). -/
  | sor (f : Fields)
  /-- SXOR (R257). -/
  | sxor (f : Fields)
  /-- SSHL (R257). -/
  | sshl (f : Fields)
  /-- SSHR (R257). -/
  | sshr (f : Fields)
  /-- SSRA (R257). -/
  | ssra (f : Fields)
  /-- SMIN (R257). -/
  | smin (f : Fields)
  /-- SMAX (R257). -/
  | smax (f : Fields)
  /-- SCMP (R257). -/
  | scmp (f : Fields)
  /-- SSEL (R257). -/
  | ssel (f : Fields)
  /-- SMOV (R257). -/
  | smov (f : Fields)
  /-- SLI (R257). -/
  | sli (f : Fields)
  /-- SLEA (R257). -/
  | slea (f : Fields)
  /-- SCLZ (R257). -/
  | sclz (f : Fields)
  /-- SPOP (R257). -/
  | spop (f : Fields)
  /-- SBFE (R257). -/
  | sbfe (f : Fields)
  /-- SBFI (R257). -/
  | sbfi (f : Fields)
  /-- SLD (R217). -/
  | sld (f : Fields)
  /-- SST (R217). -/
  | sst (f : Fields)
  /-- VADD (R260). -/
  | vadd (f : Fields)
  /-- VSUB (R260). -/
  | vsub (f : Fields)
  /-- VMUL (R260). -/
  | vmul (f : Fields)
  /-- VMULH (R260). -/
  | vmulh (f : Fields)
  /-- VMAD (R260). -/
  | vmad (f : Fields)
  /-- VAND (R260). -/
  | vand (f : Fields)
  /-- VOR (R260). -/
  | vor (f : Fields)
  /-- VXOR (R260). -/
  | vxor (f : Fields)
  /-- VNOT (R260). -/
  | vnot (f : Fields)
  /-- VSHL (R260). -/
  | vshl (f : Fields)
  /-- VSHR (R260). -/
  | vshr (f : Fields)
  /-- VSRA (R260). -/
  | vsra (f : Fields)
  /-- VMIN (R260). -/
  | vmin (f : Fields)
  /-- VMAX (R260). -/
  | vmax (f : Fields)
  /-- VABS (R260). -/
  | vabs (f : Fields)
  /-- VNEG (R260). -/
  | vneg (f : Fields)
  /-- VCLZ (R260). -/
  | vclz (f : Fields)
  /-- VPOP (R260). -/
  | vpop (f : Fields)
  /-- VBREV (R260). -/
  | vbrev (f : Fields)
  /-- VBFE (R260). -/
  | vbfe (f : Fields)
  /-- VBFI (R260). -/
  | vbfi (f : Fields)
  /-- VSAD (R260). -/
  | vsad (f : Fields)
  /-- VDOT4 (R260). -/
  | vdot4 (f : Fields)
  /-- VCMP (R260). -/
  | vcmp (f : Fields)
  /-- VSEL (R260). -/
  | vsel (f : Fields)
  /-- VMOV (R260). -/
  | vmov (f : Fields)
  /-- VLI (R260). -/
  | vli (f : Fields)
  /-- VLANE (R260). -/
  | vlane (f : Fields)
  /-- VCVT (R262). -/
  | vcvt (f : Fields)
  /-- FADD (R264). -/
  | fadd (f : Fields)
  /-- FSUB (R264). -/
  | fsub (f : Fields)
  /-- FMUL (R264). -/
  | fmul (f : Fields)
  /-- FFMA (R264). -/
  | ffma (f : Fields)
  /-- FMIN (R265). -/
  | fmin (f : Fields)
  /-- FMAX (R265). -/
  | fmax (f : Fields)
  /-- FABS (R265). -/
  | fabs (f : Fields)
  /-- FNEG (R265). -/
  | fneg (f : Fields)
  /-- FCPS (R265). -/
  | fcps (f : Fields)
  /-- FCMP (R266). -/
  | fcmp (f : Fields)
  /-- FCLASS (R267). -/
  | fclass (f : Fields)
  /-- FRND (R264). -/
  | frnd (f : Fields)
  /-- FCVT (R268). -/
  | fcvt (f : Fields)
  /-- FCVTI (R268). -/
  | fcvti (f : Fields)
  /-- ICVTF (R268). -/
  | icvtf (f : Fields)
  /-- FSCALE (R264). -/
  | fscale (f : Fields)
  /-- FDOT2 (R264). -/
  | fdot2 (f : Fields)
  /-- RCP (R272). -/
  | rcp (f : Fields)
  /-- RSQ (R273). -/
  | rsq (f : Fields)
  /-- SQRT (R270). -/
  | sqrt (f : Fields)
  /-- EXP2 (R273). -/
  | exp2 (f : Fields)
  /-- LOG2 (R273). -/
  | log2 (f : Fields)
  /-- SINPI (R273). -/
  | sinpi (f : Fields)
  /-- COSPI (R273). -/
  | cospi (f : Fields)
  /-- TANH (R273). -/
  | tanh (f : Fields)
  /-- RNG (R275). -/
  | rng (f : Fields)
  /-- RNGSEED (R276). -/
  | rngseed (f : Fields)
  /-- DECW (R104). -/
  | decw (f : Fields)
  /-- PACKW (R105). -/
  | packw (f : Fields)
  /-- SHFL (R279). -/
  | shfl (f : Fields)
  /-- BCAST (R279). -/
  | bcast (f : Fields)
  /-- VRED (R280). -/
  | vred (f : Fields)
  /-- VSCAN (R280). -/
  | vscan (f : Fields)
  /-- VCMPRS (R281). -/
  | vcmprs (f : Fields)
  /-- VEXPND (R281). -/
  | vexpnd (f : Fields)
  /-- BALLOT (R282). -/
  | ballot (f : Fields)
  /-- MATCH (R282). -/
  | matchL (f : Fields)
  /-- LD (R213). -/
  | ld (f : Fields)
  /-- ST (R213). -/
  | st (f : Fields)
  /-- GATH (R215). -/
  | gath (f : Fields)
  /-- SCAT (R215). -/
  | scat (f : Fields)
  /-- LDB (R219). -/
  | ldb (f : Fields)
  /-- STB (R219). -/
  | stb (f : Fields)
  /-- ATOM (R221). -/
  | atom (f : Fields)
  /-- ATOMW (R222). -/
  | atomw (f : Fields)
  /-- STNT (R223). -/
  | stnt (f : Fields)
  /-- STNT_PERFORM (R223). -/
  | stntPerform (core slot idx : Nat)
  /-- DRAINNT (R224). -/
  | drainnt (f : Fields)
  /-- FENCE_CODE (R225). -/
  | fenceCode (f : Fields)
  /-- FENCE_IO (R225). -/
  | fenceIo (f : Fields)
  /-- FENCE_ENG (R225). -/
  | fenceEng (f : Fields)
  /-- LDFE (R185). -/
  | ldfe (f : Fields)
  /-- STFE (R186). -/
  | stfe (f : Fields)
  /-- PFT (R226). -/
  | pft (f : Fields)
  /-- CFLUSH (R175). -/
  | cflush (f : Fields)
  /-- IFLUSH (R176). -/
  | iflush (f : Fields)
  /-- LLOCK (R172). -/
  | llock (f : Fields)
  /-- LUNLK (R172). -/
  | lunlk (f : Fields)
  /-- LNCLAIM (R171). -/
  | lnclaim (f : Fields)
  /-- BINIT (R190). -/
  | binit (f : Fields)
  /-- BARV (R190). -/
  | barv (f : Fields)
  /-- BEXP (R190). -/
  | bexp (f : Fields)
  /-- BWAIT (R190). -/
  | bwait (f : Fields)
  /-- BTEST (R190). -/
  | btest (f : Fields)
  /-- BDROP (R190). -/
  | bdrop (f : Fields)
  /-- SEQW (R201). -/
  | seqw (f : Fields)
  /-- GRPSYNC (R357). -/
  | grpsync (f : Fields)
  /-- SPAWN (R373). -/
  | spawn (f : Fields)
  /-- WATCH (R376). -/
  | watch (f : Fields)
  /-- UNWATCH (R378). -/
  | unwatch (f : Fields)
  /-- ITER (R371). -/
  | iter (f : Fields)
  /-- RQPUSH (R382). -/
  | rqpush (f : Fields)
  /-- MRSV (R300). -/
  | mrsv (f : Fields)
  /-- MFREE (R300). -/
  | mfree (f : Fields)
  /-- MZERO (R301). -/
  | mzero (f : Fields)
  /-- MLD_D (R303). -/
  | mldD (f : Fields)
  /-- MLD_F (R303). -/
  | mldF (f : Fields)
  /-- MST_D (R304). -/
  | mstD (f : Fields)
  /-- MST_F (R304). -/
  | mstF (f : Fields)
  /-- MMA (R305). -/
  | mma (f : Fields)
  /-- MADDF (R307). -/
  | maddf (f : Fields)
  /-- MADDM (R307). -/
  | maddm (f : Fields)
  /-- MMULF (R307). -/
  | mmulf (f : Fields)
  /-- MRCMP (R313). -/
  | mrcmp (f : Fields)
  /-- MDNS (R308). -/
  | mdns (f : Fields)
  /-- MRANK (R310). -/
  | mrank (f : Fields)
  /-- MRANK_ERR (R310). -/
  | mrankErr (f : Fields)
  /-- MROWP (R311). -/
  | mrowp (f : Fields)
  /-- MROWP_SET (R311). -/
  | mrowpSet (f : Fields)
  /-- MSCL (R308). -/
  | mscl (f : Fields)
  /-- MMOVV (R309). -/
  | mmovv (f : Fields)
  /-- MMOVM (R309). -/
  | mmovm (f : Fields)
  /-- MATRIX_OP_START (R317). -/
  | matrixOpStart (core : Nat)
  /-- MATRIX_OP_COMPLETE (R292). -/
  | matrixOpComplete (core : Nat)
  /-- OPERANDS_CONSUMED (R203). -/
  | operandsConsumed (core : Nat)
  /-- MATRIX_OP_STOP (R296). -/
  | matrixOpStop (core : Nat)
  /-- MATRIX_ERROR_COMPLETION (R297). -/
  | matrixErrorCompletion (core : Nat)
  /-- HLD (R143). -/
  | hld (f : Fields)
  /-- HSTAT (R139). -/
  | hstat (f : Fields)
  /-- FOPEN (R136). -/
  | fopen (f : Fields)
  /-- FSEAL (R137). -/
  | fseal (f : Fields)
  /-- FCOMP (R140). -/
  | fcomp (f : Fields)
  /-- FRET (R137). -/
  | fret (f : Fields)
  /-- TRACE (R326). -/
  | trace (f : Fields)
  /-- PAIR (R332). -/
  | pair (f : Fields)
  /-- PAIRX (R332). -/
  | pairx (f : Fields)
  /-- PAIR_OPERATION_RUN (R332). -/
  | pairOperationRun (core slot idx : Nat)
  /-- PAIR_OPERATION_COMPLETE (R336). -/
  | pairOperationComplete (core slot idx : Nat)
  /-- PAIR_OPERATION_STOP (R335). -/
  | pairOperationStop (core slot idx : Nat)
  /-- COVER (R339). -/
  | cover (f : Fields)
  /-- ZTST (R340). -/
  | ztst (f : Fields)
  /-- ORDW_WAIT (R338). -/
  | ordwWait (f : Fields)
  /-- ORDW_ADV (R338). -/
  | ordwAdv (f : Fields)
  /-- TLACQ (R337). -/
  | tlacq (f : Fields)
  /-- TLREL (R337). -/
  | tlrel (f : Fields)
  /-- SEGLD (R78). -/
  | segld (f : Fields)
  /-- SEGLD_W (R78). -/
  | segldW (f : Fields)
  /-- TLBINV_ALL (R73). -/
  | tlbinvAll (f : Fields)
  /-- TLBINV_CTX (R73). -/
  | tlbinvCtx (f : Fields)
  /-- TLBINV_PAGE (R73). -/
  | tlbinvPage (f : Fields)
  /-- TLBINV_RANGE (R73). -/
  | tlbinvRange (f : Fields)
  /-- WRESUME (R396). -/
  | wresume (f : Fields)
  /-- WKILL (R397). -/
  | wkill (f : Fields)
  /-- WKILL_CTX (R397). -/
  | wkillCtx (f : Fields)
  /-- FRQACK (R395). -/
  | frqack (f : Fields)
  /-- CFGRD (R413). -/
  | cfgrd (f : Fields)
  /-- CFGWR (R413). -/
  | cfgwr (f : Fields)
  /-- CTXSAVE (R405). -/
  | ctxsave (f : Fields)
  /-- CTXSAVE_CTX (R405). -/
  | ctxsaveCtx (f : Fields)
  /-- HALTC (R406). -/
  | haltc (f : Fields)
  /-- HALTC_GO (R406). -/
  | haltcGo (f : Fields)
  /-- LINE_FETCH (R25). -/
  | lineFetch (core quarter cslot va : Nat)
  /-- FAULT_RECORD_POST (R84). -/
  | faultRecordPost (core idx : Nat)
  /-- FEEDBACK_UPDATE (R83). -/
  | feedbackUpdate (core slot idx : Nat)
  /-- READ_REQUEST (R155). -/
  | readRequest (core line : Nat)
  /-- READ_REPLY (R155). -/
  | readReply (core line : Nat)
  /-- FORWARDED_READ (R155). -/
  | forwardedRead (core line : Nat)
  /-- WRITE_REQUEST (R155). -/
  | writeRequest (core line : Nat)
  /-- WRITE_REPLY (R155). -/
  | writeReply (core line : Nat)
  /-- EVICTION (R155). -/
  | eviction (core line : Nat)
  /-- RECALL (R155). -/
  | recall (tower line : Nat)
  /-- TRANSIENT_TIMEOUT (R156). -/
  | transientTimeout (core line : Nat)
  /-- PERSISTENT_REQUEST (R157). -/
  | persistentRequest (core line : Nat)
  /-- PERSISTENT_REQUEST_END (R283). -/
  | persistentRequestEnd (core line : Nat)
  /-- LEASE_READ (R161). -/
  | leaseRead (agent : Agent) (line cls : Nat)
  /-- LEASE_STORE (R161). -/
  | leaseStore (agent : Agent) (addr : Nat) (data : List Byte)
  /-- OWNERSHIP_REQUEST (R161). -/
  | ownershipRequest (agent : Agent) (line : Nat)
  /-- LINE_RETURN (R166). -/
  | lineReturn (agent : Agent) (line wts : Nat) (data : List Byte)
  /-- OUTSIDE_LEASE_EXPIRY (R166). -/
  | outsideLeaseExpiry (line : Nat)
  /-- TIME_REPORT (R167). -/
  | timeReport (agent : Agent) (time : Nat)
  /-- TIME_REPORT_TIMEOUT (R167). -/
  | timeReportTimeout (agent : Agent)
  /-- TIME_LOST_EXPIRY (R167). -/
  | timeLostExpiry (agent : Agent)
  /-- AMNESTY (R167). -/
  | amnesty (agent : Agent)
  /-- WRITE_BACK (R90). -/
  | writeBack (line : Nat)
  /-- MERGE_PATH (R92). -/
  | mergePath (block : Nat)
  /-- UNCORRECTABLE_SOFT_ERROR (R94). -/
  | uncorrectableSoftError (place : ErrorPlace) (line : Nat)
  /-- SCRUB (R239). -/
  | scrub (core : Nat) (word : RegWord)
  /-- ENGINE_COMMAND_START (R196). -/
  | engineCommandStart (comb : Nat)
  /-- ENGINE_COMMAND_COMPLETE (R199). -/
  | engineCommandComplete (comb : Nat)
  /-- ENGINE_ERROR_COMPLETION (R200). -/
  | engineErrorCompletion (comb : Nat)
  /-- ENGINE_COMMAND_CANCEL (R204). -/
  | engineCommandCancel (comb : Nat)
  /-- ORPHANED_WAIT_TIMEOUT (R182). -/
  | orphanedWaitTimeout (core slot entry : Nat)
  /-- LAUNCH_TAKE (R365). -/
  | launchTake (cslot queue : Nat)
  /-- WORKGROUP_PLACEMENT (R367). -/
  | workgroupPlacement (cslot queue : Nat)
  /-- TASK_START (R374). -/
  | taskStart (cslot idx : Nat)
  /-- CONSUMER_DISPATCH (R381). -/
  | consumerDispatch (idx : Nat)
  /-- EVICTION_SAVE (R402). -/
  | evictionSave (wg : Nat) (warp : Option Nat)
  /-- RESTORE (R404). -/
  | restore (image core : Nat)
  /-- WARP_END (R360). -/
  | warpEnd (core slot : Nat)
  /-- WORKGROUP_END (R360). -/
  | workgroupEnd (wg : Nat)
  /-- LAUNCH_END (R379). -/
  | launchEnd (launch : Nat)
  /-- PRIORITY_AGING (R370). -/
  | priorityAging (tower : Nat)
  /-- TROLE_KTARGET (R51). -/
  | troleKtarget (tower k : Nat) (clearErr : Bool)
  /-- TROLE_DMASK (R52). -/
  | troleDmask (tower mask : Nat)
  /-- TROLE_ERR_CLEAR (R50). -/
  | troleErrClear (tower : Nat)
  /-- ROLE_CHANGE (R53). -/
  | roleChange (tower : Nat)
  /-- QCTL_WRITE (R364). -/
  | qctlWrite (cslot queue : Nat) (val : W64)
  /-- QCTL_ERR_CLEAR (R364). -/
  | qctlErrClear (cslot queue : Nat)
  /-- QTAIL_WRITE (R415). -/
  | qtailWrite (host : Bool) (cslot queue : Nat) (val : W32)
  /-- LLEN_WRITE (R163). -/
  | llenWrite (tower cls : Nat) (val : W32)
  /-- MCOINR_WRITE (R316). -/
  | mcoinrWrite (tower : Nat) (val : W32)
  /-- XPLIM_WRITE (R233). -/
  | xplimWrite (core : Nat) (val : W32)
  /-- ECBASE_WRITE (R411). -/
  | ecbaseWrite (comb : Nat) (val : W64)
  /-- ECSIZE_WRITE (R411). -/
  | ecsizeWrite (comb : Nat) (val : W32)
  /-- MONITOR_CLEAR (R427). -/
  | monitorClear (m : Nat)
  /-- MONITOR_SAMPLE (R427). -/
  | monitorSample (m val : Nat)
  /-- REGISTER_WRITE (R412). -/
  | registerWrite (writer : MmioWriter) (offset size : Nat) (val : W64)
  /-- COLD_START (R421). -/
  | coldStart (k0 k1 time : Nat)
  /-- WARM_START (R421). -/
  | warmStart (time : Nat) (checkFails : Bool)
  /-- LIFECYCLE_CHANGE (R423). -/
  | lifecycleChange (signed : Bool) (state : Nat)
  /-- QUOTE (R424). -/
  | quote (nonce : Nat)
  /-- POWER_LOSS (R425). -/
  | powerLoss
  /-- HOST_MEMORY_ACCESS (R415). -/
  | hostMemoryAccess (addr : HostAddr) (len : Nat) (data : Option (List Byte))
  /-- FLIT_RECEIVE (R416). -/
  | flitReceive (port : Nat) (seq : FlitHead) (crcOk : Bool)
  /-- PORT_DOWN (R416). -/
  | portDown (port : Nat)
  /-- LINK_TIME_MESSAGE (R418). -/
  | linkTimeMessage (peer : Nat) (time : LinkTime)
  /-- PTM_SYNC (R418). -/
  | ptmSync (time : Nat)
  /-- THERMAL_SAMPLE (R419). -/
  | thermalSample (tower : Nat) (temps : List Int)
  /-- PURSE_REFILL (R316). -/
  | purseRefill (tower : Nat)
  /-- HOST_LINK_LOSS (R418). -/
  | hostLinkLoss
  /-- HOST_LINK_RETURN (R418). -/
  | hostLinkReturn (time : Nat)
  /-- REGISTER_SOFT_ERROR (R238). -/
  | registerSoftError (core : Nat) (word : RegWord) (double : Bool)
  /-- MANAGEMENT_CLUSTER_ACCESS (R193). -/
  | managementClusterAccess (addr len : Nat) (data : Option (List Byte))
  /-- TIME_REPORT_SEND (R167). -/
  | timeReportSend (agent : Agent)
  deriving DecidableEq, Repr

end Sys2Proof
end

