-- ==== Sys2Proof/Decode.lean ====
section
/-!
DEFINITION. The decoder and the encoder of the 96-bit instruction word (spec/01 R12 to R21, R38, R39): the fields,
the form of every instruction, the check of a word, and the reading of a fetch line's slots (R22 to R27).
Decoding is total: a word that no definition gives is rejected by name, and the machine then takes fault 0x0D.
-/
namespace Sys2Proof

/-! ### Small helpers over bytes and signs -/

/-- The number that `n` little-endian bytes make (R7). -/
def leNat : List Byte → Nat
  | [] => 0
  | b :: bs => b.toNat + 256 * leNat bs

/-- The `n` little-endian bytes of a number (R7). -/
def leBytes : Nat → Nat → List Byte
  | 0, _ => []
  | n + 1, x => BitVec.ofNat 8 x :: leBytes n (x / 256)

/-- The value of the low `w` bits of `x` as a signed number. -/
def sval (w x : Nat) : Int :=
  let y := x % 2 ^ w
  if y < 2 ^ (w - 1) then (y : Int) else (y : Int) - 2 ^ w

/-- A signed number as `w` bits, wrapping (R111). -/
def wrapInt (w : Nat) (x : Int) : Nat := (x % 2 ^ w).toNat

/-- `SignExtend(imm, 64)` of a 32-bit immediate (R21). -/
def simm (imm : BitVec 32) : Int := sval 32 imm.toNat

/-! ### Rejections -/

/-- Why a word is no instruction (R39). Each is fault 0x0D when the fragment reaches it. -/
inductive Reject where
  /-- Major 0x00 or a reserved major (R38). -/
  | major
  /-- A minor that the major does not define. -/
  | minor
  /-- Minor [86] set with a type code other than 14 or 15 (R18). -/
  | signBit
  /-- A type code the instruction does not accept (R17). -/
  | type
  /-- An operand value outside its kind, misaligned, or a non-zero unused operand field (R13, R15). -/
  | operand
  /-- A scalar bit or bimm where R14 reserves it. -/
  | scalarBit
  /-- pneg = 1 with pk = 0, or a predicate where the instruction takes none (R16, R245). -/
  | predicate
  /-- A reserved rounding code, qualifier bit or combination (R19, R20). -/
  | qualifier
  /-- A non-zero unused immediate or one outside the instruction's range (R21). -/
  | immediate
  /-- A combination of fields that the instruction's own definition excludes. -/
  | combination
  /-- The instruction has no 12 bytes, or is a step of the device that has no encoding. -/
  | noWord
  deriving DecidableEq, Repr

/-! ### Fields -/

/-- minor [85:80], the operation variant (R12). -/
def mv (f : Fields) : Nat := f.minor.toNat % 64
/-- The type code (R17). -/
def tv (f : Fields) : Nat := f.typ.toNat
/-- The qualifier bits [35:32] as a number. -/
def qv (f : Fields) : Nat := f.qual.toNat
/-- The immediate as an unsigned number. -/
def iv (f : Fields) : Nat := f.imm.toNat
/-- minor [86], the signedness of packed elements (R18). -/
def signBit (f : Fields) : Bool := bitAt f.minor.toNat 6
/-- minor [85:83]: a load's status mask or a gather's completion mask (R211). -/
def ksOf (f : Fields) : Nat := mv f / 8
/-- Does the type code name a 64-bit type (R15)? -/
def wideType (t : Nat) : Bool := t == 3 || t == 4 || t == 6
/-- The width in bits of a value of the instruction's type: 64 for s64, n64 and f64, else 32. -/
def wide (f : Fields) : Nat := if wideType (tv f) then 64 else 32

/-- The fields of a 96-bit word (R12). -/
def unpack (w : BitVec 96) : Fields :=
  { sw := w.getLsbD 87, minor := w.extractLsb' 80 7, dst := w.extractLsb' 72 8, opa := w.extractLsb' 64 8,
    opb := w.extractLsb' 56 8, opc := w.extractLsb' 48 8, pneg := w.getLsbD 47, pk := w.extractLsb' 44 3,
    typ := w.extractLsb' 40 4, ascl := w.getLsbD 39, bscl := w.getLsbD 38, bimm := w.getLsbD 37,
    cscl := w.getLsbD 36, qual := w.extractLsb' 32 4, imm := w.extractLsb' 0 32 }

/-- The major opcode of a word (R12). -/
def majorOf (w : BitVec 96) : Nat := (w.extractLsb' 88 8).toNat

/-- The 96-bit word of a major opcode and the other fields (R12). -/
def pack (major : Nat) (f : Fields) : BitVec 96 :=
  BitVec.ofNat 8 major ++ BitVec.ofBool f.sw ++ f.minor ++ f.dst ++ f.opa ++ f.opb ++ f.opc ++
    BitVec.ofBool f.pneg ++ f.pk ++ f.typ ++ BitVec.ofBool f.ascl ++ BitVec.ofBool f.bscl ++
    BitVec.ofBool f.bimm ++ BitVec.ofBool f.cscl ++ f.qual ++ f.imm

/-! ### The form of an instruction -/

/-- The kind of an operand field (R13). A vector or scalar operand may stand for several consecutive registers
from one whose number is a multiple of `align`. -/
inductive Opd where
  | no
  | vec (count align : Nat)
  | sca (count align : Nat)
  | mask
  /-- a mask register that is written, so not k0 (R229) -/
  | maskW
  | mat
  | seg (allowed : List Nat)
  deriving DecidableEq, Repr

/-- The form of an instruction: the kinds of its fields, the types it takes, and which other fields are legal. -/
structure Shape where
  dst     : Opd := .no
  a       : Opd := .no
  b       : Opd := .no
  c       : Opd := .no
  /-- the type codes accepted (R17) -/
  types   : List Nat := [0]
  minorOk : Bool
  qualOk  : Bool
  immOk   : Bool := true
  pkOk    : Bool := true
  extra   : Bool := true
  /-- may ascl, bscl, cscl turn the operand into a scalar register, and may bimm replace operand B (R14) -/
  aS      : Bool := false
  bS      : Bool := false
  cS      : Bool := false
  bI      : Bool := false
  /-- does the instruction read dst and operand C, and write operands A and C -/
  dstR    : Bool := false
  cR      : Bool := true
  aW      : Bool := false
  /-- are operand A's registers after the first read by the instruction itself, where it needs them (R142)? -/
  aLazy   : Bool := false
  cW      : Bool := false
  deriving DecidableEq, Repr

/-- The form with every optional field unused: minor 0, type 0, qual 0 (R243). -/
def base (f : Fields) : Shape := { minorOk := mv f = 0, qualOk := qv f = 0 }

/-- One scalar register. -/
def s1 : Opd := .sca 1 1
/-- A vector operand of the instruction's own type: an even/odd pair for a 64-bit type (R15). -/
def vw (f : Fields) : Opd := if wideType (tv f) then .vec 2 2 else .vec 1 1
/-- A vector operand of the type that a code names (R15, R243). -/
def vc (t : Nat) : Opd := if wideType t then .vec 2 2 else .vec 1 1
/-- The integer types s32, n32, s64, n64. -/
def intTypes : List Nat := [1, 2, 3, 4]
/-- The untyped words b32 and n64. -/
def bitTypes : List Nat := [0, 4]
/-- imm is zero, or operand B under bimm, where f16 and bf16 take 16 bits only (R14, R21). -/
def bImm (f : Fields) : Bool :=
  if f.bimm then !(tv f == 7 || tv f == 8) || iv f < 65536 else iv f == 0
/-- imm is a bit field: position in [7:0], length in [15:8], inside a `w`-bit value (R257, R258). -/
def fieldImm (f : Fields) (w : Nat) : Bool :=
  iv f < 65536 && iv f / 256 != 0 && iv f / 256 ≤ w && iv f % 256 + iv f / 256 ≤ w
/-- Scalar integer, three operands (R256). -/
def shS3 (f : Fields) (sat : Bool) : Shape :=
  { base f with dst := s1, a := s1, b := s1, bI := true, types := intTypes, immOk := bImm f,
                qualOk := if sat then qv f < 2 else qv f = 0 }
/-- Vector, destination and operand A (R259). -/
def shV2 (f : Fields) (types : List Nat) (sat : Bool) : Shape :=
  { base f with dst := vw f, a := vw f, aS := true, types := types, immOk := iv f = 0,
                qualOk := if sat then qv f < 2 else qv f = 0 }
/-- Vector, destination and operands A and B (R259). -/
def shV3 (f : Fields) (types : List Nat) (sat : Bool) : Shape :=
  { shV2 f types sat with b := vw f, bS := true, bI := true, immOk := bImm f }
/-- Floating point, operand A; `mode` says whether qual holds a rounding mode (R263, R19). -/
def shF2 (f : Fields) (mode : Bool) : Shape :=
  { base f with dst := vw f, a := vw f, aS := true, types := [5, 6, 7, 8], immOk := iv f = 0,
                qualOk := if mode then qv f ≤ 4 else qv f = 0 }
/-- Floating point, operands A and B. -/
def shF3 (f : Fields) (mode : Bool) : Shape :=
  { shF2 f mode with b := vw f, bS := true, bI := true, immOk := bImm f }
/-- qual of the per-lane address form: [35] index present, [34:33] scale, which a form without an index does not read, [32]
as `low` allows (R183, R206). -/
def idxQual (f : Fields) (low : Bool) : Bool := low || qv f % 2 = 0
/-- The per-lane address form (R183, R206): base, index, segment, offset. -/
def shMem (f : Fields) (segs : List Nat) : Shape :=
  { base f with a := s1, b := if qv f / 8 = 1 then .vec 1 1 else .no, bS := qv f / 8 = 1, c := .seg segs,
                qualOk := idxQual f false }
/-- The register operand of a sized access: a pair for 8 bytes (R212). -/
def sizeReg (f : Fields) : Opd := if mv f % 4 = 3 then .vec 2 2 else .vec 1 1
/-- The registers of LDFE and STFE: .x1, .x2, .x4 (R184). -/
def feReg (f : Fields) : Opd := let n := 2 ^ (mv f / 2 % 4); .vec n n
/-- The registers of ATOM (R220). -/
def atomReg (f : Fields) : Opd :=
  if wideType (tv f) then (if mv f = 8 then .vec 4 4 else .vec 2 2)
  else if mv f = 8 then .vec 2 1 else .vec 1 1
/-- The minor of a matrix instruction sets no bit outside the listed ones (R299). -/
def mMinor (f : Fields) (allowed : List Nat) : Bool :=
  (List.range 6).all fun i => !bitAt (mv f) i || allowed.contains i
/-- The immediate of a matrix instruction: a barrier in [22:0] under .bar, a count up to `n` in [28:23] (R299). -/
def barImm (f : Fields) (n : Nat) : Bool :=
  (if bitAt (mv f) 3 then iv f % 32 = 0 else iv f % 2 ^ 23 = 0) &&
    (if n = 0 then iv f < 2 ^ 23 else 1 ≤ iv f / 2 ^ 23 && iv f / 2 ^ 23 ≤ n)
/-- A memory operand of MMA: a scalar pair, or a quad for the block formats (R299). -/
def memSca (f : Fields) : Opd := if 11 ≤ tv f ∧ tv f ≤ 13 then .sca 4 4 else .sca 2 2

/-- The major opcode of each instruction (R38); a step of the device has none. -/
def Instr.major (i : Instr) : Option Nat :=
  match i with
  | .nop _ => some 0x01
  | .bra _ => some 0x02
  | .brs _ => some 0x03
  | .brv _ => some 0x04
  | .jmpx _ => some 0x05
  | .call _ => some 0x06
  | .callx _ => some 0x07
  | .ret _ => some 0x08
  | .rcvg _ => some 0x09
  | .exit _ => some 0x0A
  | .yield _ => some 0x0B
  | .waitc _ => some 0x0C
  | .trapf _ => some 0x0D
  | .sysc _ => some 0x0E
  | .bkpt _ => some 0x0F
  | .elect _ => some 0x10
  | .loop _ => some 0x11
  | .sget _ => some 0x12
  | .sput _ => some 0x13
  | .xacq _ => some 0x14
  | .xrel _ => some 0x15
  | .isync _ => some 0x16
  | .kop _ => some 0x18
  | .kpop _ => some 0x19
  | .kff1 _ => some 0x1A
  | .ktos _ => some 0x1B
  | .stok _ => some 0x1C
  | .exmrd _ => some 0x1D
  | .exmwr _ => some 0x1E
  | .sadd _ => some 0x20
  | .ssub _ => some 0x21
  | .smul _ => some 0x22
  | .smulh _ => some 0x23
  | .sdiv _ => some 0x24
  | .srem _ => some 0x25
  | .sand _ => some 0x26
  | .sor _ => some 0x27
  | .sxor _ => some 0x28
  | .sshl _ => some 0x29
  | .sshr _ => some 0x2A
  | .ssra _ => some 0x2B
  | .smin _ => some 0x2C
  | .smax _ => some 0x2D
  | .scmp _ => some 0x2E
  | .ssel _ => some 0x2F
  | .smov _ => some 0x30
  | .sli _ => some 0x31
  | .slea _ => some 0x32
  | .sclz _ => some 0x33
  | .spop _ => some 0x34
  | .sbfe _ => some 0x35
  | .sbfi _ => some 0x36
  | .sld _ => some 0x37
  | .sst _ => some 0x38
  | .vadd _ => some 0x40
  | .vsub _ => some 0x41
  | .vmul _ => some 0x42
  | .vmulh _ => some 0x43
  | .vmad _ => some 0x44
  | .vand _ => some 0x45
  | .vor _ => some 0x46
  | .vxor _ => some 0x47
  | .vnot _ => some 0x48
  | .vshl _ => some 0x49
  | .vshr _ => some 0x4A
  | .vsra _ => some 0x4B
  | .vmin _ => some 0x4C
  | .vmax _ => some 0x4D
  | .vabs _ => some 0x4E
  | .vneg _ => some 0x4F
  | .vclz _ => some 0x50
  | .vpop _ => some 0x51
  | .vbrev _ => some 0x52
  | .vbfe _ => some 0x53
  | .vbfi _ => some 0x54
  | .vsad _ => some 0x55
  | .vdot4 _ => some 0x56
  | .vcmp _ => some 0x57
  | .vsel _ => some 0x58
  | .vmov _ => some 0x59
  | .vli _ => some 0x5A
  | .vlane _ => some 0x5B
  | .vcvt _ => some 0x5C
  | .fadd _ => some 0x60
  | .fsub _ => some 0x61
  | .fmul _ => some 0x62
  | .ffma _ => some 0x63
  | .fmin _ => some 0x64
  | .fmax _ => some 0x65
  | .fabs _ => some 0x66
  | .fneg _ => some 0x67
  | .fcps _ => some 0x68
  | .fcmp _ => some 0x69
  | .fclass _ => some 0x6A
  | .frnd _ => some 0x6B
  | .fcvt _ => some 0x6C
  | .fcvti _ => some 0x6D
  | .icvtf _ => some 0x6E
  | .fscale _ => some 0x6F
  | .fdot2 _ => some 0x70
  | .rcp _ => some 0x78
  | .rsq _ => some 0x79
  | .sqrt _ => some 0x7A
  | .exp2 _ => some 0x7B
  | .log2 _ => some 0x7C
  | .sinpi _ => some 0x7D
  | .cospi _ => some 0x7E
  | .tanh _ => some 0x7F
  | .rng _ => some 0x80
  | .rngseed _ => some 0x81
  | .decw _ => some 0x82
  | .packw _ => some 0x83
  | .shfl _ => some 0x88
  | .bcast _ => some 0x89
  | .vred _ => some 0x8A
  | .vscan _ => some 0x8B
  | .vcmprs _ => some 0x8C
  | .vexpnd _ => some 0x8D
  | .ballot _ => some 0x8E
  | .matchL _ => some 0x8F
  | .ld _ => some 0x90
  | .st _ => some 0x91
  | .gath _ => some 0x94
  | .scat _ => some 0x95
  | .ldb _ => some 0x92
  | .stb _ => some 0x93
  | .atom _ => some 0x96
  | .atomw _ => some 0x97
  | .stnt _ => some 0x98
  | .drainnt _ => some 0x99
  | .fenceCode _ => some 0x9A
  | .fenceIo _ => some 0x9A
  | .fenceEng _ => some 0x9A
  | .ldfe _ => some 0x9B
  | .stfe _ => some 0x9C
  | .pft _ => some 0x9D
  | .cflush _ => some 0x9E
  | .iflush _ => some 0x9F
  | .llock _ => some 0xA0
  | .lunlk _ => some 0xA1
  | .lnclaim _ => some 0xF4
  | .binit _ => some 0xB0
  | .barv _ => some 0xB1
  | .bexp _ => some 0xB2
  | .bwait _ => some 0xB3
  | .btest _ => some 0xB4
  | .bdrop _ => some 0xB5
  | .seqw _ => some 0xB6
  | .grpsync _ => some 0xB7
  | .spawn _ => some 0xB8
  | .watch _ => some 0xB9
  | .unwatch _ => some 0xBA
  | .iter _ => some 0xBB
  | .rqpush _ => some 0xBC
  | .mrsv _ => some 0xC0
  | .mfree _ => some 0xC1
  | .mzero _ => some 0xC2
  | .mldD _ => some 0xC3
  | .mldF _ => some 0xC3
  | .mstD _ => some 0xC4
  | .mstF _ => some 0xC4
  | .mma _ => some 0xC5
  | .maddf _ => some 0xC6
  | .maddm _ => some 0xC7
  | .mmulf _ => some 0xC8
  | .mrcmp _ => some 0xC9
  | .mdns _ => some 0xCA
  | .mrank _ => some 0xCB
  | .mrankErr _ => some 0xCB
  | .mrowp _ => some 0xCC
  | .mrowpSet _ => some 0xCC
  | .mscl _ => some 0xCD
  | .mmovv _ => some 0xCE
  | .mmovm _ => some 0xCF
  | .hld _ => some 0xD0
  | .hstat _ => some 0xD1
  | .fopen _ => some 0xD2
  | .fseal _ => some 0xD3
  | .fcomp _ => some 0xD4
  | .fret _ => some 0xD5
  | .trace _ => some 0xD8
  | .pair _ => some 0xD9
  | .pairx _ => some 0xDA
  | .cover _ => some 0xDB
  | .ztst _ => some 0xDC
  | .ordwWait _ => some 0xDD
  | .ordwAdv _ => some 0xDD
  | .tlacq _ => some 0xDE
  | .tlrel _ => some 0xDF
  | .segld _ => some 0xF0
  | .segldW _ => some 0xF0
  | .tlbinvAll _ => some 0xF1
  | .tlbinvCtx _ => some 0xF1
  | .tlbinvPage _ => some 0xF1
  | .tlbinvRange _ => some 0xF1
  | .wresume _ => some 0xF2
  | .wkill _ => some 0xF3
  | .wkillCtx _ => some 0xF3
  | .frqack _ => some 0xF5
  | .cfgrd _ => some 0xF6
  | .cfgwr _ => some 0xF7
  | .ctxsave _ => some 0xF8
  | .ctxsaveCtx _ => some 0xF8
  | .haltc _ => some 0xF9
  | .haltcGo _ => some 0xF9
  | .stntPerform _ _ _ | .matrixOpStart _ | .matrixOpComplete _ | .operandsConsumed _ | .matrixOpStop _
  | .matrixErrorCompletion _ | .pairOperationRun _ _ _ | .pairOperationComplete _ _ _ | .pairOperationStop _ _ _
  | .lineFetch _ _ _ _ | .faultRecordPost _ _ | .feedbackUpdate _ _ _ | .readRequest _ _ | .readReply _ _
  | .forwardedRead _ _ | .writeRequest _ _ | .writeReply _ _ | .eviction _ _ | .recall _ _
  | .transientTimeout _ _ | .persistentRequest _ _ | .persistentRequestEnd _ _ | .leaseRead _ _ _
  | .leaseStore _ _ _ | .ownershipRequest _ _ | .lineReturn _ _ _ _ | .outsideLeaseExpiry _ | .timeReport _ _
  | .timeReportTimeout _ | .timeLostExpiry _ | .amnesty _ | .writeBack _ | .mergePath _
  | .uncorrectableSoftError _ _ | .scrub _ _ | .engineCommandStart _ | .engineCommandComplete _
  | .engineErrorCompletion _ | .engineCommandCancel _ | .orphanedWaitTimeout _ _ _ | .launchTake _ _
  | .workgroupPlacement _ _ | .taskStart _ _ | .consumerDispatch _ | .evictionSave _ _ | .restore _ _
  | .warpEnd _ _ | .workgroupEnd _ | .launchEnd _ | .priorityAging _ | .troleKtarget _ _ _ | .troleDmask _ _
  | .troleErrClear _ | .roleChange _ | .qctlWrite _ _ _ | .qctlErrClear _ _ | .qtailWrite _ _ _ _
  | .llenWrite _ _ _ | .mcoinrWrite _ _ | .xplimWrite _ _ | .ecbaseWrite _ _ | .ecsizeWrite _ _
  | .monitorClear _ | .monitorSample _ _ | .registerWrite _ _ _ _ | .coldStart _ _ _ | .warmStart _ _
  | .lifecycleChange _ _ | .quote _ | .powerLoss | .hostMemoryAccess _ _ _ | .flitReceive _ _ _ | .portDown _
  | .linkTimeMessage _ _ | .ptmSync _ | .thermalSample _ _ | .purseRefill _ | .hostLinkLoss | .hostLinkReturn _
  | .registerSoftError _ _ _ | .managementClusterAccess _ _ _ | .timeReportSend _ => none

/-- The fields of an instruction word (R12); a step of the device has none. -/
def Instr.fields (i : Instr) : Option Fields :=
  match i with
  | .nop f | .bra f | .brs f | .brv f | .jmpx f | .call f | .callx f | .ret f | .rcvg f | .exit f | .yield f
  | .waitc f | .trapf f | .sysc f | .bkpt f | .elect f | .loop f | .sget f | .sput f | .xacq f | .xrel f
  | .isync f | .kop f | .kpop f | .kff1 f | .ktos f | .stok f | .exmrd f | .exmwr f | .sadd f | .ssub f
  | .smul f | .smulh f | .sdiv f | .srem f | .sand f | .sor f | .sxor f | .sshl f | .sshr f | .ssra f | .smin f
  | .smax f | .scmp f | .ssel f | .smov f | .sli f | .slea f | .sclz f | .spop f | .sbfe f | .sbfi f | .sld f
  | .sst f | .vadd f | .vsub f | .vmul f | .vmulh f | .vmad f | .vand f | .vor f | .vxor f | .vnot f | .vshl f
  | .vshr f | .vsra f | .vmin f | .vmax f | .vabs f | .vneg f | .vclz f | .vpop f | .vbrev f | .vbfe f | .vbfi f
  | .vsad f | .vdot4 f | .vcmp f | .vsel f | .vmov f | .vli f | .vlane f | .vcvt f | .fadd f | .fsub f | .fmul f
  | .ffma f | .fmin f | .fmax f | .fabs f | .fneg f | .fcps f | .fcmp f | .fclass f | .frnd f | .fcvt f
  | .fcvti f | .icvtf f | .fscale f | .fdot2 f | .rcp f | .rsq f | .sqrt f | .exp2 f | .log2 f | .sinpi f
  | .cospi f | .tanh f | .rng f | .rngseed f | .decw f | .packw f | .shfl f | .bcast f | .vred f | .vscan f
  | .vcmprs f | .vexpnd f | .ballot f | .matchL f | .ld f | .st f | .gath f | .scat f | .ldb f | .stb f
  | .atom f | .atomw f | .stnt f | .drainnt f | .fenceCode f | .fenceIo f | .fenceEng f | .ldfe f | .stfe f
  | .pft f | .cflush f | .iflush f | .llock f | .lunlk f | .lnclaim f | .binit f | .barv f | .bexp f | .bwait f
  | .btest f | .bdrop f | .seqw f | .grpsync f | .spawn f | .watch f | .unwatch f | .iter f | .rqpush f
  | .mrsv f | .mfree f | .mzero f | .mldD f | .mldF f | .mstD f | .mstF f | .mma f | .maddf f | .maddm f
  | .mmulf f | .mrcmp f | .mdns f | .mrank f | .mrankErr f | .mrowp f | .mrowpSet f | .mscl f | .mmovv f
  | .mmovm f | .hld f | .hstat f | .fopen f | .fseal f | .fcomp f | .fret f | .trace f | .pair f | .pairx f
  | .cover f | .ztst f | .ordwWait f | .ordwAdv f | .tlacq f | .tlrel f | .segld f | .segldW f | .tlbinvAll f
  | .tlbinvCtx f | .tlbinvPage f | .tlbinvRange f | .wresume f | .wkill f | .wkillCtx f | .frqack f | .cfgrd f
  | .cfgwr f | .ctxsave f | .ctxsaveCtx f | .haltc f | .haltcGo f => some f
  | .stntPerform _ _ _ | .matrixOpStart _ | .matrixOpComplete _ | .operandsConsumed _ | .matrixOpStop _
  | .matrixErrorCompletion _ | .pairOperationRun _ _ _ | .pairOperationComplete _ _ _ | .pairOperationStop _ _ _
  | .lineFetch _ _ _ _ | .faultRecordPost _ _ | .feedbackUpdate _ _ _ | .readRequest _ _ | .readReply _ _
  | .forwardedRead _ _ | .writeRequest _ _ | .writeReply _ _ | .eviction _ _ | .recall _ _
  | .transientTimeout _ _ | .persistentRequest _ _ | .persistentRequestEnd _ _ | .leaseRead _ _ _
  | .leaseStore _ _ _ | .ownershipRequest _ _ | .lineReturn _ _ _ _ | .outsideLeaseExpiry _ | .timeReport _ _
  | .timeReportTimeout _ | .timeLostExpiry _ | .amnesty _ | .writeBack _ | .mergePath _
  | .uncorrectableSoftError _ _ | .scrub _ _ | .engineCommandStart _ | .engineCommandComplete _
  | .engineErrorCompletion _ | .engineCommandCancel _ | .orphanedWaitTimeout _ _ _ | .launchTake _ _
  | .workgroupPlacement _ _ | .taskStart _ _ | .consumerDispatch _ | .evictionSave _ _ | .restore _ _
  | .warpEnd _ _ | .workgroupEnd _ | .launchEnd _ | .priorityAging _ | .troleKtarget _ _ _ | .troleDmask _ _
  | .troleErrClear _ | .roleChange _ | .qctlWrite _ _ _ | .qctlErrClear _ _ | .qtailWrite _ _ _ _
  | .llenWrite _ _ _ | .mcoinrWrite _ _ | .xplimWrite _ _ | .ecbaseWrite _ _ | .ecsizeWrite _ _
  | .monitorClear _ | .monitorSample _ _ | .registerWrite _ _ _ _ | .coldStart _ _ _ | .warmStart _ _
  | .lifecycleChange _ _ | .quote _ | .powerLoss | .hostMemoryAccess _ _ _ | .flitReceive _ _ _ | .portDown _
  | .linkTimeMessage _ _ | .ptmSync _ | .thermalSample _ _ | .purseRefill _ | .hostLinkLoss | .hostLinkReturn _
  | .registerSoftError _ _ _ | .managementClusterAccess _ _ _ | .timeReportSend _ => none

/-- The form of each instruction, from its own definition in the spec. COVER, PAIR and RQPUSH take no scalar bit on their operand
A, which is several vector registers: R14 gives no value such a bit would deliver (DESIGN CHOICE, log 97). -/
def Instr.shape (i : Instr) : Option Shape :=
  match i with
  | .nop f => some { base f with immOk := iv f = 0, pkOk := f.pk = 0, extra := f.pneg = false }
  | .bra f => some (base f)
  | .brs f => some { base f with a := s1, minorOk := mv f < 4 }
  | .brv f => some { base f with minorOk := true }
  | .jmpx f => some { base f with a := s1, immOk := iv f = 0 }
  | .call f => some { base f with dst := s1 }
  | .callx f => some { base f with dst := s1, a := .vec 1 1, b := s1, minorOk := true, immOk := iv f = 0 }
  | .ret f => some { base f with a := s1, immOk := iv f = 0 }
  | .rcvg f => some { base f with immOk := iv f < 64, pkOk := f.pk = 0 }
  | .exit f => some { base f with immOk := iv f = 0 }
  | .yield f => some { base f with immOk := iv f = 0, pkOk := f.pk = 0 }
  | .waitc f => some { base f with minorOk := mv f < 3, immOk := iv f < 256 }
  | .trapf f => some { base f with immOk := iv f = 0 }
  | .sysc f => some { base f with immOk := iv f < 65536 }
  | .bkpt f => some { base f with immOk := iv f < 65536 }
  | .elect f => some { base f with dst := .maskW, immOk := iv f = 0 }
  | .loop f => some { base f with a := s1, aW := true }
  | .sget f => some { base f with dst := if iv f = 0 then .vec 1 1 else s1, immOk := iv f ≤ 0x0C }
  | .sput f => some { base f with a := s1, immOk := [0x06, 0x07, 0x08, 0x0A, 0x0B].contains (iv f) }
  | .xacq f => some { base f with immOk := 1 ≤ iv f ∧ iv f ≤ 6 }
  | .xrel f => some { base f with immOk := iv f = 0, pkOk := f.pk = 0 }
  | .isync f => some { base f with immOk := iv f = 0, pkOk := f.pk = 0 }
  | .kop f => some { base f with dst := .maskW, a := .mask, b := if mv f = 0 ∨ mv f = 5 then .no else .mask, minorOk := mv f ≤ 5, immOk := iv f = 0 }
  | .kpop f => some { base f with dst := s1, a := .mask, immOk := iv f = 0 }
  | .kff1 f => some { base f with dst := s1, a := .mask, immOk := iv f = 0 }
  | .ktos f => some { base f with dst := s1, a := .mask, immOk := iv f = 0 }
  | .stok f => some { base f with dst := .maskW, a := s1, immOk := iv f = 0 }
  | .exmrd f => some { base f with dst := .maskW, immOk := iv f = 0 }
  | .exmwr f => some { base f with a := .mask, immOk := iv f = 0, pkOk := f.pk = 0 }
  | .sadd f => some (shS3 f true)
  | .ssub f => some (shS3 f true)
  | .smul f => some (shS3 f true)
  | .smulh f => some (shS3 f false)
  | .sdiv f => some (shS3 f false)
  | .srem f => some (shS3 f false)
  | .sand f => some (shS3 f false)
  | .sor f => some (shS3 f false)
  | .sxor f => some (shS3 f false)
  | .sshl f => some (shS3 f false)
  | .sshr f => some (shS3 f false)
  | .ssra f => some (shS3 f false)
  | .smin f => some (shS3 f false)
  | .smax f => some (shS3 f false)
  | .scmp f => some { shS3 f false with minorOk := mv f ≤ 5 }
  | .ssel f => some { shS3 f false with c := s1 }
  | .smov f => some { base f with dst := s1, a := s1, types := intTypes, immOk := iv f = 0 }
  | .sli f => some { base f with dst := s1, types := if mv f = 1 then [4] else intTypes, minorOk := mv f ≤ 1, dstR := mv f = 1 }
  | .slea f => some { base f with dst := s1, a := s1, b := s1, types := [4], qualOk := qv f < 4 }
  | .sclz f => some { base f with dst := s1, a := s1, types := intTypes, immOk := iv f = 0 }
  | .spop f => some { base f with dst := s1, a := s1, types := intTypes, immOk := iv f = 0 }
  | .sbfe f => some { base f with dst := s1, a := s1, types := intTypes, immOk := fieldImm f (wide f) }
  | .sbfi f => some { base f with dst := s1, a := s1, types := intTypes, immOk := fieldImm f (wide f), dstR := true }
  | .sld f => some { base f with dst := s1, a := s1, c := .seg [0, 1, 3, 4, 5, 6, 7], minorOk := mv f < 4 }
  | .sst f => some { base f with dst := s1, a := s1, c := .seg [0, 1, 3, 4, 5, 6, 7], minorOk := mv f < 4, dstR := true }
  | .vadd f => some (shV3 f [1, 2, 3, 4, 14, 15] true)
  | .vsub f => some (shV3 f [1, 2, 3, 4, 14, 15] true)
  | .vmul f => some (shV3 f [1, 2, 3, 4, 15] true)
  | .vmulh f => some (shV3 f intTypes false)
  | .vmad f => some { shV3 f intTypes false with c := vw f, cS := true }
  | .vand f => some (shV3 f bitTypes false)
  | .vor f => some (shV3 f bitTypes false)
  | .vxor f => some (shV3 f bitTypes false)
  | .vnot f => some (shV2 f bitTypes false)
  | .vshl f => some (shV3 f [1, 2, 3, 4, 14, 15] false)
  | .vshr f => some (shV3 f [1, 2, 3, 4, 14, 15] false)
  | .vsra f => some (shV3 f [1, 2, 3, 4, 14, 15] false)
  | .vmin f => some (shV3 f [1, 2, 3, 4, 14, 15] false)
  | .vmax f => some (shV3 f [1, 2, 3, 4, 14, 15] false)
  | .vabs f => some { shV2 f [1, 3, 14, 15] true with extra := tv f < 14 ∨ signBit f }
  | .vneg f => some { shV2 f [1, 3, 14, 15] true with extra := tv f < 14 ∨ signBit f }
  | .vclz f => some (shV2 f bitTypes false)
  | .vpop f => some (shV2 f bitTypes false)
  | .vbrev f => some (shV2 f bitTypes false)
  | .vbfe f => some { shV2 f intTypes false with immOk := fieldImm f (wide f) }
  | .vbfi f => some { shV2 f bitTypes false with immOk := fieldImm f (wide f), dstR := true }
  | .vsad f => some { shV3 f [14] false with c := .vec 1 1, cS := true }
  | .vdot4 f => some { shV3 f [14] true with c := .vec 1 1, cS := true }
  | .vcmp f => some { shV3 f intTypes false with dst := .maskW, minorOk := mv f ≤ 5 }
  | .vsel f => some { shV3 f bitTypes false with c := .mask }
  | .vmov f => some (shV2 f bitTypes false)
  | .vli f => some { base f with dst := .vec 1 1 }
  | .vlane f => some { base f with dst := .vec 1 1, a := s1 }
  | .vcvt f => some { shV2 f intTypes true with a := vc (mv f % 8), minorOk := mv f < 8 ∧ 1 ≤ mv f ∧ mv f ≤ 4 ∧ mv f ≠ tv f }
  | .fadd f => some (shF3 f true)
  | .fsub f => some (shF3 f true)
  | .fmul f => some (shF3 f true)
  | .ffma f => some { shF3 f true with c := vw f, cS := true }
  | .fmin f => some (shF3 f false)
  | .fmax f => some (shF3 f false)
  | .fabs f => some (shF2 f false)
  | .fneg f => some (shF2 f false)
  | .fcps f => some (shF3 f false)
  | .fcmp f => some { shF3 f false with dst := .maskW, minorOk := mv f < 8 }
  | .fclass f => some (shF2 f false)
  | .frnd f => some { shF2 f true with qualOk := qv f % 8 ≤ 4 }
  | .fcvt f => some { shF2 f true with types := [5, 6, 7, 8, 9, 10], a := vc (mv f), minorOk := 5 ≤ mv f ∧ mv f ≤ 10 ∧ mv f ≠ tv f, qualOk := qv f % 8 ≤ 4 ∧ (qv f < 8 ∨ tv f = 9 ∨ tv f = 10) }
  | .fcvti f => some { shF2 f true with types := intTypes, a := vc (mv f), minorOk := 5 ≤ mv f ∧ mv f ≤ 8 }
  | .icvtf f => some { shF2 f true with a := vc (mv f), minorOk := 1 ≤ mv f ∧ mv f ≤ 4 }
  | .fscale f => some (shF3 f true)
  | .fdot2 f => some { shF3 f true with types := [7, 8], c := .vec 1 1, cS := true }
  | .rcp f => some { shF2 f false with types := [5] }
  | .rsq f => some { shF2 f false with types := [5] }
  | .sqrt f => some { shF2 f true with types := [5] }
  | .exp2 f => some { shF2 f false with types := [5] }
  | .log2 f => some { shF2 f false with types := [5] }
  | .sinpi f => some { shF2 f false with types := [5] }
  | .cospi f => some { shF2 f false with types := [5] }
  | .tanh f => some { shF2 f false with types := [5] }
  | .rng f => some { base f with dst := .vec 1 1, immOk := iv f = 0 }
  | .rngseed f => some { base f with a := s1, b := s1, immOk := iv f = 0 }
  | .decw f => some { base f with dst := vw f, a := s1, aW := true, b := if mv f = 3 then .no else s1, bI := mv f ≠ 3, c := if mv f = 1 ∨ mv f = 2 then s1 else .no, cR := true, cW := true, types := if mv f = 2 then [1, 2] else intTypes, minorOk := mv f ≤ 4, immOk := bImm f }
  | .packw f => some { base f with dst := s1, dstR := true, a := vw f, b := s1, bI := true, types := intTypes, qualOk := qv f < 2, immOk := bImm f }
  | .shfl f => some { shV3 f bitTypes false with b := .vec 1 1, aS := false, minorOk := mv f < 4 }
  | .bcast f => some { shV3 f bitTypes false with b := .vec 1 1, aS := false }
  | .vred f => some { base f with dst := s1, a := vw f, aS := true, types := [1, 2, 3, 4, 5], minorOk := if tv f = 5 then mv f ≤ 2 else mv f ≤ 5, immOk := iv f = 0 }
  | .vscan f => some { base f with dst := vw f, a := vw f, aS := true, types := [1, 2, 3, 4, 5], minorOk := if tv f = 5 then mv f ≤ 2 else mv f ≤ 5, qualOk := qv f < 2, immOk := iv f = 0 }
  | .vcmprs f => some { base f with dst := vw f, a := vw f, aS := true, b := .mask, c := s1, cR := false, cW := true, types := bitTypes, qualOk := qv f < 2, immOk := iv f = 0 }
  | .vexpnd f => some { base f with dst := vw f, a := vw f, aS := true, b := .mask, c := s1, cR := false, cW := true, types := bitTypes, qualOk := qv f < 2, immOk := iv f = 0 }
  | .ballot f => some { base f with dst := .maskW, a := vw f, aS := true, types := bitTypes, immOk := iv f = 0 }
  | .matchL f => some { base f with dst := vw f, a := vw f, aS := true, types := bitTypes, immOk := iv f = 0 }
  | .ld f => some { shMem f [0, 1, 2, 3, 4, 5, 6, 7] with dst := sizeReg f, minorOk := true, qualOk := idxQual f true, extra := decide (ksOf f ≠ 0) == (bitAt (mv f) 2 || bitAt (qv f) 0) }
  | .st f => some { shMem f [0, 1, 2, 3, 4, 5, 6, 7] with dst := if mv f = 4 then .vec 4 4 else sizeReg f, dstR := true, minorOk := mv f ≤ 4 }
  | .gath f => some { shMem f [0, 1, 2, 3, 4, 5, 6, 7] with dst := sizeReg f, dstR := false, minorOk := !bitAt (mv f) 2, extra := ksOf f ≠ 0 ∧ (f.pk = 0 ∨ ksOf f ≠ f.pk.toNat) }
  | .scat f => some { shMem f [0, 1, 2, 3, 4, 5, 6, 7] with dst := sizeReg f, dstR := true, minorOk := !bitAt (mv f) 2, extra := ksOf f ≠ 0 ∧ (f.pk = 0 ∨ ksOf f ≠ f.pk.toNat) }
  | .ldb f => some { base f with dst := .vec 1 1,  a := .vec 1 1, aS := true, minorOk := mv f / 4 % 2 * 4 + ksOf f * 8 = mv f, qualOk := qv f < 2, immOk := iv f < 4096, extra := decide (ksOf f ≠ 0) == (bitAt (mv f) 2 || bitAt (qv f) 0) }
  | .stb f => some { base f with dst := .vec 1 1, dstR := true, a := .vec 1 1, aS := true, minorOk := mv f = 0, qualOk := qv f = 0, immOk := iv f < 4096, extra := true }
  | .atom f => some { shMem f [0, 1, 2, 3, 4, 5, 6, 7] with dst := atomReg f, dstR := true, types := if mv f = 9 then [5, 8] else intTypes, minorOk := mv f ≤ 9 }
  | .atomw f => some { shMem f [0, 1, 2, 3, 4, 5, 6, 7] with dst := .vec 8 8, dstR := true }
  | .stnt f => some { shMem f [0, 2] with dst := sizeReg f, dstR := true, minorOk := mv f < 4 }
  | .drainnt f => some { base f with immOk := iv f = 0, pkOk := f.pk = 0 }
  | .fenceCode f => some { base f with minorOk := mv f = 0, immOk := iv f = 0, pkOk := f.pk = 0 }
  | .fenceIo f => some { base f with minorOk := mv f = 1, immOk := iv f = 0, pkOk := f.pk = 0 }
  | .fenceEng f => some { base f with minorOk := mv f = 2, immOk := iv f = 0, pkOk := f.pk = 0 }
  | .ldfe f => some { shMem f [1] with dst := feReg f,  minorOk := mv f < 8 ∧ mv f / 2 ≠ 3 }
  | .stfe f => some { shMem f [1] with dst := if mv f % 2 = 1 then .no else feReg f, dstR := true, minorOk := mv f < 8 ∧ mv f / 2 ≠ 3 }
  | .pft f => some { shMem f [0, 2, 3, 5, 6, 7] with minorOk := mv f < 2 }
  | .cflush f => some { base f with a := s1, b := if mv f / 4 = 1 then s1 else .no, c := .seg [0, 2, 3, 5, 6, 7], minorOk := mv f % 4 ≠ 0 ∧ mv f / 4 < 3 }
  | .iflush f => some { base f with a := s1, b := s1, c := .seg [0, 3] }
  | .llock f => some { base f with a := s1, c := .seg [0, 3, 5, 6, 7] }
  | .lunlk f => some { base f with a := s1, c := .seg [0, 3, 5, 6, 7] }
  | .lnclaim f => some { base f with a := s1, b := s1, c := .seg [0, 3, 5, 6, 7] }
  | .binit f => some { base f with a := s1, b := s1, bI := true, immOk := bImm f }
  | .barv f => some { base f with dst := s1, a := s1, b := s1, bI := true, immOk := bImm f }
  | .bexp f => some { base f with a := s1, b := s1, minorOk := mv f < 2, bI := true, immOk := bImm f }
  | .bwait f => some { base f with dst := s1, a := s1, b := s1, immOk := iv f = 0 }
  | .btest f => some { base f with dst := s1, a := s1, b := s1, immOk := iv f = 0 }
  | .bdrop f => some { base f with a := s1, immOk := iv f = 0 }
  | .seqw f => some { base f with dst := s1, a := s1, immOk := iv f = 0 }
  | .grpsync f => some { base f with immOk := iv f < 256 }
  | .spawn f => some { base f with dst := s1, a := s1, c := .seg [0, 1, 5] }
  | .watch f => some { base f with dst := s1, a := s1, c := .seg [0, 1, 5], minorOk := mv f < 2 }
  | .unwatch f => some { base f with a := s1, immOk := iv f = 0, pkOk := f.pk = 0 }
  | .iter f => some { base f with dst := .sca 2 2, immOk := iv f = 0 }
  | .rqpush f => some { base f with dst := s1, a := .vec 4 4, b := s1, immOk := iv f = 0 }
  | .mrsv f => some { base f with dst := .mat, immOk := 1 ≤ iv f ∧ iv f ≤ 32 }
  | .mfree f => some { base f with dst := .mat, immOk := iv f = 0 }
  | .mzero f => some { base f with dst := .mat, minorOk := mMinor f [0, 4], immOk := iv f = 0 }
  | .mldD f => some { base f with dst := .mat, a := .sca 2 2, types := [5, 7, 8], minorOk := mMinor f [1, 3, 4], immOk := barImm f 0 }
  | .mldF f => some { base f with dst := .mat, a := .sca 2 2, b := .sca 2 2, types := [5, 7, 8], minorOk := bitAt (mv f) 0 && mMinor f [0, 1, 2, 3, 4], immOk := barImm f 32 }
  | .mstD f => some { base f with dst := .mat, dstR := true, a := .sca 2 2, types := [5, 7, 8], minorOk := mMinor f [1], qualOk := qv f ≤ 4, immOk := iv f = 0 }
  | .mstF f => some { base f with dst := .mat, dstR := true, a := .sca 2 2, b := .sca 2 2, types := [5, 7, 8], minorOk := bitAt (mv f) 0 && mMinor f [0, 1, 2], qualOk := qv f ≤ 4, immOk := iv f = 0 }
  | .mma f => some { base f with dst := .mat, dstR := true, a := memSca f, b := memSca f, types := [5, 7, 8, 9, 10, 11, 12, 13, 14], minorOk := mMinor f [1, 2, 3, 4], immOk := barImm f 0 }
  | .maddf f => some { base f with dst := .mat, dstR := true, a := .sca 2 2, b := .sca 2 2, types := [5, 7, 8], minorOk := mMinor f [1, 2, 3, 4], immOk := barImm f 16 }
  | .maddm f => some { base f with dst := .mat, dstR := true, a := .mat, minorOk := mMinor f [4], immOk := iv f = 0 }
  | .mmulf f => some { base f with dst := .mat, dstR := true, a := .mat, b := .mat, minorOk := mMinor f [4], immOk := iv f = 0 }
  | .mrcmp f => some { base f with dst := .mat, dstR := true, immOk := iv f = 0 }
  | .mdns f => some { base f with dst := .mat, dstR := true, minorOk := mMinor f [4], immOk := iv f = 0 }
  | .mrank f => some { base f with dst := s1, a := .mat, immOk := iv f = 0 }
  | .mrankErr f => some { base f with dst := s1, minorOk := mv f = 1, immOk := iv f = 0 }
  | .mrowp f => some { base f with dst := s1, a := s1, immOk := iv f = 0 }
  | .mrowpSet f => some { base f with a := s1, b := s1, minorOk := mv f = 1, immOk := iv f = 0 }
  | .mscl f => some { base f with dst := .mat, dstR := true, b := s1, bI := true, types := [5], qualOk := qv f ≤ 4, immOk := bImm f }
  | .mmovv f => some { base f with dst := .vec 1 1, a := .mat, immOk := iv f < 8 }
  | .mmovm f => some { base f with dst := .mat, dstR := true, a := .vec 1 1, minorOk := mMinor f [4], immOk := iv f < 8 }
  | .hld f => some { base f with dst := .vec (iv f / 16 % 4 + 1) 1, a := .vec 2 1, b := s1, c := .vec 1 1, aLazy := true, cR := false, cW := true, types := [5], qualOk := true, immOk := 1 ≤ iv f % 16 ∧ iv f % 16 ≤ 8 ∧ iv f / 64 % 4 = 0 ∧ iv f < 2048, extra := f.opc.toNat < f.dst.toNat ∨ f.dst.toNat + iv f / 16 % 4 < f.opc.toNat }
  | .hstat f => some { base f with dst := s1, a := s1, immOk := iv f = 0 }
  | .fopen f => some { base f with dst := s1, a := s1, b := s1, c := s1, immOk := iv f = 0 }
  | .fseal f => some { base f with a := s1, immOk := iv f = 0 }
  | .fcomp f => some { base f with dst := s1, a := s1, b := s1, immOk := 2 ≤ iv f ∧ iv f ≤ 8 }
  | .fret f => some { base f with a := s1, immOk := iv f = 0 }
  | .trace f => some { base f with dst := .vec 6 1, a := .vec 8 1, b := s1, types := [5], qualOk := qv f < 2, immOk := iv f < 16 }
  | .pair f => some { base f with dst := s1, a := .vec 4 2, b := s1, c := s1, immOk := iv f = 0 }
  | .pairx f => some { base f with dst := s1, b := s1, c := s1, immOk := iv f = 0 }
  | .cover f => some { base f with dst := .vec 2 2, a := .vec 6 1, b := .vec 1 1, bS := true, immOk := iv f = 0 }
  | .ztst f => some { base f with dst := .maskW, a := .vec 1 1, aS := true, b := .vec 1 1, bS := true, c := s1, types := [5], minorOk := mv f % 8 ≤ 4 ∧ mv f < 16, immOk := iv f = 0 }
  | .ordwWait f => some { base f with a := s1, b := s1, immOk := iv f = 0 }
  | .ordwAdv f => some { base f with a := s1, minorOk := mv f = 1, immOk := iv f = 0 }
  | .tlacq f => some { base f with dst := s1, a := s1, b := s1, c := if bitAt (mv f) 1 then s1 else .no, minorOk := mv f < 4, immOk := iv f = 0 }
  | .tlrel f => some { base f with a := s1, immOk := iv f = 0 }
  | .segld f => some { base f with dst := .seg [0, 1, 2, 3, 4, 5, 6, 7], a := s1, b := s1, immOk := iv f = 0 }
  | .segldW f => some { base f with dst := .seg [0, 1, 2, 3, 4, 5, 6, 7], a := s1, b := s1, c := s1, minorOk := mv f = 1, immOk := iv f = 0 }
  | .tlbinvAll f => some { base f with immOk := iv f = 0 }
  | .tlbinvCtx f => some { base f with a := s1, minorOk := mv f = 1, immOk := iv f = 0 }
  | .tlbinvPage f => some { base f with a := s1, b := s1, minorOk := mv f = 2, immOk := iv f = 0 }
  | .tlbinvRange f => some { base f with a := s1, b := s1, c := s1, minorOk := mv f = 3, immOk := iv f = 0 }
  | .wresume f => some { base f with a := s1, b := if bitAt (mv f) 0 then s1 else .no, c := if bitAt (mv f) 1 then s1 else .no, minorOk := mv f < 8 ∧ mv f % 2 + mv f / 4 ≤ 1, immOk := iv f = 0 }
  | .wkill f => some { base f with a := s1, minorOk := mv f = 0, immOk := iv f = 0 }
  | .wkillCtx f => some { base f with a := s1, minorOk := mv f = 1, immOk := iv f = 0 }
  | .frqack f => some { base f with dst := s1, a := s1, b := s1, immOk := iv f = 0 }
  | .cfgrd f => some { base f with dst := s1, a := s1, minorOk := mv f < 2 }
  | .cfgwr f => some { base f with a := s1, b := s1, minorOk := mv f < 2 }
  | .ctxsave f => some { base f with dst := s1, a := s1, minorOk := mv f = 0, immOk := iv f = 0 }
  | .ctxsaveCtx f => some { base f with dst := s1, a := s1, minorOk := mv f = 1, immOk := iv f = 0 }
  | .haltc f => some { base f with a := s1, minorOk := mv f = 0, immOk := iv f = 0 }
  | .haltcGo f => some { base f with a := s1, minorOk := mv f = 1, immOk := iv f = 0 }
  | .stntPerform _ _ _ | .matrixOpStart _ | .matrixOpComplete _ | .operandsConsumed _ | .matrixOpStop _
  | .matrixErrorCompletion _ | .pairOperationRun _ _ _ | .pairOperationComplete _ _ _ | .pairOperationStop _ _ _
  | .lineFetch _ _ _ _ | .faultRecordPost _ _ | .feedbackUpdate _ _ _ | .readRequest _ _ | .readReply _ _
  | .forwardedRead _ _ | .writeRequest _ _ | .writeReply _ _ | .eviction _ _ | .recall _ _
  | .transientTimeout _ _ | .persistentRequest _ _ | .persistentRequestEnd _ _ | .leaseRead _ _ _
  | .leaseStore _ _ _ | .ownershipRequest _ _ | .lineReturn _ _ _ _ | .outsideLeaseExpiry _ | .timeReport _ _
  | .timeReportTimeout _ | .timeLostExpiry _ | .amnesty _ | .writeBack _ | .mergePath _
  | .uncorrectableSoftError _ _ | .scrub _ _ | .engineCommandStart _ | .engineCommandComplete _
  | .engineErrorCompletion _ | .engineCommandCancel _ | .orphanedWaitTimeout _ _ _ | .launchTake _ _
  | .workgroupPlacement _ _ | .taskStart _ _ | .consumerDispatch _ | .evictionSave _ _ | .restore _ _
  | .warpEnd _ _ | .workgroupEnd _ | .launchEnd _ | .priorityAging _ | .troleKtarget _ _ _ | .troleDmask _ _
  | .troleErrClear _ | .roleChange _ | .qctlWrite _ _ _ | .qctlErrClear _ _ | .qtailWrite _ _ _ _
  | .llenWrite _ _ _ | .mcoinrWrite _ _ | .xplimWrite _ _ | .ecbaseWrite _ _ | .ecsizeWrite _ _
  | .monitorClear _ | .monitorSample _ _ | .registerWrite _ _ _ _ | .coldStart _ _ _ | .warmStart _ _
  | .lifecycleChange _ _ | .quote _ | .powerLoss | .hostMemoryAccess _ _ _ | .flitReceive _ _ _ | .portDown _
  | .linkTimeMessage _ _ | .ptmSync _ | .thermalSample _ _ | .purseRefill _ | .hostLinkLoss | .hostLinkReturn _
  | .registerSoftError _ _ _ | .managementClusterAccess _ _ _ | .timeReportSend _ => none

/-- The instruction that a major opcode and the other fields name (R38). Where the opcode table has one row for
each variant of a major, the minor chooses. -/
def Instr.ofMajor (major : Nat) (f : Fields) : Except Reject Instr :=
  match major with
  | 0x01 => .ok (.nop f)
  | 0x02 => .ok (.bra f)
  | 0x03 => .ok (.brs f)
  | 0x04 => .ok (.brv f)
  | 0x05 => .ok (.jmpx f)
  | 0x06 => .ok (.call f)
  | 0x07 => .ok (.callx f)
  | 0x08 => .ok (.ret f)
  | 0x09 => .ok (.rcvg f)
  | 0x0A => .ok (.exit f)
  | 0x0B => .ok (.yield f)
  | 0x0C => .ok (.waitc f)
  | 0x0D => .ok (.trapf f)
  | 0x0E => .ok (.sysc f)
  | 0x0F => .ok (.bkpt f)
  | 0x10 => .ok (.elect f)
  | 0x11 => .ok (.loop f)
  | 0x12 => .ok (.sget f)
  | 0x13 => .ok (.sput f)
  | 0x14 => .ok (.xacq f)
  | 0x15 => .ok (.xrel f)
  | 0x16 => .ok (.isync f)
  | 0x18 => .ok (.kop f)
  | 0x19 => .ok (.kpop f)
  | 0x1A => .ok (.kff1 f)
  | 0x1B => .ok (.ktos f)
  | 0x1C => .ok (.stok f)
  | 0x1D => .ok (.exmrd f)
  | 0x1E => .ok (.exmwr f)
  | 0x20 => .ok (.sadd f)
  | 0x21 => .ok (.ssub f)
  | 0x22 => .ok (.smul f)
  | 0x23 => .ok (.smulh f)
  | 0x24 => .ok (.sdiv f)
  | 0x25 => .ok (.srem f)
  | 0x26 => .ok (.sand f)
  | 0x27 => .ok (.sor f)
  | 0x28 => .ok (.sxor f)
  | 0x29 => .ok (.sshl f)
  | 0x2A => .ok (.sshr f)
  | 0x2B => .ok (.ssra f)
  | 0x2C => .ok (.smin f)
  | 0x2D => .ok (.smax f)
  | 0x2E => .ok (.scmp f)
  | 0x2F => .ok (.ssel f)
  | 0x30 => .ok (.smov f)
  | 0x31 => .ok (.sli f)
  | 0x32 => .ok (.slea f)
  | 0x33 => .ok (.sclz f)
  | 0x34 => .ok (.spop f)
  | 0x35 => .ok (.sbfe f)
  | 0x36 => .ok (.sbfi f)
  | 0x37 => .ok (.sld f)
  | 0x38 => .ok (.sst f)
  | 0x40 => .ok (.vadd f)
  | 0x41 => .ok (.vsub f)
  | 0x42 => .ok (.vmul f)
  | 0x43 => .ok (.vmulh f)
  | 0x44 => .ok (.vmad f)
  | 0x45 => .ok (.vand f)
  | 0x46 => .ok (.vor f)
  | 0x47 => .ok (.vxor f)
  | 0x48 => .ok (.vnot f)
  | 0x49 => .ok (.vshl f)
  | 0x4A => .ok (.vshr f)
  | 0x4B => .ok (.vsra f)
  | 0x4C => .ok (.vmin f)
  | 0x4D => .ok (.vmax f)
  | 0x4E => .ok (.vabs f)
  | 0x4F => .ok (.vneg f)
  | 0x50 => .ok (.vclz f)
  | 0x51 => .ok (.vpop f)
  | 0x52 => .ok (.vbrev f)
  | 0x53 => .ok (.vbfe f)
  | 0x54 => .ok (.vbfi f)
  | 0x55 => .ok (.vsad f)
  | 0x56 => .ok (.vdot4 f)
  | 0x57 => .ok (.vcmp f)
  | 0x58 => .ok (.vsel f)
  | 0x59 => .ok (.vmov f)
  | 0x5A => .ok (.vli f)
  | 0x5B => .ok (.vlane f)
  | 0x5C => .ok (.vcvt f)
  | 0x60 => .ok (.fadd f)
  | 0x61 => .ok (.fsub f)
  | 0x62 => .ok (.fmul f)
  | 0x63 => .ok (.ffma f)
  | 0x64 => .ok (.fmin f)
  | 0x65 => .ok (.fmax f)
  | 0x66 => .ok (.fabs f)
  | 0x67 => .ok (.fneg f)
  | 0x68 => .ok (.fcps f)
  | 0x69 => .ok (.fcmp f)
  | 0x6A => .ok (.fclass f)
  | 0x6B => .ok (.frnd f)
  | 0x6C => .ok (.fcvt f)
  | 0x6D => .ok (.fcvti f)
  | 0x6E => .ok (.icvtf f)
  | 0x6F => .ok (.fscale f)
  | 0x70 => .ok (.fdot2 f)
  | 0x78 => .ok (.rcp f)
  | 0x79 => .ok (.rsq f)
  | 0x7A => .ok (.sqrt f)
  | 0x7B => .ok (.exp2 f)
  | 0x7C => .ok (.log2 f)
  | 0x7D => .ok (.sinpi f)
  | 0x7E => .ok (.cospi f)
  | 0x7F => .ok (.tanh f)
  | 0x80 => .ok (.rng f)
  | 0x81 => .ok (.rngseed f)
  | 0x82 => .ok (.decw f)
  | 0x83 => .ok (.packw f)
  | 0x88 => .ok (.shfl f)
  | 0x89 => .ok (.bcast f)
  | 0x8A => .ok (.vred f)
  | 0x8B => .ok (.vscan f)
  | 0x8C => .ok (.vcmprs f)
  | 0x8D => .ok (.vexpnd f)
  | 0x8E => .ok (.ballot f)
  | 0x8F => .ok (.matchL f)
  | 0x90 => .ok (.ld f)
  | 0x91 => .ok (.st f)
  | 0x92 => .ok (.ldb f)
  | 0x93 => .ok (.stb f)
  | 0x94 => .ok (.gath f)
  | 0x95 => .ok (.scat f)
  | 0x96 => .ok (.atom f)
  | 0x97 => .ok (.atomw f)
  | 0x98 => .ok (.stnt f)
  | 0x99 => .ok (.drainnt f)
  | 0x9A => if mv f = 0 then .ok (.fenceCode f) else if mv f = 1 then .ok (.fenceIo f) else if mv f = 2 then .ok (.fenceEng f) else .error .minor
  | 0x9B => .ok (.ldfe f)
  | 0x9C => .ok (.stfe f)
  | 0x9D => .ok (.pft f)
  | 0x9E => .ok (.cflush f)
  | 0x9F => .ok (.iflush f)
  | 0xA0 => .ok (.llock f)
  | 0xA1 => .ok (.lunlk f)
  | 0xB0 => .ok (.binit f)
  | 0xB1 => .ok (.barv f)
  | 0xB2 => .ok (.bexp f)
  | 0xB3 => .ok (.bwait f)
  | 0xB4 => .ok (.btest f)
  | 0xB5 => .ok (.bdrop f)
  | 0xB6 => .ok (.seqw f)
  | 0xB7 => .ok (.grpsync f)
  | 0xB8 => .ok (.spawn f)
  | 0xB9 => .ok (.watch f)
  | 0xBA => .ok (.unwatch f)
  | 0xBB => .ok (.iter f)
  | 0xBC => .ok (.rqpush f)
  | 0xC0 => .ok (.mrsv f)
  | 0xC1 => .ok (.mfree f)
  | 0xC2 => .ok (.mzero f)
  | 0xC3 => if bitAt (mv f) 0 then .ok (.mldF f) else .ok (.mldD f)
  | 0xC4 => if bitAt (mv f) 0 then .ok (.mstF f) else .ok (.mstD f)
  | 0xC5 => .ok (.mma f)
  | 0xC6 => .ok (.maddf f)
  | 0xC7 => .ok (.maddm f)
  | 0xC8 => .ok (.mmulf f)
  | 0xC9 => .ok (.mrcmp f)
  | 0xCA => .ok (.mdns f)
  | 0xCB => if bitAt (mv f) 0 then .ok (.mrankErr f) else .ok (.mrank f)
  | 0xCC => if bitAt (mv f) 0 then .ok (.mrowpSet f) else .ok (.mrowp f)
  | 0xCD => .ok (.mscl f)
  | 0xCE => .ok (.mmovv f)
  | 0xCF => .ok (.mmovm f)
  | 0xD0 => .ok (.hld f)
  | 0xD1 => .ok (.hstat f)
  | 0xD2 => .ok (.fopen f)
  | 0xD3 => .ok (.fseal f)
  | 0xD4 => .ok (.fcomp f)
  | 0xD5 => .ok (.fret f)
  | 0xD8 => .ok (.trace f)
  | 0xD9 => .ok (.pair f)
  | 0xDA => .ok (.pairx f)
  | 0xDB => .ok (.cover f)
  | 0xDC => .ok (.ztst f)
  | 0xDD => if mv f = 0 then .ok (.ordwWait f) else if mv f = 1 then .ok (.ordwAdv f) else .error .minor
  | 0xDE => .ok (.tlacq f)
  | 0xDF => .ok (.tlrel f)
  | 0xF0 => if mv f = 0 then .ok (.segld f) else if mv f = 1 then .ok (.segldW f) else .error .minor
  | 0xF1 => if mv f = 0 then .ok (.tlbinvAll f) else if mv f = 1 then .ok (.tlbinvCtx f) else if mv f = 2 then .ok (.tlbinvPage f) else if mv f = 3 then .ok (.tlbinvRange f) else .error .minor
  | 0xF2 => .ok (.wresume f)
  | 0xF3 => if mv f = 0 then .ok (.wkill f) else if mv f = 1 then .ok (.wkillCtx f) else .error .minor
  | 0xF4 => .ok (.lnclaim f)
  | 0xF5 => .ok (.frqack f)
  | 0xF6 => .ok (.cfgrd f)
  | 0xF7 => .ok (.cfgwr f)
  | 0xF8 => if mv f = 0 then .ok (.ctxsave f) else if mv f = 1 then .ok (.ctxsaveCtx f) else .error .minor
  | 0xF9 => if mv f = 0 then .ok (.haltc f) else if mv f = 1 then .ok (.haltcGo f) else .error .minor
  | _ => .error .major

/-! ### The check of a word -/

/-- Is the operand field in its kind's range and aligned (R13, R15)? -/
def Opd.ok (o : Opd) (x : Nat) : Bool :=
  match o with
  | .no => x == 0
  | .vec n al => x % al == 0 && x + n ≤ 256
  | .sca n al => x % al == 0 && x + n ≤ 128
  | .mask => x < 8
  | .maskW => 0 < x && x < 8
  | .mat => x < 16
  | .seg allowed => x < 8 && allowed.contains x

/-- Is the operand of vector kind? -/
def Opd.isVec : Opd → Bool
  | .vec _ _ => true
  | _ => false

/-- Operand A as its scalar bit leaves it (R14). -/
def Shape.aK (sh : Shape) (f : Fields) : Opd := if f.ascl then s1 else sh.a
/-- Operand B as bscl and bimm leave it (R14): unused under bimm. -/
def Shape.bK (sh : Shape) (f : Fields) : Opd := if f.bimm then .no else if f.bscl then s1 else sh.b
/-- Operand C as its scalar bit leaves it (R14). -/
def Shape.cK (sh : Shape) (f : Fields) : Opd := if f.cscl then s1 else sh.c

/-- The check of a word against its instruction's form (R13 to R21, R39): none when it is legal. -/
def Shape.check (sh : Shape) (f : Fields) : Option Reject :=
  if signBit f && !(tv f == 14 || tv f == 15) then some .signBit
  else if !sh.minorOk then some .minor
  else if !sh.types.contains (tv f) then some .type
  else if (f.ascl && !sh.aS) || (f.bscl && !sh.bS) || (f.cscl && !sh.cS) || (f.bimm && !sh.bI) ||
      (f.bscl && f.bimm) then some .scalarBit
  else if !sh.dst.ok f.dst.toNat || !(sh.aK f).ok f.opa.toNat || !(sh.bK f).ok f.opb.toNat ||
      !(sh.cK f).ok f.opc.toNat then some .operand
  else if (f.pneg && f.pk == 0) || !sh.pkOk then some .predicate
  else if !sh.qualOk then some .qualifier
  else if !sh.immOk then some .immediate
  else if !sh.extra then some .combination
  else none

/-- Why an instruction's word is not legal, or none (R39). -/
def Instr.check (i : Instr) : Option Reject :=
  match i.shape, i.fields with
  | some sh, some f => sh.check f
  | _, _ => some .noWord

/-! ### Decoding and encoding -/

/-- The instruction that a 96-bit word is (R12, R38, R39). -/
def decode (w : BitVec 96) : Except Reject Instr :=
  match Instr.ofMajor (majorOf w) (unpack w) with
  | .error r => .error r
  | .ok i =>
    match i.check with
    | some r => .error r
    | none => .ok i

/-- The instruction in the 12 bytes of a slot, the first byte holding bits [7:0] (R12, R22). -/
def decodeBytes (bs : List Byte) : Except Reject Instr :=
  if bs.length < 12 then .error .noWord else decode (BitVec.ofNat 96 (leNat (bs.take 12)))

/-- The word of an instruction (R12); a step of the device has none. -/
def encode (i : Instr) : Option (BitVec 96) :=
  match i.major, i.fields with
  | some m, some f => some (pack m f)
  | _, _ => none

/-- The instruction whose bits are `w`, bit 0 the least significant of the word, the bits above `nbits` zero. The
word is laid out little-endian in its 12 bytes (R12) and given to the decoder. -/
def decodeTableWord (nbits w : Nat) : Option Instr :=
  match decodeBytes (leBytes 12 (w % 2 ^ nbits)) with
  | .ok i => some i
  | .error _ => none

/-! ### Fetch lines and program counters -/

/-- LineCRC over the bytes of a line's slots (R24): CRC-16, polynomial 0x1021, initial value 0xFFFF. -/
def crcBits : Nat → Nat → Nat
  | 0, c => c
  | n + 1, c => crcBits n (if c.testBit 15 then ((2 * c) ^^^ 0x1021) % 65536 else 2 * c % 65536)

/-- LineCRC of a list of bytes in address order (R24). -/
def lineCrc (bs : List Byte) : Nat := bs.foldl (fun c b => crcBits 8 (c ^^^ (b.toNat * 256))) 0xFFFF

/-- The line word of a 64-byte line (R22, R23). -/
def lineWord (line : List Byte) : Nat := leNat ((line.drop 60).take 4)

/-- The cause with which a line fails R25 steps 2 and 3, or none. -/
def lineFault (line : List Byte) : Option Nat :=
  if lineCrc (line.take 60) ≠ lineWord line % 65536 then some 0x0E
  else if bits (lineWord line) 23 16 ≠ 0 then some 0x0D
  else none

/-- Bit 27 + slot of the line word: may a transfer enter the slot (R23)? -/
def lineTgt (line : List Byte) (slot : Nat) : Bool := bitAt (lineWord line) (27 + slot)

/-- The 12 bytes of slot `i` of a line (R22). -/
def lineSlot (line : List Byte) (i : Nat) : List Byte := (line.drop (12 * i)).take 12

/-- Is a PC valid (R26)? -/
def pcValid (pc : W64) : Bool :=
  bits pc.toNat 63 56 == 0 && bits pc.toNat 5 3 == 0 && bits pc.toNat 2 0 ≤ 4

/-- The line address of a PC (R26). -/
def pcLine (pc : W64) : Nat := pc.toNat / 64 * 64
/-- The slot of a PC (R26). -/
def pcSlot (pc : W64) : Nat := pc.toNat % 8

/-- NextPC (R246): PC + 1 when the slot is below 4, else slot 0 of the next line. -/
def nextPC (pc : W64) : W64 :=
  if pcSlot pc < 4 then pc + 1 else BitVec.ofNat 64 (pcLine pc + 64)

/-- The branch target of R27. -/
def branchTarget (pc : W64) (imm : BitVec 32) : W64 :=
  let delta := sval 29 (imm.toNat / 8)
  BitVec.ofNat 64 (wrapInt 64 ((pcLine pc : Int) + delta * 64) ||| imm.toNat % 8)

/-! ### Families of R33 and R38 -/

/-- Majors 0xF0 to 0xF9 run only in supervisor warps (R38). -/
def Instr.privileged (i : Instr) : Bool :=
  match i.major with
  | some m => 0xF0 ≤ m && m ≤ 0xF9
  | none => false

/-- The flow instructions (R33). -/
def Instr.isFlow (i : Instr) : Bool :=
  match i.major with
  | some m => (2 ≤ m && m ≤ 0x0F) || m == 0x11 || m == 0x14 || m == 0x16
  | none => false

end Sys2Proof
end

