-- ==== Sys2Proof/Machine/Store.lean ====
section
/-!
DEFINITION. Sparse stores in one canonical form: lists of (key, value) pairs with strictly rising keys in which no
entry equals what an unlisted key reads as. Memory, scratchpads, matrix cells and register files are such stores.
-/
namespace Sys2Proof.Machine

/-- A sparse store of values by a natural-number key. -/
abbrev Sp (α : Type) := List (Nat × α)

/-- The value at a key; an unlisted key reads as `d`. -/
def spGet {α : Type} (d : α) : Sp α → Nat → α
  | [], _ => d
  | (k, v) :: m, a => if a = k then v else spGet d m a

/-- The store with a key unlisted. -/
def spErase {α : Type} (a : Nat) : Sp α → Sp α
  | [] => []
  | (k, v) :: m => if a = k then spErase a m else (k, v) :: spErase a m

/-- The store with a key that it does not list put before the first larger one. -/
def spInsert {α : Type} (a : Nat) (x : α) : Sp α → Sp α
  | [] => [(a, x)]
  | (k, v) :: m => if a < k then (a, x) :: (k, v) :: m else (k, v) :: spInsert a x m

/-- The store with the value of one key changed; writing what an unlisted key reads as removes the entry. -/
def spSet {α : Type} [DecidableEq α] (d : α) (m : Sp α) (a : Nat) (x : α) : Sp α :=
  if x = d then spErase a m else spInsert a x (spErase a m)

/-- Every key of the store is at least `lo`, the keys rise strictly and no value is `d`. -/
def spWfFrom {α : Type} [DecidableEq α] (d : α) (lo : Nat) : Sp α → Bool
  | [] => true
  | (k, v) :: m => decide (lo ≤ k) && decide (v ≠ d) && spWfFrom d (k + 1) m

/-- The canonical form of a sparse store. -/
def spWf {α : Type} [DecidableEq α] (d : α) (m : Sp α) : Bool := spWfFrom d 0 m

/-- The canonical form of memory: addresses rise strictly, and no listed byte is what an unlisted address reads as (log 4). -/
def Memory.wf (m : List Host.Cell) : Bool := spWf 0 m

/-- The values at `n` consecutive keys from `a`. -/
def spRead {α : Type} (d : α) (m : Sp α) : Nat → Nat → List α
  | _, 0 => []
  | a, n + 1 => spGet d m a :: spRead d m (a + 1) n

/-- The store with the given values at consecutive keys from `a`. -/
def spWrite {α : Type} [DecidableEq α] (d : α) (m : Sp α) : Nat → List α → Sp α
  | _, [] => m
  | a, x :: xs => spWrite d (spSet d m a x) (a + 1) xs

/-- The store with every key from `lo` up to, not including, `hi` reading as unlisted. -/
def spClear {α : Type} (lo hi : Nat) : Sp α → Sp α
  | [] => []
  | (k, v) :: m => if lo ≤ k ∧ k < hi then spClear lo hi m else (k, v) :: spClear lo hi m

/-- A rising list of numbers, used for sets of granules, cells and lines. -/
def setInsert (a : Nat) : List Nat → List Nat
  | [] => [a]
  | k :: m => if a = k then k :: m else if a < k then a :: k :: m else k :: setInsert a m

/-- The set without one number. -/
def setErase (a : Nat) : List Nat → List Nat
  | [] => []
  | k :: m => if a = k then setErase a m else k :: setErase a m

/-- Change the element at an index of a list; an index outside the list changes nothing. -/
def modAt {α : Type} (f : α → α) : Nat → List α → List α
  | _, [] => []
  | 0, x :: xs => f x :: xs
  | n + 1, x :: xs => x :: modAt f n xs

/-- The first index from `i` on at which a test holds. -/
def findIdxFrom {α : Type} (p : α → Bool) : Nat → List α → Option Nat
  | _, [] => none
  | i, x :: xs => if p x then some i else findIdxFrom p (i + 1) xs

/-- The list without its element at an index. -/
def dropAt {α : Type} : Nat → List α → List α
  | _, [] => []
  | 0, _ :: xs => xs
  | n + 1, x :: xs => x :: dropAt n xs

end Sys2Proof.Machine
end

