-- ==== Sys2Proof/Machine/State.lean ====
section
/-!
DEFINITION. The state of the machine: everything the spec gives the device, as plain data, and the state right
after a cold start. The model's own fields (`agenda`, `tick`, `cur`, `reply`, `seq`) are named as such.
-/
namespace Sys2Proof.Machine

/-! ### Registers of a warp -/

/-- A segment register (R75). -/
structure Seg where
  base   : W64 := 0
  lim    : BitVec 48 := 0
  lclass : BitVec 3 := 0
  lcov   : Bool := false
  wr     : Bool := false
  v      : Bool := false
  deriving DecidableEq, Repr

/-- A matrix register (R287): its form, its rank when factored, and its reserved cells in the order of their
reservation; `res` is their number. The elements lie in the core's matrix store (R289). -/
structure MReg where
  dense : Bool := false
  rank  : Nat := 0
  cells : List Nat := []
  deriving DecidableEq, Repr

/-- The registers of a warp (R228, R240, R242). A vector word is keyed by 64 × register + lane. -/
structure RegFile where
  v      : Sp W32 := []
  s      : Sp W64 := []
  k      : Sp W64 := []
  g      : List Seg := []
  flags  : BitVec 14 := 0
  lclass : BitVec 4 := 0
  rngk   : W64 := 0
  rngc   : W64 := 0
  mtol   : BitVec 34 := 0
  hwm    : W64 := 0
  xgrant : Nat := 0
  iter   : Nat := 0
  deriving DecidableEq, Repr

/-- The staging window of a warp and the engine's latches for it (R193, R198, R200). -/
structure Staging where
  cq     : List (BitVec 128) := [0, 0, 0, 0]
  mask   : BitVec 4 := 0
  engseq : W32 := 0
  err    : Option (Nat × W32) := none
  deriving DecidableEq, Repr

/-! ### Fragments and join records -/

/-- The state of a split-table entry (R348). -/
inductive FragState where
  | free
  | ready
  | parked
  | stopped
  | arrived
  deriving DecidableEq, Repr

/-- A uniform shadow (R352); `since` lists the outstanding join records since whose split it was written (R354). -/
structure Shadow where
  reg   : Nat
  val   : W64
  since : List Nat
  deriving DecidableEq, Repr

/-- What ends a lane's walk with a fault: the cause, address, aux and acc of its record (R389, R390). -/
structure WalkFail where
  cause : Nat
  va    : Nat := 0
  aux   : Nat := 0
  acc   : Nat := 0
  deriving DecidableEq, Repr

/-- What one access of a lane's walk has answered: the numbers read, a page not resident (R328), or a fault. -/
inductive WalkAns where
  | data (xs : List Nat)
  | absent
  | bad (f : WalkFail)
  deriving DecidableEq, Repr

/-- A lane's walk of HLD or TRACE, made one access at a time (R147, R329, R430): the words of operand A that it starts from,
and the answers of its accesses so far, in order. -/
structure LaneWalk where
  lane : Nat
  args : List W32
  got  : List WalkAns
  deriving DecidableEq, Repr

/-- The composition of FCOMP, made one access at a time (R140, R430): the target's slot with its generation and bits, the slots X0 to Xk−1 with their
bits, the landing slot with its generation, the cell and the hop it stands at, and the point and the displacement there, in
eighths. -/
structure Compose where
  slot   : Nat
  gen    : Nat
  target : Nat
  chain  : List (Nat × Nat)
  land   : Nat × Nat
  cell   : Nat
  hop    : Nat
  x      : Int
  y      : Int
  dx     : Int
  dy     : Int
  /-- no hop of the cell has failed -/
  ok     : Bool
  deriving DecidableEq, Repr

/-- What wakes a fragment parked at BWAIT (R190). -/
inductive BarrierWake where
  | donef (flags : Nat)
  | poisoned
  deriving DecidableEq, Repr

/-- What a parked fragment waits for. The instruction at its PC is tried again when the fragment is chosen; what
it needs from the moment it parked is kept here. -/
inductive Wait where
  /-- LDFE since a global time, with its lanes and their granules (R182, R185) -/
  | fullEmpty (start : Nat) (granules : List (Nat × Nat))
  /-- BWAIT on the object at a scratchpad byte address of the core, with its token (R190) -/
  | barrier (addr token : Nat) (wake : Option BarrierWake)
  /-- GRPSYNC in a group since a phase (R357) -/
  | group (g phase : Nat)
  /-- HLD or TRACE with its scalar operand and its lanes' walks (R147, R329) -/
  | walks (root : W64) (ws : List LaneWalk)
  /-- SEQW for a sequence number (R201) -/
  | sequence (v : Nat)
  /-- an instruction that waits for the operations of its warp's matrix queue up to one (R292) -/
  | matrix (upto : Nat)
  /-- FCOMP with its composition (R140) -/
  | composing (c : Compose)
  /-- ORDW.wait on a tile key for a counter value, and whether the counter has met it (R338) -/
  | order (key n : Nat) (met : Bool)
  /-- a store that outside agents hold up, or whose walk or lines are held up with them (R166) -/
  | leased
  /-- every other wait, named by the rule that states it -/
  | other (rule : Nat)
  deriving DecidableEq, Repr

/-- A unit of the on-chip map, or the part of one, that a load has still to read (R59): the register that receives it, with the
lane of a vector register, or the half of a scalar register that the part is when it is not the whole value; and the core and
window offset of the part, with its length. -/
structure MapLoad where
  dst  : Nat
  lane : Option Nat
  part : Option Nat
  core : Nat
  off  : Nat
  len  : Nat
  deriving DecidableEq, Repr

/-- A split-table entry (R348), with the log of its current run (R31 to R35), its priority (R370), the time it
became ready (R369), whether a held operation stopped it (R296), the lines it has fetched ahead (R176), and whether it
still stands at an entry PC that R28 is to check (R346). `act` is the Active with which it parked (R16). `loads` are what the
map loads of its run have still to read, and `runOver` tells that the run has ended (R31, R59). Of the instruction that it is at,
`begun` is the tower's clock when it first parked, and `leased` the time since when it waits under R166 to store (R426). -/
structure Frag where
  st      : FragState := .free
  pc      : W64 := 0
  mem     : Mask := 0
  exm     : Mask := 0
  jr      : Option Nat := none
  shadows : List Shadow := []
  wait    : Option Wait := none
  act     : Mask := 0
  run     : Sp (List W32) := []
  cause   : Nat := 0
  byHeld  : Option FragState := none
  pri     : Nat := 0
  basePri : Nat := 0
  since   : Nat := 0
  aged    : Bool := false
  ahead   : List (Nat × List Byte) := []
  entering : Bool := false
  loads   : List MapLoad := []
  runOver : Bool := false
  begun   : Option Nat := none
  leased  : Option Nat := none
  deriving DecidableEq, Repr

/-- An entry of a join record's merge set (R354, R355): a register with its value, and the lowest lane of the
fragment that wrote it, or none while it is unwritten. -/
structure MergeEntry where
  reg    : Nat
  val    : W64
  writer : Option Nat
  since  : List Nat
  deriving DecidableEq, Repr

/-- A join record (R348). `inherited` are the shadows at the split, `arrivals` the lowest lane and NextPC of each
fragment that arrived. -/
structure Join where
  id        : Nat
  parent    : Option Nat
  lanes     : Mask
  arr       : Mask
  aexm      : Mask
  deferred  : List (Mask × W64)
  set       : List MergeEntry
  conflict  : Bool
  inherited : List Shadow
  arrivals  : List (Nat × W64)
  deriving DecidableEq, Repr

/-! ### Work in flight for a warp -/

/-- A part of a pending non-temporal store (R223): its bytes, with the address its lane's access had there and
whether the translation compresses (R89). One lane's store is the list of its parts. -/
structure PendPart where
  addr : Nat
  va   : W64
  data : List Byte
  attr : Option Bool
  deriving DecidableEq, Repr

/-- A store to the on-chip map that is not yet performed at its target (R59). -/
structure MapStore where
  offset : Nat
  data   : List Byte
  deriving DecidableEq, Repr

/-- What carries the orders of R428 from one access to another. A store is known to a carrier once every access that the
carrier stands for comes after it. -/
inductive Carrier where
  /-- every ordinary access still to be made (R162) -/
  | order
  /-- every access still to be made by a warp -/
  | warp (ctxid : BitVec 16) (tag : W32)
  /-- what follows the accesses that a warp has made -/
  | made (ctxid : BitVec 16) (tag : W32)
  /-- what follows a warp's map accesses: its accesses after a FENCE.eng (R225) -/
  | maps (ctxid : BitVec 16) (tag : W32)
  /-- the accesses of an engine command, and what joins it (R202) -/
  | command (id : Nat)
  /-- the next command of a comb's chain (R198) -/
  | comb (n : Nat)
  /-- the accesses of a matrix operation, by its place in the order of issue, and those of its operand reads (R203, R293) -/
  | operation (seq : Nat)
  | operands (seq : Nat)
  /-- what the matrix unit of a core is writing -/
  | acting (core : Nat)
  /-- what observes the completed operations of a warp's queue (R293) -/
  | matrix (ctxid : BitVec 16) (tag : W32)
  /-- the traversal operations of a warp (R336) -/
  | pairs (ctxid : BitVec 16) (tag : W32)
  /-- what observes a phase of a barrier object (R191), of a launch's group (R358) -/
  | phase (core addr phase : Nat)
  | group (launch g phase : Nat)
  /-- what follows the releases of a tile key (R341), and the advances of its counter up to a value (R338) -/
  | tile (ctxid : BitVec 16) (key : Nat)
  | counter (ctxid : BitVec 16) (key n : Nat)
  /-- the accesses of a task (R374), those of tasks that conflict with an ended one (R375), and of a watch's pushes (R377) -/
  | task (cslot serial : Nat)
  | ended (cslot serial : Nat)
  | watch (cslot handle : Nat)
  /-- the accesses of a record queue's consumers, and of one batch (R381) -/
  | queue (pa : Nat)
  | batch (order : Nat)
  /-- the kernel's accesses for the system calls of a context (R401) -/
  | calls (ctxid : BitVec 16)
  deriving DecidableEq, Repr

/-- A store to a unit of the on-chip map (R59): its core and window offset, the unit's bytes before it, the bytes stored with
their place in the unit, and the carriers whose accesses are ordered after it. A map load that is not ordered after the store
may miss it (R429). -/
structure MapPast where
  core  : Nat
  unit  : Nat
  old   : List Byte
  off   : Nat
  data  : List Byte
  known : List Carrier
  deriving DecidableEq, Repr

/-- A CFGWR that has not yet taken effect at its register (R414): offset, size and value. -/
structure CfgStore where
  offset : Nat
  size   : Nat
  val    : W64
  deriving DecidableEq, Repr

/-- A feedback report that is not yet performed (R82, R83). -/
structure FbReport where
  va    : Nat
  level : Nat
  deriving DecidableEq, Repr

/-- One action of a matrix operation (R293, R296, R299, R305). -/
inductive MatAct where
  /-- the next granule of operand row `key`, `len` bytes at a virtual address or a scr offset, aligned to `align` -/
  | read (key : Nat) (scr : Bool) (addr : Nat) (len align : Nat)
  /-- the unit chooses the operation and charges its coins (R315 to R317) -/
  | charge
  /-- the checks and changes of form that come before its rows (R302) -/
  | prepare
  /-- one row of the row set -/
  | row (i : Nat)
  /-- one row of V written by MST.f (R304) -/
  | vrow (i : Nat)
  /-- what is not made row by row -/
  | whole
  /-- the operands-consumed event (R203) -/
  | consumed
  /-- completion -/
  | finish
  /-- a cause of R296 that the operation has met -/
  | stop (cause : Nat) (va : W64) (acc aux : Nat)
  /-- an error of R297 that a row has met -/
  | error (cause row : Nat)
  deriving DecidableEq, Repr

/-- A matrix operation in progress: what is left of it, the operand rows it has read, the flags it has raised, and its
first row that is not complete, or none when no row is written (R296). -/
structure MatRun where
  acts  : List MatAct
  got   : Sp (List Byte)
  flags : Nat
  row   : Option Nat
  deriving DecidableEq, Repr

/-- A matrix operation as issued (R292): the instruction, its PC, the Active sampled at issue (R291), its scalar
operands in order A then B, the vector words of MMOVM, its place in the order of issue, and the tower's clock when it
became the head of its queue (R317). -/
structure MatOp where
  instr  : Instr
  pc     : W64
  active : Mask
  args   : List W64
  words  : List ((Nat × Nat) × W32)
  seq    : Nat
  since  : Nat
  /-- flags that rows performed before a stop have raised (R122) -/
  flags  : Nat
  /-- its operands-consumed event has been performed (R203, R299) -/
  told   : Bool := false
  /-- the cycles that it had waited at the head before its warp was last saved (R317) -/
  waited : Nat := 0
  deriving DecidableEq, Repr

/-- The matrix state of a warp (R287, R292, R296, R297); `run` is the progress of the queue's head. `resumed` is set from
a WRESUME that restarts a held operation until the queue is empty: the fragments resume only then (R296). -/
structure MatState where
  regs  : List MReg := []
  queue : List MatOp := []
  held  : Bool := false
  rowp  : Nat := 0
  err   : Option (Nat × Nat) := none
  run   : Option MatRun := none
  resumed : Bool := false
  deriving DecidableEq, Repr

/-- An entry of a pair traversal's stack, as the continuation record lays it out (R334). -/
structure PairEntry where
  x      : Nat
  y      : Nat
  xBlock : Bool
  yBlock : Bool
  xDepth : Nat
  yDepth : Nat
  xInst  : Nat
  yInst  : Nat
  lane   : Nat
  self   : Bool
  descSelf : Bool
  deriving DecidableEq, Repr

/-- Where a traversal operation stands (R332 to R336). -/
inductive PairPhase where
  /-- PAIRX: the continuation is still to be loaded -/
  | load
  | run
  /-- the continuation and the status are still to be written -/
  | finish (partialStatus : Bool)
  /-- a fault has been met and is still to stop the operation -/
  | stopping (cause : Nat) (va : W64) (acc aux : Nat)
  /-- held; `written` is false while the continuation write itself has faulted (R335) -/
  | held (written : Bool)
  /-- restarted with the continuation write to be made again first (R335) -/
  | rewrite
  deriving DecidableEq, Repr

/-- A PAIR or PAIRX operation in flight (R331 to R336); the stack's top comes first, and there is none while it is still
to be loaded. `got` is what its accesses have answered for the entry being worked on, or for the continuation being loaded, and
`put` how many pieces of its continuation have been written (R336, R430). -/
structure PairOp where
  pc       : W64
  active   : Mask
  dst      : Nat
  queue    : W64
  cont     : W64
  phase    : PairPhase
  stack    : Option (List PairEntry)
  appended : Nat
  got      : List WalkAns
  put      : Nat
  deriving DecidableEq, Repr

/-- A resident warp (R344 to R348, R391). -/
structure Warp where
  tag    : W32
  cslot  : Nat
  ctxid  : BitVec 16
  launch : Nat
  wg     : Nat
  idx    : Nat
  width  : Nat
  ended  : Mask
  r      : RegFile
  m      : MatState
  stg    : Staging
  frags  : List Frag
  joins  : List (Option Join)
  part   : List Nat
  stnt   : List (List PendPart)
  latch  : Option W64
  trv    : List PairOp
  maps   : List MapStore
  fbs    : List FbReport
  cfgs   : List CfgStore
  grp    : List (Nat × Nat)
  /-- an eviction has begun to bring the warp to rest (R402) -/
  resting : Bool
  deriving DecidableEq, Repr

/-! ### Cores and combs -/

/-- A fault record as it is held in a core before it is posted (R84, R389). -/
structure FaultRec where
  flags : BitVec 14
  rowp  : Nat
  frag  : Nat
  wslot : Nat
  aux   : W32
  epoch : BitVec 16
  core  : Nat
  phys  : Nat
  wtag  : W32
  cslot : Nat
  ctxid : BitVec 16
  acc   : Nat
  unit  : Nat
  cause : Nat
  pcm   : W64
  lanes : Mask
  va    : W64
  pc    : W64
  deriving DecidableEq, Repr

/-- A line held in a quarter's instruction cache (R25): keyed by quarter, context and virtual line address, with
the physical line it was fetched from. -/
structure ICLine where
  quarter : Nat
  ctxid   : BitVec 16
  va      : Nat
  pa      : Nat
  line    : List Byte
  deriving DecidableEq, Repr

/-- A core (R45). -/
structure Core where
  /-- scratchpad bytes (R177) -/
  scr     : Sp Byte := []
  /-- the full granules (R177) -/
  full    : List Nat := []
  /-- registered producer of a granule: 2^32 × comb + sequence number (R180) -/
  prod    : Sp (Option Nat) := []
  /-- orphaned granules (R181) -/
  orphan  : List Nat := []
  /-- the command that last filled a granule, as for prod (R202) -/
  filled  : Sp (Option Nat) := []
  /-- global time at which a granule's last registration ended (R182) -/
  regEnd  : Sp Nat := []
  /-- bytes of the matrix store (R289) -/
  cells   : Sp Byte := []
  /-- cells reserved by registers (R290) -/
  used    : List Nat := []
  xplim   : BitVec 10 := 768
  /-- grant queue: warp slot and blocks asked (R234) -/
  xqueue  : List (Nat × Nat) := []
  /-- reservation order of MRSV: warp slot, split-table entry, register, cells asked for it in all (R300) -/
  mrsv    : List (Nat × Nat × Nat × Nat) := []
  purse   : Nat := 65536
  icache  : List ICLine := []
  /-- fault records not yet posted, oldest first (R84) -/
  records : List FaultRec := []
  /-- register words and cells in uncorrectable error, and those with one bit in error (R238) -/
  bad     : List RegWord := []
  weak    : List RegWord := []
  /-- the warp slot whose matrix operation the unit has chosen (R317) -/
  unit    : Option Nat := none
  slots   : List (Option Warp) := List.replicate 128 none
  deriving DecidableEq, Repr

/-- The progress of an engine command (R196): its plane, row and byte, the row buffer, the bytes written and the
flags of its conversions. `failed` is the cause it met. `pend` are bytes of granules that a later row still meets: by granule,
the bytes by address and how many have been given (R197). -/
structure EngRun where
  plane   : Nat := 0
  row     : Nat := 0
  pos     : Nat := 0
  buf     : List Byte := []
  writing : Bool := false
  written : Nat := 0
  pend    : Sp (Sp Byte × Nat) := []
  flags   : Nat := 0
  failed  : Option Nat := none
  done    : Bool := false
  deriving DecidableEq, Repr

/-- An engine command in a comb's chain (R195, R198): its words, the warp that issued it, the segment g1 it uses,
the buffer record read at the fork (R180), and its progress once started. -/
structure EngCmd where
  seq      : W32
  core     : Nat
  cslot    : Nat
  ctxid    : BitVec 16
  wtag     : W32
  wg       : Nat
  g1       : Seg
  g7       : Seg
  words    : List W64
  ringSlot : Nat
  record   : Option Nat
  forkErr  : Option Nat
  cancel   : Bool
  run      : Option EngRun
  deriving DecidableEq, Repr

/-- A comb's copy engine and its registers (R198, R411). -/
structure Comb where
  ecbase : W64 := 0
  ecsize : W32 := 0
  ecdone : W32 := 0
  /-- GOs accepted since ECBASE was last written -/
  gos    : Nat := 0
  /-- the sequence number last assigned; R198 gives none before the first GO, and the model takes 0, so that the first GO
  gets 1 (DESIGN CHOICE, log 82) -/
  lastSeq : W32 := 0
  chain  : List EngCmd := []
  deriving DecidableEq, Repr

/-! ### Towers and the package -/

/-- A tower's stage of thermal protection (R419). -/
inductive Thermal where
  | normal
  | clockHeld
  | issueStopped
  deriving DecidableEq, Repr

/-- A tower (R50, R159, R163, R316, R419). -/
structure Tower where
  k        : Nat := 2
  dmask    : BitVec 4 := 0
  err      : Bool := false
  /-- the layer whose role is changing, with the target count (R53) -/
  changing : Option (Nat × Nat) := none
  step     : BitVec 2 := 0
  mcoinr   : BitVec 12 := 416
  llen     : List W32 := [0, 16, 64, 256, 1024, 4096, 16384, 65536]
  clock    : Nat := 0
  /-- hundredths of a cycle of the arithmetic clock that have passed and are still to run (R4) -/
  due      : Nat := 0
  pts      : Nat := 0
  thermal  : Thermal := .normal
  /-- of every two cycles of a held clock the one that does not run comes next (R419) -/
  skip     : Bool := false
  /-- the multiple of 1,024 cycles at which fragments were last aged (R370) -/
  aging    : Nat := 0
  deriving DecidableEq, Repr

/-- Where GTIME comes from (R418). -/
inductive TimeRef where
  | host
  | peer (id : Nat)
  | own
  deriving DecidableEq, Repr

/-- A quote (R424): the nonce, LCSTATE, the configuration, the epoch, the measurements of the firmware images, and the
signature. -/
structure Quote where
  nonce  : Nat
  lc     : Nat
  k0     : Nat
  k1     : Nat
  epoch  : Nat
  images : List Nat
  sig    : Nat
  deriving DecidableEq, Repr

/-- A link port (R416): up or down, the number of the flit it expects next, and the peers whose flits it has delivered,
which it reaches while it is up. -/
structure Port where
  up    : Bool := true
  next  : Nat := 0
  peers : List Nat := []
  deriving DecidableEq, Repr

/-- The package registers and package-wide facts (R411, R418, R421 to R425). -/
structure Package where
  gtime    : Nat := 0
  timeRef  : TimeRef := .own
  /-- nanoseconds for which GTIME is held while its reference catches up (R418) -/
  hold     : Nat := 0
  /-- a correction still to be slewed, in nanoseconds (R418) -/
  slew     : Int := 0
  /-- nanoseconds passed for which the correction has not been slewed yet (R418) -/
  slewTime : Nat := 0
  hostLink : Bool := false
  bootStep : BitVec 8 := 0xFF
  bootWarm : Bool := false
  lcstate  : BitVec 3 := 2
  /-- the accepted life-cycle change that the next cold start performs (R423) -/
  lcNext   : Option (BitVec 3) := none
  linkid   : BitVec 6 := 0
  cdtbase  : W64 := 0
  bbseq    : W32 := 0
  epoch    : BitVec 16 := 0
  quotes   : List Quote := []
  powered  : Bool := true
  /-- contexts whose fault interrupt is raised (R84), and the supervisor-fault interrupt (R392) -/
  irq      : List Nat := []
  supIrq   : Bool := false
  ports    : List Port := List.replicate 12 {}
  /-- peers that have a live host link, by their last time message (R418) -/
  hosted   : List Nat := []
  deriving DecidableEq, Repr

/-! ### Launches, workgroups, tasks -/

/-- A task record (R372). -/
structure TaskRec where
  entry : W64
  arg   : W64
  home  : W64
  nw    : Nat
  pri   : Nat
  rd    : List W64
  wr    : List W64
  deriving DecidableEq, Repr

/-- A launch's group (R356). Members are index ranges, both ends included. `gather` is the latest logical time of an arrival
in the current phase, `time` that of the arrivals in completed ones (R358). -/
structure LaunchGroup where
  members : List (Nat × Nat) := []
  exp     : Nat := 0
  arr     : Nat := 0
  phase   : W32 := 0
  pz      : Bool := false
  gather  : Nat := 0
  time    : Nat := 0
  deriving DecidableEq, Repr

/-- A launch in progress (R344, R365, R366, R379). -/
structure Launch where
  id     : Nat
  cslot  : Nat
  queue  : Nat
  entry  : W64
  home   : W64
  hstr   : W64
  grid   : Nat
  nw     : Nat
  width  : Nat
  pers   : Bool
  pri    : Nat
  kk     : Nat
  tiles  : Nat
  segs   : List Seg
  sregs  : List (Nat × W64)
  hwm    : W64
  scr    : Nat
  regs   : Nat
  cells  : List Nat
  groups : List LaunchGroup
  /-- the core numbers of place=, empty without it (R436) -/
  places : List Nat
  /-- index of the next workgroup to place -/
  next   : Nat
  /-- the logical time of what its workgroups' accesses follow: the data image (R285) -/
  time   : Nat
  deriving DecidableEq, Repr

/-- What a workgroup runs (R344, R374, R381): a workgroup of a launch's grid, a task, or a consumer batch. -/
inductive WorkKind where
  | grid (index : Nat)
  | task (serial : Nat) (work : TaskRec)
  | batch
  deriving DecidableEq, Repr

/-- A workgroup (R344, R178, R374): its core and area, its warps and how many have ended, its place in the order of
placement, and whether it is saved whole. -/
structure Workgroup where
  id     : Nat
  launch : Nat
  cslot  : Nat
  kind   : WorkKind
  pri    : Nat
  core   : Nat
  base   : Nat
  size   : Nat
  nw     : Nat
  placed : Nat
  /-- ended warps -/
  ended  : Nat
  saved  : Bool
  /-- its barrier objects: offsets in the area (R361) -/
  objs   : List Nat := []
  /-- what its last warp leaves until its engine commands have completed: the objects it takes part in, as scratchpad
  addresses, and its cells (R204, R360) -/
  drops  : List Nat := []
  cells  : List Nat := []
  deriving DecidableEq, Repr

/-- A task in a context's pool (R373); `time` is the logical time of its SPAWN or of the write it was pushed for, which its
accesses follow (R374, R377). -/
structure PoolTask where
  serial : Nat
  cslot  : Nat
  launch : Nat
  work   : TaskRec
  segs   : List Seg
  order  : Nat
  time   : Nat
  deriving DecidableEq, Repr

/-- A task with ranges that has ended, and the logical time of its end, which later conflicting tasks follow (R375). -/
structure EndedTask where
  serial : Nat
  work   : TaskRec
  time   : Nat
  deriving DecidableEq, Repr

/-- A consumer batch dispatched and not yet started, with the logical time of its dispatch (R381). -/
structure Batch where
  cslot  : Nat
  launch : Nat
  entry  : W64
  carg   : W64
  queue  : W64
  first  : W32
  count  : Nat
  nw     : Nat
  pri    : Nat
  order  : Nat
  time   : Nat
  deriving DecidableEq, Repr

/-- A watch (R376, R377); `lo` to `hi` are the physical bytes watched, `pend` its held pushes. -/
structure Watch where
  handle : Nat
  cslot  : Nat
  launch : Nat
  lo     : Nat
  hi     : Nat
  cmp    : Nat
  val    : W32
  msk    : W32
  rep    : Bool
  work   : TaskRec
  segs   : List Seg
  live   : Bool
  pend   : Nat
  deriving DecidableEq, Repr

/-- The binding of a record-queue header (R381); `armed` from an access that changed its tail or open until a
dispatch step finds nothing to hand over. -/
structure Binding where
  pa     : Nat
  queue  : W64
  launch : Nat
  cslot  : Nat
  armed  : Bool
  deriving DecidableEq, Repr

/-- A saved image (R402 to R404). `warps` are whole warps with the slots they held; a workgroup image also holds
its area's bytes, full and orphaned granules and its cells, keyed by warp, register and byte. `time` is the logical time that
the warps' accesses after a restore follow (R162, R409). -/
structure Image where
  id      : Nat
  cslot   : Nat
  wg      : Nat
  whole   : Bool
  core    : Nat
  pri     : Nat
  warps   : List (Nat × Warp)
  area    : Sp Byte
  full    : List Nat
  orphan  : List Nat
  cells   : Sp Byte
  unit    : Nat
  units   : Nat
  damaged : Bool
  order   : Nat
  time    : Nat
  deriving DecidableEq, Repr

/-- A launch queue (R364); `current` is the launch still being placed from it. -/
structure Queue where
  base    : BitVec 52 := 0
  size    : BitVec 4 := 0
  err     : Bool := false
  pri     : BitVec 2 := 0
  en      : Bool := false
  tail    : W32 := 0
  head    : W32 := 0
  current : Option Nat := none
  last    : Option Nat := none
  deriving DecidableEq, Repr

/-- What the device keeps for a context slot beside its descriptor, which lies in memory (R64, R364, R403, R406,
R373, R376). `damaged` marks a fault queue whose frqhead or frqtail was stored by other means (R84). -/
structure Ctx where
  queues  : List Queue := List.replicate 16 {}
  svbase  : W64 := 0
  svsize  : W32 := 0
  halted  : Bool := false
  nextTag : W32 := 1
  serial  : Nat := 0
  tasks   : List PoolTask := []
  batches : List Batch := []
  damaged : Bool := false
  /-- the watches, by handle, whose held pushes wait for room in the pool, in the order of their matches, with the logical time
  of each matching write (R377) -/
  pushes  : List (Nat × Nat) := []
  /-- the tasks with ranges that have ended (R375) -/
  ended   : List EndedTask := []
  deriving DecidableEq, Repr

/-! ### Directories and coherence -/

/-- A fragment by its place: core, warp slot and split-table entry. -/
structure FragRef where
  core  : Nat
  slot  : Nat
  entry : Nat
  deriving DecidableEq, Repr

/-- A tile-directory entry (R337); `slice` is the directory slice of its key. -/
structure Tile where
  cslot : Nat
  ctxid : BitVec 16
  key   : Nat
  slice : Nat
  wg    : Nat
  off   : Nat
  ctr   : W32
  deriving DecidableEq, Repr

/-- The logical time of the last release of a tile key of a context (R341). -/
structure TileTime where
  ctxid : BitVec 16
  key   : Nat
  time  : Nat
  deriving DecidableEq, Repr

/-- A fragment in the waiting order of a tile key or of a line lock (R337, R173). -/
structure Waiter where
  ref  : FragRef
  wtag : W32
  wg   : Nat
  key  : Nat
  deriving DecidableEq, Repr

/-- A near cache's tokens of a line (R153, R154). -/
structure Holding where
  core   : Nat
  tokens : Nat
  owner  : Bool
  data   : Bool
  deriving DecidableEq, Repr

/-- A token message in flight (R155): to a near cache, or to the home when `dest` is none; `data` tells whether data
travels with it. -/
structure TokenMsg where
  dest   : Option Nat
  tokens : Nat
  owner  : Bool
  data   : Bool
  deriving DecidableEq, Repr

/-- A request that a near cache has made for a line (R155 to R157): for writing or reading, its failed tries, whether it
is to be a persistent request, the tower's clock at its last try, and whether the home holds that try, or has held it and
served it since (R283). -/
structure LineReq where
  core       : Nat
  write      : Bool
  tries      : Nat
  persistent : Bool
  since      : Nat
  held       : Bool := false
  served     : Bool := false
  deriving DecidableEq, Repr

/-- One tower's tokens of a line: those at the slice, in the near caches and in flight (R153), to which near cache
the owner token was last sent (R155), and the requests for it. -/
structure TokenBank where
  home      : Nat := 128
  homeOwner : Bool := true
  near      : List Holding := []
  msgs      : List TokenMsg := []
  sentTo    : Option Nat := none
  fwd       : List (Nat × Nat) := []
  reqs      : List LineReq := []
  deriving DecidableEq, Repr

/-- An outside agent's lease on a line with its physical expiry (R166). -/
structure OutLease where
  agent : Agent
  pexp  : Nat
  deriving DecidableEq, Repr

/-- A tower's copy of a line homed elsewhere (R152, R160): the write time and read-lease end of its grant, for a line of an
outside agent the physical expiry too (R166), and its bytes where they are no longer those of the home. -/
structure Proxy where
  wts  : Nat
  rts  : Nat
  pexp : Option Nat := none
  kept : Option (List Byte) := none
  deriving DecidableEq, Repr

/-- What the device keeps for a line (R151, R160, R89): the two towers' tokens, the write time and read-lease end,
the proxy copies of each tower, the compression attribute, dirty data, outside leases and the outside owner. `backing`
are the bytes that the line's block in memory holds where they are not the line's present ones (R90, R92). -/
structure LineState where
  bank0   : TokenBank := {}
  bank1   : TokenBank := {}
  wts     : Nat := 0
  rts     : Nat := 0
  proxy0  : Option Proxy := none
  proxy1  : Option Proxy := none
  attr    : Bool := false
  dirty   : Bool := false
  backing : Option (List Byte) := none
  leases  : List OutLease := []
  owner   : Option Agent := none
  /-- an ownership grant waits for the line's outside leases (R166) -/
  wanted  : List Agent := []
  deriving DecidableEq, Repr

/-- An outside agent as the homes see it (R159, R167): since when it is time-lost, its last report, and its logical
time. -/
structure AgentState where
  agent : Agent
  lost  : Option Nat
  last  : Nat
  pts   : Nat
  deriving DecidableEq, Repr

/-- A persistent request in a slice's table or its input queue, in arrival order (R157). -/
structure PersReq where
  slice : Nat
  line  : Nat
  core  : Nat
  deriving DecidableEq, Repr

/-- An entry that the translation caches of the package may hold (R72): the context, the table level, the part of
the virtual address that indexes down to it, and the table or leaf entry as read. -/
structure TlbEntry where
  ctxid : BitVec 16
  level : Nat
  index : Nat
  entry : W64
  deriving DecidableEq, Repr

/-- An entry of a feedback filter (R82): the report's context, page and level, and the two lines that it covers, of which the
first is homed at the filter's slice. -/
structure FbEntry where
  ctxid : BitVec 16
  page  : Nat
  level : Nat
  line1 : Nat
  line2 : Nat
  deriving DecidableEq, Repr

/-- An entry of a memory controller's pending table (R92): the locked block, the attribute of the last merge, and the
lines that have been merged with their bytes. -/
structure MergeSlot where
  ctrl   : Nat
  block  : Nat
  attr   : Bool
  merged : Sp (List Byte)
  deriving DecidableEq, Repr

/-- Bytes that a warp stored in one line in one step, and that may not have reached the line's home as instruction fetch
sees it, until the warp's FENCE.code (R225, R408): the bytes they held before. -/
structure CodeLag where
  wtag  : W32
  ctxid : BitVec 16
  tick  : Nat
  addr  : Nat
  old   : List Byte
  deriving DecidableEq, Repr

/-- An entry of a comb's field cache (R134): for a slot of a context with a generation, its control word or an entry of its
field, with the virtual address where that lies. -/
structure FieldEntry where
  comb  : Nat
  ctxid : BitVec 16
  slot  : Nat
  gen   : Nat
  word  : Bool
  va    : Nat
  val   : Nat
  deriving DecidableEq, Repr

/-- The sealing of a slot's generation, by the step that made it (R135). -/
structure FieldSeal where
  ctxid : BitVec 16
  slot  : Nat
  gen   : Nat
  tick  : Nat
  deriving DecidableEq, Repr

/-- Bytes that a store has replaced while some slot was SEALED (R135). -/
structure FieldPast where
  tick : Nat
  addr : Nat
  old  : List Byte
  deriving DecidableEq, Repr

/-- A histogram monitor (R426). `seen` are values that it has still to count, the oldest first, each with whether it is the value
itself or a bound that a measured value does not go below (log 61). -/
structure Monitor where
  en    : Bool := false
  src   : BitVec 8 := 0
  scope : BitVec 8 := 0
  sub   : BitVec 4 := 0
  mmin  : W32 := 0xFFFFFFFF
  mmax  : W32 := 0
  bins  : List W32 := List.replicate 16 0
  seen  : List (Nat × Bool) := []
  deriving DecidableEq, Repr

/-! ### Moves -/

/-- One move of the machine: a fragment issues, a step of the device's table, time passing, a pending map store
performed at its target (R59), a fragment fetching a line ahead (R176), a warp's oldest pending CFGWR taking effect
(R414), or a fragment's map load reading a unit (R59). -/
inductive Move where
  | issue (r : FragRef)
  | event (i : Instr)
  | time (ns : Nat)
  | mapPerform (core slot idx : Nat)
  | fetchAhead (r : FragRef) (va : Nat)
  | cfgPerform (core slot : Nat)
  | mapLoad (r : FragRef) (idx : Nat)
  deriving DecidableEq, Repr

/-! ### The state -/

/-- The state of the package. -/
structure State where
  pkg      : Package
  towers   : List Tower
  ctxs     : List Ctx
  combs    : List Comb
  cores    : List Core
  /-- physical memory (R60); the memory of an outside agent stands above 2^52 (log 12) -/
  mem      : List Host.Cell
  /-- poisoned lines by line number (R169) -/
  poison   : List Nat
  /-- blocks stored compressed (R87) -/
  packed   : List Nat
  lines    : Sp LineState
  /-- the time base of a slice (R165) -/
  bases    : Sp Nat
  pers     : List PersReq
  merges   : List MergeSlot
  agents   : List AgentState
  tlb      : List TlbEntry
  filter   : List FbEntry
  /-- stores that instruction fetch may not see yet, the latest first (R408) -/
  lag      : List CodeLag
  /-- the stores to units of the on-chip map, the latest first (R59, R429) -/
  past     : List MapPast
  /-- the combs' field caches (R134), the sealings that last, and what stores have replaced since, the latest first (R135) -/
  fields   : List FieldEntry
  seals    : List FieldSeal
  sealPast : List FieldPast
  launches : List Launch
  groups   : List Workgroup
  images   : List Image
  tiles    : List Tile
  tileWait : List Waiter
  /-- the logical times of the releases of tile keys (R341) -/
  released : List TileTime
  locks    : List (Nat × Nat)
  lockWait : List Waiter
  watches  : List Watch
  binds    : List Binding
  monitors : List Monitor
  /-- the pair (context slot, queue) that last gave a workgroup of each priority, as 17 × slot + queue + 1 (R368) -/
  turns    : List Nat
  /-- the model's own: the moves to be made next, from the environment and the arbitration (log 1) -/
  agenda   : List Move
  /-- the model's own: the number of the step, to which every free value is applied (log 1) -/
  tick     : Nat
  /-- the model's own: the moves that the device has chosen, by which the moves that R362 promises come round (log 77) -/
  rounds   : Nat
  /-- the model's own: the fragment that the issuing step runs (log 9) -/
  cur      : FragRef
  /-- the model's own: a counter for identifiers of launches, workgroups, images and orders of arrival -/
  seq      : Nat
  /-- the model's own: the bytes the last access from outside returned (R415) -/
  reply    : List Byte
  deriving DecidableEq, Repr

/-- Why the machine stops. -/
inductive Fault where
  /-- Raised by a meaning when the current fragment is not one that can issue: no warp in the slot, or an entry
  that is neither ready nor parked. No spec behaviour is lost: such a fragment never issues. Safe. -/
  | noFragment
  deriving DecidableEq, Repr

/-- Why the model has no meaning for an instruction. -/
inductive Refusal where
  /-- Raised by `exec` for an instruction that has no meaning yet. Safe. -/
  | notModelled (mnemonic : String)
  deriving DecidableEq, Repr

/-- The machine right after a cold start in the default configuration "2+2" (R3, R421): every register at the
value the spec gives or a log entry names (logs 3 to 9), memory wiped, nothing resident. -/
def State.reset : State :=
  { pkg := {}, towers := List.replicate 2 {}, ctxs := List.replicate 64 {}, combs := List.replicate 32 {},
    cores := List.replicate 256 {}, mem := [], poison := [], packed := [], lines := [], bases := [],
    pers := [], merges := [], agents := [], tlb := [], filter := [], lag := [], past := [], fields := [], seals := [], sealPast := [], launches := [], groups := [],
    images := [], tiles := [], tileWait := [], released := [], locks := [], lockWait := [], watches := [], binds := [],
    monitors := List.replicate 64 {}, turns := [0, 0, 0, 0], agenda := [], tick := 0, rounds := 0, cur := ⟨96, 0, 0⟩, seq := 0, reply := [] }

end Sys2Proof.Machine
end

