-- ==== Sys2Proof/Machine/Ops.lean ====
section
/-!
DEFINITION. The named operations over cores, warps, fragments and registers; the environment an instruction sees;
taking a fault; and the one prologue and epilogue that every instruction's meaning runs through.
-/
namespace Sys2Proof.Machine

/-! ### Free values -/

/-- One of `n` outcomes that the spec allows at point `i` of the step (log 1); 0 when there is only one. -/
def choose (t i n : Nat) : Nat := if n ≤ 1 then 0 else Config.choice t i % n

/-! ### Lanes -/

/-- The lanes of a mask in ascending order (R9). -/
def lanesOf (m : Mask) : List Nat := (List.range 64).filter fun L => m.getLsbD L
/-- The mask of W lanes (R229). -/
def fullMask (w : Nat) : Mask := BitVec.ofNat 64 (2 ^ w - 1)
/-- The mask of one lane. -/
def laneBit (L : Nat) : Mask := BitVec.ofNat 64 (2 ^ L)
/-- The mask of a list of lanes. -/
def maskOf (ls : List Nat) : Mask := ls.foldl (fun m L => m ||| laneBit L) 0
/-- The lowest lane of a mask, 64 when there is none. -/
def lowestLane (m : Mask) : Nat := ((List.range 64).find? fun L => m.getLsbD L).getD 64
/-- The number of lanes in a mask. -/
def laneCount (m : Mask) : Nat := (lanesOf m).length

/-! ### Positions and roles (R46 to R51) -/

/-- The tower of a physical position (R47). -/
def towerOf (core : Nat) : Nat := core / 128
/-- The layer of a physical position (R47). -/
def layerOf (core : Nat) : Nat := core / 32 % 4
/-- The comb of a physical position, 0 to 31 (R411). -/
def combOf (core : Nat) : Nat := core / 8

def State.tower (s : State) (t : Nat) : Tower := (s.towers[t]?).getD {}
def State.modTower (s : State) (t : Nat) (f : Tower → Tower) : State := { s with towers := modAt f t s.towers }
/-- Has a tower's CLOCK come to a multiple of 1,024 at which its fragments have not yet aged (R370)? Until they have, nothing
of the tower issues and its clock stands. -/
def Tower.agingDue (t : Tower) : Bool := decide (t.aging < t.clock / 1024)

/-- Is the layer of a tower in the compute role now (R3)? -/
def State.compute (s : State) (t j : Nat) : Bool := decide (4 ≤ j + (s.tower t).k)
/-- The compute-layer mask of a tower (R50). -/
def State.cmask (s : State) (t : Nat) : Nat :=
  (List.range 4).foldl (fun m j => if s.compute t j then m + 2 ^ j else m) 0
/-- Does the core at a physical position run (R48)? -/
def State.running (s : State) (core : Nat) : Bool := decide (core < 256) && s.compute (towerOf core) (layerOf core)
/-- B(t), the first core number of a tower (R48). -/
def State.firstCore (s : State) (t : Nat) : Nat := if t = 0 then 0 else 32 * (s.tower 0).k
/-- The core number of a running core (R48). -/
def State.coreNumber (s : State) (core : Nat) : Nat :=
  s.firstCore (towerOf core) + (3 - layerOf core) * 32 + core % 32

/-! ### Cores, combs, contexts, warps -/

def State.core (s : State) (c : Nat) : Core := (s.cores[c]?).getD {}
def State.modCore (s : State) (c : Nat) (f : Core → Core) : State := { s with cores := modAt f c s.cores }
def State.comb (s : State) (c : Nat) : Comb := (s.combs[c]?).getD {}
def State.modComb (s : State) (c : Nat) (f : Comb → Comb) : State := { s with combs := modAt f c s.combs }
def State.ctx (s : State) (i : Nat) : Ctx := (s.ctxs[i]?).getD {}
def State.modCtx (s : State) (i : Nat) (f : Ctx → Ctx) : State := { s with ctxs := modAt f i s.ctxs }
def Ctx.queue (x : Ctx) (q : Nat) : Queue := (x.queues[q]?).getD {}
def State.modQueue (s : State) (i q : Nat) (f : Queue → Queue) : State :=
  s.modCtx i fun x => { x with queues := modAt f q x.queues }

def State.warp (s : State) (c w : Nat) : Option Warp := ((s.core c).slots[w]?).getD none
def State.setWarp (s : State) (c w : Nat) (x : Option Warp) : State :=
  s.modCore c fun k => { k with slots := modAt (fun _ => x) w k.slots }
def State.modWarp (s : State) (c w : Nat) (f : Warp → Warp) : State :=
  s.modCore c fun k => { k with slots := modAt (Option.map f) w k.slots }

def Warp.frag (w : Warp) (i : Nat) : Frag := (w.frags[i]?).getD {}
def Warp.modFrag (w : Warp) (i : Nat) (f : Frag → Frag) : Warp := { w with frags := modAt f i w.frags }
def Warp.join (w : Warp) (j : Nat) : Option Join := (w.joins[j]?).getD none
def Warp.setJoin (w : Warp) (j : Nat) (x : Option Join) : Warp := { w with joins := modAt (fun _ => x) j w.joins }
def State.modFrag (s : State) (r : FragRef) (f : Frag → Frag) : State :=
  s.modWarp r.core r.slot fun w => w.modFrag r.entry f
def State.frag (s : State) (r : FragRef) : Frag := ((s.warp r.core r.slot).map fun w => w.frag r.entry).getD {}

def State.wgroup (s : State) (id : Nat) : Option Workgroup := s.groups.find? fun g => g.id == id
def State.modWgroup (s : State) (id : Nat) (f : Workgroup → Workgroup) : State :=
  { s with groups := s.groups.map fun g => if g.id = id then f g else g }
def State.launch (s : State) (id : Nat) : Option Launch := s.launches.find? fun l => l.id == id
def State.modLaunch (s : State) (id : Nat) (f : Launch → Launch) : State :=
  { s with launches := s.launches.map fun l => if l.id = id then f l else l }

/-- The width of the warps resident on a core, or none when it holds none (R230). -/
def State.coreWidth (s : State) (c : Nat) : Option Nat :=
  (s.core c).slots.findSome? fun x => x.map fun w => w.width

/-- Every resident warp with its core and slot, in rising order. -/
def State.warps (s : State) : List (Nat × Nat × Warp) :=
  ((List.range 256).map fun c =>
    (findWarps c 0 (s.core c).slots)).flatten
where
  findWarps (c : Nat) : Nat → List (Option Warp) → List (Nat × Nat × Warp)
    | _, [] => []
    | i, none :: xs => findWarps c (i + 1) xs
    | i, some w :: xs => (c, i, w) :: findWarps c (i + 1) xs

/-- Where the warp of a context with a tag is resident (R391). -/
def State.findWarp (s : State) (ctxid : BitVec 16) (tag : W32) : Option (Nat × Nat × Warp) :=
  s.warps.find? fun x => x.2.2.ctxid == ctxid && x.2.2.tag == tag

/-- A fresh identifier or place in an order of arrival. -/
def State.fresh (s : State) : State × Nat := ({ s with seq := s.seq + 1 }, s.seq)

/-! ### Physical memory, read -/

/-- The byte of physical memory at an address; memory is wiped to zero at a start (R421, log 4). -/
def State.byte (s : State) (a : Nat) : Byte := spGet 0 s.mem a
/-- `n` bytes of physical memory. -/
def State.bytes (s : State) (a n : Nat) : List Byte := spRead 0 s.mem a n
/-- `n` little-endian bytes of physical memory as a number. -/
def State.num (s : State) (a n : Nat) : Nat := leNat (s.bytes a n)

/-! ### Context descriptors (R64) -/

/-- The physical address of a context slot's descriptor. -/
def State.descAddr (s : State) (i : Nat) : Nat := s.pkg.cdtbase.toNat + 64 * i
/-- Bits `hi` to `lo` of a descriptor, with `lo` a multiple of 8 and the field in whole bytes. -/
def State.desc (s : State) (i hi lo : Nat) : Nat := s.num (s.descAddr i + lo / 8) ((hi + 1 - lo) / 8)
/-- Is the context of a slot live (R64, R411)? While CDTBASE is 0 no context is. -/
def State.ctxValid (s : State) (i : Nat) : Bool :=
  s.pkg.cdtbase != 0 && i < 64 && s.num (s.descAddr i) 1 % 2 == 1
/-- Is every warp of the slot's context a supervisor warp (R393)? -/
def State.ctxSup (s : State) (i : Nat) : Bool := s.ctxValid i && s.num (s.descAddr i) 1 / 2 % 2 == 1
/-- The context identifier in a slot's descriptor. -/
def State.ctxId (s : State) (i : Nat) : Nat := s.desc i 175 160
/-- The slot of the live context with an identifier (R64). -/
def State.ctxSlot (s : State) (id : Nat) : Option Nat :=
  (List.range 64).find? fun i => s.ctxValid i && s.ctxId i == id

/-! ### How orders compose (R428, R429) -/

/-- What `dest` stands for is ordered after everything that one of `src` stands for is ordered after. -/
def State.flow (s : State) (src : List Carrier) (dest : Carrier) : State :=
  { s with past := s.past.map fun m =>
      if !m.known.contains dest && src.any m.known.contains then { m with known := dest :: m.known } else m }

/-- Carriers that stand for nothing any more, or for something new. -/
def State.dropCarriers (s : State) (gone : Carrier → Bool) : State :=
  { s with past := s.past.map fun m => { m with known := m.known.filter fun c => !gone c } }

/-- What a warp's access comes after, when it stands before a later event of the warp: what its earlier accesses come after,
and these themselves. -/
def Warp.before (w : Warp) : List Carrier := [.warp w.ctxid w.tag, .made w.ctxid w.tag]
/-- The same with the warp's map stores, for an event that performs them. -/
def Warp.allBefore (w : Warp) : List Carrier := .maps w.ctxid w.tag :: w.before

/-! ### The environment of an instruction -/

/-- What an instruction sees at issue: its fragment, its warp and fragment as they stand, its fields, Active and
exm (R16). Every source is read from here, before anything is written (R243). -/
structure Env where
  ref    : FragRef
  w      : Warp
  fr     : Frag
  f      : Fields
  active : Mask
  exm    : Mask
  t      : Nat
  deriving DecidableEq, Repr

/-- Keys of the run log (R34, R35): words of v, s and k registers, of exm and of the system registers. -/
def keyV (n L : Nat) : Nat := n * 64 + L
def keyS (n half : Nat) : Nat := 0x10000 + n * 2 + half
def keyK (n half : Nat) : Nat := 0x20000 + n * 2 + half
def keyExm (half : Nat) : Nat := 0x30000 + half
def keySys (n half : Nat) : Nat := 0x40000 + n * 2 + half

/-- A 32-bit word as an instruction reads it: when an earlier instruction of the run wrote it, any of the values it
held before the run or was written in it (R35). -/
def runRead (t : Nat) (log : Sp (List W32)) (key pos : Nat) (cur : W32) : W32 :=
  match spGet [] log key with
  | [] => cur
  | vs => ((vs ++ [cur])[choose t (key * 8 + pos) (vs.length + 1)]?).getD cur

/-- A 64-bit register as an instruction reads it, word by word (R35). -/
def runRead64 (t : Nat) (log : Sp (List W32)) (key pos : Nat) (cur : W64) : W64 :=
  match log with
  | [] => cur
  | _ => (runRead t log (key + 1) pos (cur.extractLsb' 32 32) ++ runRead t log key pos (cur.extractLsb' 0 32) : BitVec 64)

/-- One word written in a run: the value it holds afterwards and the run log. A word that the run has already
written holds one of the values written (R35). -/
def runWrite (t : Nat) (log : Sp (List W32)) (key : Nat) (cur x : W32) : W32 × Sp (List W32) :=
  match spGet [] log key with
  | [] => (x, spSet [] log key [cur])
  | vs => if choose t (key * 8 + 7) 2 = 0 then (x, spSet [] log key (vs ++ [cur])) else (cur, spSet [] log key (vs ++ [x]))

/-- A 64-bit register written in a run, word by word (R35). -/
def runWrite64 (t : Nat) (log : Sp (List W32)) (key : Nat) (cur x : W64) : W64 × Sp (List W32) :=
  let (lo, l1) := runWrite t log key (cur.extractLsb' 0 32) (x.extractLsb' 0 32)
  let (hi, l2) := runWrite t l1 (key + 1) (cur.extractLsb' 32 32) (x.extractLsb' 32 32)
  ((hi ++ lo : BitVec 64), l2)

/-- v[n] in lane L (R228). -/
def Env.v (e : Env) (n L : Nat) (pos : Nat := 0) : W32 :=
  runRead e.t e.fr.run (keyV n L) pos (spGet 0 e.w.r.v (n * 64 + L))

/-- The pair v[n], v[n + 1] in lane L (R112). -/
def Env.v64 (e : Env) (n L : Nat) (pos : Nat := 0) : W64 := (e.v (n + 1) L pos ++ e.v n L pos : BitVec 64)

/-- The s register as its fragment holds it: its shadow when one exists, else the warp's register (R352). -/
def sHeld (w : Warp) (fr : Frag) (n : Nat) : W64 :=
  match fr.shadows.find? fun x => x.reg == n with
  | some x => x.val
  | none => spGet 0 w.r.s n

/-- s[n] as the fragment reads it (R352, R35). -/
def Env.s (e : Env) (n : Nat) (pos : Nat := 0) : W64 := runRead64 e.t e.fr.run (keyS n 0) pos (sHeld e.w e.fr n)

/-- A mask register as the warp holds it: k0 reads as all ones, bits at or above W as zero (R229). -/
def kHeld (w : Warp) (n : Nat) : Mask := if n = 0 then fullMask w.width else spGet 0 w.r.k n &&& fullMask w.width

/-- k[n] as the fragment reads it. -/
def Env.k (e : Env) (n : Nat) (pos : Nat := 0) : Mask :=
  if n = 0 then fullMask e.w.width else runRead64 e.t e.fr.run (keyK n 0) pos (kHeld e.w n) &&& fullMask e.w.width

/-- exm as the instruction reads it (R229). -/
def fragExm (t : Nat) (fr : Frag) : Mask := runRead64 t fr.run (keyExm 0) 0 fr.exm &&& fr.mem

/-- The predicate mask (R16). -/
def predicate (t : Nat) (w : Warp) (fr : Frag) (f : Fields) : Mask :=
  let n := f.pk.toNat
  let m := if n = 0 then fullMask w.width else runRead64 t fr.run (keyK n 0) 6 (kHeld w n) &&& fullMask w.width
  if f.pneg then fullMask w.width &&& ~~~m else m

/-- Active (R16): a parked instruction keeps the one with which it issued. -/
def activeOf (t : Nat) (w : Warp) (fr : Frag) (f : Fields) : Mask :=
  if fr.wait.isSome then fr.act else fragExm t fr &&& predicate t w fr f

/-- The environment of an instruction with fields `f` in a fragment (R16). -/
def mkEnv (t : Nat) (r : FragRef) (w : Warp) (fr : Frag) (f : Fields) : Env :=
  { ref := r, w := w, fr := fr, f := f, exm := fragExm t fr, t := t, active := activeOf t w fr f }

def Env.lanes (e : Env) : List Nat := lanesOf e.active
def Env.dst (e : Env) : Nat := e.f.dst.toNat
def Env.opa (e : Env) : Nat := e.f.opa.toNat
def Env.opb (e : Env) : Nat := e.f.opb.toNat
def Env.opc (e : Env) : Nat := e.f.opc.toNat
def Env.width (e : Env) : Nat := e.w.width
def Env.seg (e : Env) (n : Nat) : Seg := (e.w.r.g[n]?).getD {}

/-- The issuing warp's accesses before its instruction come before what a carrier stands for. -/
def Env.publish (e : Env) (s : State) (dest : Carrier) : State := s.flow e.w.before dest
/-- What the carriers stand for comes before the issuing warp's later accesses. -/
def Env.observe (e : Env) (s : State) (src : List Carrier) : State := s.flow src (.warp e.w.ctxid e.w.tag)

/-! ### Writing registers -/

/-- Any write of a register word replaces the word and its code (R238). -/
def State.clearBad (s : State) (c : Nat) (x : RegWord) : State :=
  if (s.core c).bad.isEmpty && (s.core c).weak.isEmpty then s
  else s.modCore c fun k => { k with bad := k.bad.filter (· != x), weak := k.weak.filter (· != x) }

/-- Register words that are written whole: their errors and codes are gone (R238). -/
def Core.cleared (k : Core) (p : RegWord → Bool) : Core :=
  { k with bad := k.bad.filter fun x => !p x, weak := k.weak.filter fun x => !p x }
/-- Is a word one of a warp slot's vector, scalar or mask registers? -/
def wordOfSlot (slot width : Nat) : RegWord → Bool
  | .vec lane _ => lane / width == slot
  | .sca n _ _ => n == slot
  | .msk n _ _ => n == slot
  | .cell _ _ => false
/-- Is a word one of the listed cells? -/
def wordOfCells (cells : List Nat) : RegWord → Bool
  | .cell c _ => cells.contains c
  | _ => false

/-- v[n][L] ← x, as a register result (R32, R35). -/
def Env.setV (e : Env) (s : State) (n L : Nat) (x : W32) : State :=
  (s.modWarp e.ref.core e.ref.slot fun w =>
    let (y, log) := runWrite e.t (w.frag e.ref.entry).run (keyV n L) (spGet 0 w.r.v (n * 64 + L)) x
    { w.modFrag e.ref.entry (fun fr => { fr with run := log }) with
      r := { w.r with v := spSet 0 w.r.v (n * 64 + L) y } }).clearBad e.ref.core (.vec (e.ref.slot * e.w.width + L) n)

/-- The pair v[n], v[n + 1] in lane L ← x (R112). -/
def Env.setV64 (e : Env) (s : State) (n L : Nat) (x : W64) : State :=
  e.setV (e.setV s n L (x.extractLsb' 0 32)) (n + 1) L (x.extractLsb' 32 32)

/-- Each listed lane of v[n] receives its value. -/
def Env.setLanes (e : Env) (s : State) (n : Nat) (xs : List (Nat × W32)) : State :=
  xs.foldl (fun s x => e.setV s n x.1 x.2) s

/-- k[n] ← x, as a register result; bits at or above W are ignored (R229). -/
def Env.setK (e : Env) (s : State) (n : Nat) (x : Mask) : State :=
  ((s.modWarp e.ref.core e.ref.slot fun w =>
    let (y, log) := runWrite64 e.t (w.frag e.ref.entry).run (keyK n 0) (kHeld w n) (x &&& fullMask w.width)
    { w.modFrag e.ref.entry (fun fr => { fr with run := log }) with
      r := { w.r with k := spSet 0 w.r.k n y } }).clearBad e.ref.core (.msk e.ref.slot n 0)).clearBad
    e.ref.core (.msk e.ref.slot n 1)

/-- The bits of k[n] in a mask of lanes are replaced; other bits keep their values (R244). -/
def Env.setKBits (e : Env) (s : State) (n : Nat) (lanes x : Mask) : State :=
  let cur := ((s.warp e.ref.core e.ref.slot).map fun w => kHeld w n).getD 0
  e.setK s n ((cur &&& ~~~lanes) ||| (x &&& lanes))

/-- The chain of outstanding join records from `j` outward through parents (R350). -/
def joinChain (w : Warp) : Nat → Option Nat → List Nat
  | 0, _ => []
  | _, none => []
  | n + 1, some j => j :: joinChain w n ((w.join j).bind fun x => x.parent)

/-- The chain of a fragment. -/
def fragChain (w : Warp) (fr : Frag) : List Nat := joinChain w 32 fr.jr

/-- Does the warp have more than one fragment, or an outstanding join record (R352)? -/
def Warp.divergent (w : Warp) : Bool :=
  decide (1 < (w.frags.filter fun fr => fr.st != .free).length) || w.joins.any Option.isSome

/-- The first of the registers whose write would need a fifth shadow (R352). -/
def shadowRefused (w : Warp) (fr : Frag) (regs : List Nat) : Option Nat :=
  if w.divergent then go (fr.shadows.map fun x => x.reg) regs else none
where
  go (have_ : List Nat) : List Nat → Option Nat
    | [] => none
    | n :: ns => if have_.contains n then go have_ ns else if 4 ≤ have_.length then some n else go (n :: have_) ns

/-- The s register of a fragment changed: its shadow in a divergent warp, else the warp's register, of which no shadow is then
left (R352, R354). -/
def writeS (w : Warp) (entry n : Nat) (x : W64) : Warp :=
  if w.divergent then
    let since := fragChain w (w.frag entry)
    w.modFrag entry fun fr =>
      if fr.shadows.any fun y => y.reg == n then
        { fr with shadows := fr.shadows.map fun y => if y.reg = n then { y with val := x, since := since } else y }
      else { fr with shadows := fr.shadows ++ [⟨n, x, since⟩] }
  else
    { (w.modFrag entry fun fr => { fr with shadows := fr.shadows.filter fun y => y.reg != n }) with
      r := { w.r with s := spSet 0 w.r.s n x } }

/-- s[n] ← x, as a register result (R244, R352). A write of a shadow leaves the register's word and its code (R238). -/
def Env.setS (e : Env) (s : State) (n : Nat) (x : W64) : State :=
  let new := s.modWarp e.ref.core e.ref.slot fun w =>
    let (y, log) := runWrite64 e.t (w.frag e.ref.entry).run (keyS n 0) (sHeld w (w.frag e.ref.entry) n) x
    writeS (w.modFrag e.ref.entry fun fr => { fr with run := log }) e.ref.entry n y
  if (s.warp e.ref.core e.ref.slot).any Warp.divergent then new
  else (new.clearBad e.ref.core (.sca e.ref.slot n 0)).clearBad e.ref.core (.sca e.ref.slot n 1)

/-- One word of s[n] ← x, as a register result. -/
def Env.setSHalf (e : Env) (s : State) (n half : Nat) (x : W32) : State :=
  let new := s.modWarp e.ref.core e.ref.slot fun w =>
    let old := sHeld w (w.frag e.ref.entry) n
    let (y, log) := runWrite e.t (w.frag e.ref.entry).run (keyS n half) (old.extractLsb' (32 * half) 32) x
    writeS (w.modFrag e.ref.entry fun fr => { fr with run := log }) e.ref.entry n
      (if half = 0 then (old.extractLsb' 32 32 ++ y : BitVec 64) else (y ++ old.extractLsb' 0 32 : BitVec 64))
  if (s.warp e.ref.core e.ref.slot).any Warp.divergent then new else new.clearBad e.ref.core (.sca e.ref.slot n half)

/-- The warp's registers changed without a register result. -/
def Env.modRegs (e : Env) (s : State) (f : RegFile → RegFile) : State :=
  s.modWarp e.ref.core e.ref.slot fun w => { w with r := f w.r }

/-- Flags are raised by an atomic OR into FLAGS (R120, R122). -/
def raiseFlags (s : State) (c w : Nat) (fl : Nat) : State :=
  if fl = 0 then s else s.modWarp c w fun x => { x with r := { x.r with flags := x.r.flags ||| BitVec.ofNat 14 fl } }

/-- Flags raised by the issuing instruction (R121); they are part of its register results (R122), so the run keeps
what FLAGS held before. -/
def Env.raise (e : Env) (s : State) (fl : Nat) : State :=
  if fl = 0 then s
  else s.modWarp e.ref.core e.ref.slot fun w =>
    let old : W32 := w.r.flags.setWidth 32
    { w.modFrag e.ref.entry (fun fr =>
        { fr with run := spSet [] fr.run (keySys 11 0) (spGet [] fr.run (keySys 11 0) ++ [old]) }) with
      r := { w.r with flags := w.r.flags ||| BitVec.ofNat 14 fl } }

/-! ### Faults -/

/-- A precise fault as an instruction raises it: the fields of its record that it decides (R389, R390). -/
structure Trap where
  cause : Nat
  va    : W64 := 0
  aux   : W32 := 0
  lanes : Mask := 0
  acc   : Nat := 0
  unit  : Nat := 0
  pcm   : W64 := 0
  deriving DecidableEq, Repr

/-- The unit field of a fault (R389) of an instruction: the pipe of R30; a flow or privileged instruction, to which
R30 gives none, shows the scalar unit, and LNCLAIM, CFGRD and CFGWR the load-store pipe (log 16). -/
def unitOf (major : Nat) : Nat :=
  if (0x40 ≤ major ∧ major ≤ 0x70) ∨ major = 0x80 ∨ major = 0x81 ∨ (0x88 ≤ major ∧ major ≤ 0x8F) then 1
  else if 0x78 ≤ major ∧ major ≤ 0x7F then 2
  else if major = 0x37 ∨ major = 0x38 ∨ major = 0x82 ∨ major = 0x83 ∨ (0x90 ≤ major ∧ major ≤ 0xA1) ∨
      (0xB0 ≤ major ∧ major ≤ 0xBA) ∨ major = 0xBC ∨ (0xD0 ≤ major ∧ major ≤ 0xD5) ∨
      (0xDC ≤ major ∧ major ≤ 0xDF) ∨ major = 0xF4 ∨ major = 0xF6 ∨ major = 0xF7 then 3
  else if 0xC0 ≤ major ∧ major ≤ 0xCF then 4
  else if 0xD8 ≤ major ∧ major ≤ 0xDB then 5
  else 0

/-- The fault record of a trap of a warp's fragment at a PC (R389, R390); its time field is filled at posting. -/
def recordOf (s : State) (r : FragRef) (w : Warp) (pc : W64) (rowp : Nat) (t : Trap) : FaultRec :=
  { flags := w.r.flags, rowp := rowp, frag := r.entry, wslot := r.slot, aux := t.aux, epoch := s.pkg.epoch,
    core := s.coreNumber r.core, phys := r.core, wtag := w.tag, cslot := w.cslot, ctxid := w.ctxid, acc := t.acc,
    unit := t.unit, cause := t.cause, pcm := t.pcm, lanes := t.lanes, va := t.va, pc := pc }

/-- A fragment leaves every order in which it waits: for a tile, a line lock or cells. -/
def leaveOrders (r : FragRef) (s : State) : State :=
  let out := fun (w : Waiter) => w.ref != r
  { s.modCore r.core fun k => { k with mrsv := k.mrsv.filter fun x => !(x.1 == r.slot && x.2.1 == r.entry) } with
    tileWait := s.tileWait.filter out, lockWait := s.lockWait.filter out }

/-- TAKING A FAULT (R36, R41, R84, R387, R388): the fragment stops at its instruction with its PC unchanged, its
run ends, and one record for each trap is held in the core until FAULT_RECORD_POST posts it. A fragment that waited leaves
the orders it waited in. Nothing else changes:
`s` is the state before the instruction, but for a partial completion that the instruction records. -/
def takeTraps (r : FragRef) (s : State) (ts : List Trap) : State :=
  match s.warp r.core r.slot with
  | none => s
  | some w =>
    let recs := ts.map (recordOf s r w (w.frag r.entry).pc 0)
    let s := if (w.frag r.entry).wait.isSome then leaveOrders r s else s
    (s.modFrag r fun fr =>
      { fr with st := .stopped, wait := none, run := [], runOver := true, begun := none, leased := none, ahead := [],
                cause := (ts.head?.map Trap.cause).getD 0 }).modCore
      r.core fun k => { k with records := k.records ++ recs }

/-! ### The outcome of a meaning -/

/-- What an instruction's meaning answers. -/
inductive Res where
  /-- the effect, and the fragment goes on at the next slot -/
  | done (s : State)
  /-- the effect, and the fragment goes on at a PC -/
  | jump (s : State) (pc : W64)
  /-- the fragment parks at the instruction, which is tried again -/
  | park (s : State) (w : Wait)
  /-- precise faults, one record each; the state holds any partial completion -/
  | trap (s : State) (ts : List Trap)
  /-- the effect has itself placed every fragment of the warp it concerns -/
  | moved (s : State)
  | stop (r : Fault)

/-- The value of a source's event in a scope is seen by each enabled monitor of it (R426); `exact` is whether the value is known
to be that, or no less. -/
def State.seesValue (s : State) (src scope v : Nat) (exact : Bool) : State :=
  let on := fun (m : Monitor) => m.en && m.src.toNat == src && m.scope.toNat == scope
  if s.monitors.any on then
    { s with monitors := s.monitors.map fun m => if on m then { m with seen := m.seen ++ [(v, exact)] } else m }
  else s

/-- A fragment that has issued its instruction: at a new PC, ready, with its base priority (R369, R370), its run
going on unless `endRun` (R31). It becomes ready anew when its run ended or when it had been parked. -/
def afterIssue (t : Nat) (endRun : Bool) (pc : W64) (fr : Frag) : Frag :=
  { fr with pc := pc, st := .ready, wait := none, pri := fr.basePri, aged := false,
            since := if endRun || fr.st != .ready then t else fr.since, run := if endRun then [] else fr.run, runOver := endRun,
            begun := none, leased := none }

/-- The fragment parked with what it waits for and its Active; its PC and its run stay. It has issued, so its priority is its
base priority again (R370). -/
def parked (act : Mask) (w : Wait) (fr : Frag) : Frag :=
  { fr with st := .parked, wait := some w, act := act, pri := fr.basePri, aged := false }

/-- What the monitors will measure of a parked instruction (R426): from when it stands, and from when its store waits under
R166. -/
def waitsFrom (clock gtime : Nat) (w : Wait) (fr : Frag) : Frag :=
  { fr with begun := some (fr.begun.getD clock), leased := if w = .leased then some (fr.leased.getD gtime) else fr.leased }

/-- The epilogue of every instruction (R31, R246): where the fragment goes on. -/
def finish (e : Env) (endRun : Bool) : Res → Host.Outcome State Fault Refusal
  | .done s => .next (s.modFrag e.ref (afterIssue e.t endRun (nextPC e.fr.pc)))
  | .jump s pc => .next (s.modFrag e.ref (afterIssue e.t true pc))
  | .park s w => .next (s.modFrag e.ref fun fr =>
      waitsFrom (s.tower (towerOf e.ref.core)).clock s.pkg.gtime w (parked e.active w fr))
  | .trap s ts => .next (takeTraps e.ref s ts)
  | .moved s => .next s
  | .stop r => .fault r

/-! ### The checks before an instruction executes -/

/-- When an instruction executes (R16): a per-lane or scalar-class instruction when Active is not empty; an
instruction whose own rule speaks of the empty case always; a flow instruction always, after its run has ended. -/
inductive Cls where
  | lanes
  | always
  | flow
  deriving DecidableEq, Repr

/-- The registers past `lim` that a vector operand touches make the grant check fail (R232). -/
def Opd.inGrant (o : Opd) (x lim : Nat) : Bool :=
  match o with
  | .vec n _ => x + n ≤ lim
  | _ => true

/-- The grant check of every vector operand (R232): blocks 1 to n give v0 to v(63 + 32n). -/
def grantOk (sh : Shape) (f : Fields) (xgrant : Nat) : Bool :=
  let lim := 64 + 32 * xgrant
  Opd.inGrant sh.dst f.dst.toNat lim && Opd.inGrant (sh.aK f) f.opa.toNat lim && Opd.inGrant (sh.bK f) f.opb.toNat lim &&
    Opd.inGrant (sh.cK f) f.opc.toNat lim

/-- The code words that reading an operand touches (R238). -/
def Opd.words (o : Opd) (x slot width : Nat) (lanes : List Nat) : List RegWord :=
  match o with
  | .vec n _ => (List.range n).flatMap fun i => lanes.map fun L => .vec (slot * width + L) (x + i)
  | .sca n _ => (List.range n).flatMap fun i => [.sca slot (x + i) 0, .sca slot (x + i) 1]
  | .mask => if x = 0 then [] else [.msk slot x 0, .msk slot x 1]
  | _ => []

/-- Is a word not the one that the fragment reads, but shadowed in it (R352)? -/
def Frag.shadowed (fr : Frag) : RegWord → Bool
  | .sca _ n _ => fr.shadows.any fun y => y.reg == n
  | _ => false

/-- Mask registers that an instruction reads beside the sources of its form, or although Active is empty: k[kc] of GATH and
SCAT (R215), the source of EXMWR (R255), and the second mask of VCMPRS and VEXPND while exm is not empty (R281). -/
def moreMasks (i : Instr) (e : Env) : List Nat :=
  match i with
  | .gath f => if e.active = 0 then [] else [ksOf f]
  | .scat f => if e.active = 0 then [] else [ksOf f]
  | .exmwr _ => [e.opa]
  | .vcmprs _ => if e.exm = 0 then [] else [e.opb]
  | .vexpnd _ => if e.exm = 0 then [] else [e.opb]
  | _ => []

/-- The words an instruction reads: its predicate, its sources when it executes, and what `moreMasks` names. -/
def readWords (i : Instr) (e : Env) (sh : Shape) : List RegWord :=
  let ls := e.lanes
  let o := fun (k : Opd) x => (Opd.words k x e.ref.slot e.w.width ls).filter fun y => !e.fr.shadowed y
  Opd.words .mask e.f.pk.toNat e.ref.slot e.w.width [] ++
    (moreMasks i e).flatMap (fun n => Opd.words .mask n e.ref.slot e.w.width []) ++
    (if ls.isEmpty then []
     else (if sh.dstR then o sh.dst e.dst else []) ++ o (if sh.aLazy then .vec 1 1 else sh.aK e.f) e.opa ++ o (sh.bK e.f) e.opb ++
       (if sh.cR then o (sh.cK e.f) e.opc else []))

/-- The on-chip map offset of a code word (R57, R238); a mask word has none (log 16). -/
def wordOffset (core : Nat) : RegWord → Nat
  | .vec lane reg => core * 0x1000000 + 0x800000 + (reg * 2048 + lane) * 4
  | .sca slot reg half => core * 0x1000000 + 0xB00000 + (slot * 128 + reg) * 8 + half * 4
  | .msk slot reg half => Config.maskErrorAddress slot reg half
  | .cell c w => core * 0x1000000 + 0xA00000 + c * 512 + w * 4

/-- An illegal word, register or structure (R39, R40): cause 0x0D, with va and aux zero (log 15). -/
def illegal (e : Env) (i : Instr) : Trap :=
  { cause := 0x0D, lanes := e.active, unit := unitOf (i.major.getD 0) }

/-- The checks of R16, R38, R39, R232 and R238 before an instruction executes: the fault they raise, or none. -/
def preCheck (i : Instr) (e : Env) (s : State) : Option Trap :=
  if i.privileged && !s.ctxSup e.w.cslot then some (illegal e i)
  else match i.shape with
  | none => some (illegal e i)
  | some sh =>
    if (sh.check e.f).isSome || !grantOk sh e.f e.w.r.xgrant then some (illegal e i)
    else if (s.core e.ref.core).bad.isEmpty then none
    else match (readWords i e sh).find? fun x => (s.core e.ref.core).bad.contains x with
      | some x => some { cause := 0x15, va := BitVec.ofNat 64 (wordOffset e.ref.core x), lanes := e.active,
                         unit := unitOf (i.major.getD 0), acc := 1 }
      | none => none

/-- Words with one bit in error are corrected and written back when they are read (R238). -/
def correctWords (s : State) (core : Nat) (ws : List RegWord) : State :=
  if (s.core core).weak.isEmpty then s
  else s.modCore core fun k => { k with weak := k.weak.filter fun x => !ws.contains x }

/-- A word with one bit in error that the instruction reads is corrected and written back (R238). -/
def correctReads (i : Instr) (e : Env) (s : State) : State :=
  if (s.core e.ref.core).weak.isEmpty then s
  else match i.shape with
  | none => s
  | some sh =>
    correctWords s e.ref.core (readWords i e sh)

/-- Does an instruction make ordinary accesses, which take their places in the one order of R162 (R428)? A load or store through
the on-chip map does not (R59), nor does a non-temporal store at its issue (R223). -/
def isOrdinary (i : Instr) (f : Fields) : Bool :=
  match i.major with
  | some m => if [0x37, 0x38, 0x90, 0x91, 0x94, 0x95].contains m then f.opc.toNat % 8 != 4
    else [0x82, 0x83, 0x92, 0x93, 0x96, 0x97, 0x9B, 0x9C, 0xB0, 0xB1, 0xB2, 0xB3, 0xB4, 0xB5, 0xB8, 0xB9, 0xBC, 0xD1, 0xD2, 0xD3,
      0xD4, 0xD5, 0xDC, 0xF4].contains m
  | none => false

/-- The ordinary accesses of the instruction have been made: what the warp's accesses come after, the later ordinary accesses do
too, and the warp's own come after the earlier ones (R162, R428). -/
def Env.ordinary (e : Env) (s : State) : State :=
  (s.flow [.warp e.w.ctxid e.w.tag] .order).flow [.order] (.made e.w.ctxid e.w.tag)
/-- The segment through which an instruction loads, where it is a load (R426). -/
def loadSeg (i : Instr) : Option Nat :=
  match i with
  | .ld f => some (f.opc.toNat % 8)
  | .gath f => some (f.opc.toNat % 8)
  | .sld f => some (f.opc.toNat % 8)
  | .ldfe _ => some 1
  | _ => none

/-- What the monitors see of an instruction that completes (R426): a load's latency, no less than the cycles for which it was
parked, and the time for which a store waited under R166. -/
def Env.measured (e : Env) (i : Instr) (s : State) : State :=
  let core := e.ref.core
  let s := match loadSeg i with
    | some n => s.seesValue (n + 1) core ((s.tower (towerOf core)).clock - (if e.fr.wait.isSome then e.fr.begun else none).getD
        (s.tower (towerOf core)).clock) false
    | none => s
  match (if e.fr.wait.isSome then e.fr.leased else none) with
  | some t => s.seesValue 9 core (s.pkg.gtime - t) true
  | none => s

/-- An instruction that completes: in the one order of ordinary accesses when it makes any, and measured. -/
def Res.completed (e : Env) (i : Instr) (f : Fields) : Res → Res
  | .done s => .done (e.measured i (if isOrdinary i f then e.ordinary s else s))
  | r => r

/-- Does the fragment stand ready to issue, or parked and to be tried again? -/
def Frag.issuable (fr : Frag) : Bool := fr.st == .ready || fr.st == .parked

/-- The prologue and epilogue of every instruction: the environment of the current fragment, the checks, the
gating by Active, the instruction's own effect, and where the fragment goes on. -/
def issue (i : Instr) (f : Fields) (c : Cls) (body : Env → State → Res) (s : State) :
    Host.Outcome State Fault Refusal :=
  match s.warp s.cur.core s.cur.slot with
  | none => .fault .noFragment
  | some w0 =>
    let flow := c == .flow
    let s := if flow then s.modFrag s.cur fun fr => { fr with run := [] } else s
    let w := if flow then w0.modFrag s.cur.entry fun fr => { fr with run := [] } else w0
    let fr := w.frag s.cur.entry
    if fr.issuable then
      let e := mkEnv s.tick s.cur w fr f
      let s := correctReads i e s
      match preCheck i e s with
      | some t => finish e true (.trap s [t])
      | none =>
        if c == .lanes && e.active == 0 then finish e f.sw (.done s)
        else finish e (f.sw || flow) ((body e s).completed e i f)
    else .fault .noFragment

/-- A meaning's precise fault of a cause with the record fields of a cause that R390 does not list. -/
def Env.fail (e : Env) (s : State) (major cause : Nat) : Res :=
  .trap s [{ cause := cause, lanes := e.active, unit := unitOf major }]

/-- Go on unless a write of the listed s registers would need a fifth shadow (R352, R390). -/
def Env.guardS (e : Env) (s : State) (major : Nat) (regs : List Nat) (k : Unit → Res) : Res :=
  match shadowRefused e.w e.fr regs with
  | some n => .trap s [{ cause := 0x0F, aux := BitVec.ofNat 32 n, lanes := e.active, unit := unitOf major }]
  | none => k ()

end Sys2Proof.Machine
end

