-- ==== Sys2Proof/Machine/Coherence.lean ====
section
/-!
DEFINITION. What an access does to the copies of its lines: tokens (spec/07 R150 to R158), logical times and leases
(R159 to R166), the compression attribute (spec/04 R89). The messages of R155 as steps of their own stand in
Tokens.lean; an access made by a lane performs here, at once, the moves that its tokens need.
-/
namespace Sys2Proof.Machine

/-- The line of a byte key (R150). -/
def lineOf (key : Nat) : Nat := key / 128
/-- The lines of `n` bytes from a key. -/
def linesOf (key n : Nat) : List Nat :=
  if n = 0 then [] else (List.range ((key + n - 1) / 128 + 1 - key / 128)).map fun i => key / 128 + i

/-- The key of byte `x` of an outside agent's memory (log 12): the host is agent 64, a peer its identifier. -/
def remoteKey (agent x : Nat) : Nat := 2 ^ 52 * (agent + 1) + x % 2 ^ 52
/-- Does a key lie in an outside agent's memory? -/
def isRemote (key : Nat) : Bool := decide (2 ^ 52 ≤ key)
/-- The number of an outside agent in a leaf's home field (R68). -/
def agentNumber : Agent → Nat
  | .tower _ => 65
  | .host => 64
  | .peer n => n
/-- The agent that a home number names. -/
def agentOf (n : Nat) : Agent := if n = 64 then .host else .peer n

/-- Is an outside agent reachable: the host by its link, a peer through a port that is up (R416, R417)? -/
def Package.reaches (p : Package) : Agent → Bool
  | .tower _ => false
  | .host => p.hostLink
  | .peer n => p.ports.any fun x => x.up && x.peers.contains n

/-- Is an address in HBM4 (R60)? -/
def inHbm (a : Nat) : Bool := decide (a < 2 ^ 39)
/-- Is an address in LPDDR-6 (R60)? -/
def inLpddr (a : Nat) : Bool := decide (2 ^ 41 ≤ a ∧ a < 2 ^ 42)
/-- Is an address in a metadata region (R61): the top 1/512 of a stack or package? -/
def inMetadata (a : Nat) : Bool :=
  if inHbm a then decide (2 ^ 36 - 2 ^ 27 ≤ a % 2 ^ 36) else inLpddr a && decide (2 ^ 37 - 2 ^ 28 ≤ a % 2 ^ 37)
/-- The tower whose base die attaches an address (R60). -/
def homeTower (a : Nat) : Option Nat :=
  if inHbm a then some (a / 2 ^ 36 / 4) else if inLpddr a then some ((a - 2 ^ 41) / 2 ^ 37 / 8) else none
/-- The tower-local channel quad of an HBM4 address (R62). -/
def quadOf (a : Nat) : Nat := (a / 2 ^ 36 % 4) * 8 + (bits a 18 16 ^^^ bits a 21 19)
/-- The slice, 0 to 255, that R151 selects: h[7:6] is its layer and h[5:0] its slice of that layer. -/
def sliceHash (a : Nat) : Nat := bits a 14 7 ^^^ bits a 22 15 ^^^ bits a 30 23
/-- The home slice of an address of the package, numbered over both towers. -/
def sliceOf (a : Nat) : Nat := (homeTower a).getD 0 * 256 + sliceHash a

def State.line (s : State) (ln : Nat) : LineState := spGet {} s.lines ln
def State.setLine (s : State) (ln : Nat) (x : LineState) : State := { s with lines := spSet {} s.lines ln x }
/-- Every line of which the device keeps something changed. -/
def State.mapLines (s : State) (f : Nat → LineState → LineState) : State :=
  s.lines.foldr (fun x s => s.setLine x.1 (f x.1 x.2)) s
def LineState.bank (x : LineState) (t : Nat) : TokenBank := if t = 0 then x.bank0 else x.bank1
def LineState.setBank (x : LineState) (t : Nat) (b : TokenBank) : LineState :=
  if t = 0 then { x with bank0 := b } else { x with bank1 := b }
def LineState.proxy (x : LineState) (t : Nat) : Option Proxy := if t = 0 then x.proxy0 else x.proxy1
def LineState.setProxy (x : LineState) (t : Nat) (p : Option Proxy) : LineState :=
  if t = 0 then { x with proxy0 := p } else { x with proxy1 := p }

/-! ### Tokens -/

/-- The tokens a near cache holds. -/
def TokenBank.held (b : TokenBank) (core : Nat) : Option Holding := b.near.find? fun h => h.core == core
/-- Tokens added to a near cache, with data or without (R155). -/
def TokenBank.give (b : TokenBank) (core tokens : Nat) (owner data : Bool) : TokenBank :=
  match b.held core with
  | none => { b with near := b.near ++ [⟨core, tokens, owner, data⟩] }
  | some _ => { b with near := b.near.map fun h =>
      if h.core = core then { h with tokens := h.tokens + tokens, owner := h.owner || owner, data := h.data || data } else h }
/-- Every message in flight arrives. -/
def TokenBank.deliver (b : TokenBank) : TokenBank :=
  b.msgs.foldl (fun b m => match m.dest with
    | none => { b with home := b.home + m.tokens, homeOwner := b.homeOwner || m.owner }
    | some c => b.give c m.tokens m.owner m.data) { b with msgs := [] }
/-- A message sent; with no tokens there is none. Data travels with the owner token and with a read reply (R155). -/
def TokenBank.send (b : TokenBank) (dest : Option Nat) (tokens : Nat) (owner data : Bool) : TokenBank :=
  if tokens = 0 then b else { b with msgs := b.msgs ++ [⟨dest, tokens, owner, data⟩] }
/-- Everything the home holds, sent to a near cache; it notes to whom it sent the owner token (R155). -/
def TokenBank.homeAll (b : TokenBank) (core : Nat) : TokenBank :=
  { (b.send (some core) b.home b.homeOwner b.homeOwner) with
    home := 0, homeOwner := false, sentTo := if b.homeOwner then some core else b.sentTo }
/-- All tokens of the tower at one near cache (R154, R157). -/
def TokenBank.gather (b : TokenBank) (core : Nat) : TokenBank :=
  { b with home := 0, homeOwner := false, near := [⟨core, 128, true, true⟩], msgs := [], fwd := [],
           sentTo := if b.homeOwner then some core else b.sentTo }
/-- All tokens of the tower at the slice. -/
def TokenBank.recalled (b : TokenBank) : TokenBank :=
  { b with home := 128, homeOwner := true, near := [], msgs := [], sentTo := none, fwd := [] }
/-- Does a near cache hold what an access needs: a token and data for a load, all tokens for a store (R154)? -/
def TokenBank.has (b : TokenBank) (core : Nat) (write : Bool) : Bool :=
  (b.held core).any fun h => h.data && decide ((if write then 128 else 1) ≤ h.tokens)
/-- A near cache obtains what a load needs: a token and data, from the home, or from the near cache that the home last
sent the owner token to (R154, R155); else by a persistent request, which collects all (R156, R157). -/
def TokenBank.forRead (b : TokenBank) (core : Nat) : TokenBank :=
  if b.has core false then b
  else
    let b := b.deliver
    if b.has core false then b
    else if b.homeOwner then
      let x := b.give core 1 (decide (b.home = 1)) true
      { x with home := b.home - 1, homeOwner := decide (b.home ≠ 1), sentTo := if b.home = 1 then some core else b.sentTo }
    else match b.near.find? fun h => b.sentTo == some h.core && h.owner && decide (2 ≤ h.tokens) with
      | some o => TokenBank.give { b with near := b.near.map fun h =>
          if h.core = o.core then { h with tokens := h.tokens - 1 } else h } core 1 false true
      | none => b.gather core

/-- Does a near cache hold what its request needs (R154)? -/
def TokenBank.satisfied (b : TokenBank) (r : LineReq) : Bool := b.has r.core r.write
/-- A near cache has made an access: its own transient request, now satisfied, is over. -/
def TokenBank.obtained (b : TokenBank) (core : Nat) : TokenBank :=
  { b with reqs := b.reqs.filter fun r => !(r.core == core && !r.persistent && b.satisfied r) }
/-- Does a request that the home held and has served stand before a near cache's own, without yet having what it needs
(R283)? -/
def TokenBank.behind (b : TokenBank) (core : Nat) : Bool :=
  (b.reqs.takeWhile fun r => r.core != core).any fun r => r.served && !b.satisfied r

/-! ### Logical time -/

/-- The length of a lease class in a tower's table (R163). -/
def State.leaseLen (s : State) (t cls : Nat) : Nat := (((s.tower t).llen[cls]?).getD 0).toNat
/-- The largest entry of a tower's table (R163, R167). -/
def State.maxLen (s : State) (t : Nat) : Nat := (s.tower t).llen.foldl (fun m x => max m x.toNat) 0

/-- The base of a line's times: that of its home slice (R165). A line homed at an outside agent has none here. -/
def State.base (s : State) (ln : Nat) : Nat := if isRemote (ln * 128) then 0 else spGet 0 s.bases (sliceOf (ln * 128))

/-- A line's write time and read-lease end; times below the slice's base read as the base (R165). -/
def State.times (s : State) (ln : Nat) : Nat × Nat := (max (s.line ln).wts (s.base ln), max (s.line ln).rts (s.base ln))

/-- A home step stores a line's times. A time whose offset would not fit in 24 bits first moves the slice's base to
T − 2^23, which raises every line's times below it to the new base (R165). -/
def State.setTimes (s : State) (ln wts rts : Nat) : State :=
  let top := max wts rts
  let s := if isRemote (ln * 128) ∨ top - s.base ln ≤ 0xFFFFFF then s
    else { s with bases := spSet 0 s.bases (sliceOf (ln * 128)) (top - 2 ^ 23) }
  s.setLine ln { s.line ln with wts := max wts (s.base ln), rts := max rts (s.base ln) }

/-- A tower's logical time jumps forward; it never decreases (R159). -/
def State.raisePts (s : State) (t x : Nat) : State := s.modTower t fun w => { w with pts := max w.pts x }

/-- The latest write time of the lines of a byte range. -/
def State.writtenAt (s : State) (key n : Nat) : Nat := (linesOf key n).foldl (fun m ln => max m (s.times ln).1) 0
/-- The latest write time of any line. -/
def State.latestWrite (s : State) : Nat := s.lines.foldl (fun m x => max m (s.times x.1).1) 0

/-- Is a tower's copy still one that it may use: its lease runs in logical time, and that of an outside home on the global
time base too (R161, R166)? -/
def Proxy.valid (s : State) (t : Nat) (p : Proxy) : Bool :=
  decide ((s.tower t).pts ≤ p.rts) && p.pexp.all fun x => decide (s.pkg.gtime ≤ x)

/-- The home step of a read or renewal, and the copy it leaves (R161). Class 0 keeps none; the copy of an outside agent's
line has a physical expiry (R166). -/
def State.grant (s : State) (t ln cls : Nat) : State :=
  let (wts, rts) := s.times ln
  let r := max rts (max (s.tower t).pts wts + if cls = 0 then 0 else s.leaseLen t cls)
  let copy : Proxy := ⟨wts, r, if isRemote (ln * 128) then some (s.pkg.gtime + s.leaseLen t cls) else none, none⟩
  let s := s.setTimes ln wts r
  s.setLine ln ((s.line ln).setProxy t (if cls = 0 then none else some copy))
/-- A read or renewal at the home (R161). -/
def State.renew (s : State) (t ln cls : Nat) : State := (s.grant t ln cls).raisePts t (s.times ln).1

/-- A read by a tower takes its logical time: a load at the tower's own home, a hit on a valid copy, or a read or renewal
at the home (R161, R162). A load at the tower's own home raises the line's read-lease end to its time, so that a later
store of the other tower takes a later one (R162, log 79). -/
def State.readTime (s : State) (t ln cls : Nat) : State :=
  if homeTower (ln * 128) = some t then
    let (wts, rts) := s.times ln
    let s := s.raisePts t wts
    if rts < (s.tower t).pts then s.setTimes ln wts (s.tower t).pts else s
  else if cls = 0 then s.renew t ln cls
  else match (s.line ln).proxy t with
    | some p => if p.valid s t then s.raisePts t p.wts else s.renew t ln cls
    | none => s.renew t ln cls

/-- Does what a tower reads of a line hold at the tower's present time? -/
def State.timely (s : State) (t ln cls : Nat) : Bool :=
  if homeTower (ln * 128) = some t ∨ cls = 0 then
    decide ((s.times ln).1 ≤ (s.tower t).pts ∧ (s.tower t).pts ≤ (s.times ln).2)
  else ((s.line ln).proxy t).any (Proxy.valid s t)

/-- A store or atomic by a tower: wts ← max(pts, rts + 1), rts ← wts, and the tower's time rises to it (R161, R162);
its own copy of a line homed elsewhere is updated. -/
def State.writeTime (s : State) (t ln : Nat) : State :=
  let w := max (s.tower t).pts ((s.times ln).2 + 1)
  let s := s.setTimes ln w w
  let s := s.setLine ln ((s.line ln).setProxy t (((s.line ln).proxy t).map fun p => { p with wts := w, rts := w, kept := none }))
  s.raisePts t w

/-- The lines of one instruction's stores take one time (R210): the latest that any of them needs. -/
def State.writeTimes (s : State) (t : Nat) (lns : List Nat) : State :=
  lns.foldl (fun s ln => s.writeTime t ln) (s.raisePts t (lns.foldl (fun m ln => max m ((s.times ln).2 + 1)) 0))

/-! ### The bytes of a copy -/

/-- The bytes that a tower reads after its access has taken its time: those its copy has kept, else those of the home. -/
def State.seen (s : State) (t key n : Nat) : List Byte :=
  let kept := fun ln => ((s.line ln).proxy t).bind fun p => p.kept
  if (linesOf key n).all fun ln => (kept ln).isNone then s.bytes key n
  else (List.range n).map fun i => match kept (lineOf (key + i)) with
    | some old => (old[(key + i) % 128]?).getD 0
    | none => s.byte (key + i)

/-- Before the bytes of a line change at its home, a copy that the change does not update keeps those it has (R161), and
so does the line's block in memory (R90). -/
def LineState.retain (x : LineState) (old : List Byte) : LineState :=
  let keep := fun (p : Proxy) => if p.wts = x.wts || p.kept.isSome then p else { p with kept := some old }
  { x with proxy0 := x.proxy0.map keep, proxy1 := x.proxy1.map keep,
           backing := if x.dirty && x.backing.isNone then some old else x.backing }
def State.retain (s : State) (key n : Nat) : State :=
  (linesOf key n).foldl (fun s ln => s.setLine ln ((s.line ln).retain (s.bytes (ln * 128) 128))) s

/-! ### What holds an access back -/

/-- Is an outside lease on a line still live for a writer (R166, R167)? -/
def State.leaseLive (s : State) (ln : Nat) (l : OutLease) : Bool :=
  match (s.agents.find? fun a => a.agent == l.agent).bind fun a => a.lost with
  | some d => decide (s.pkg.gtime ≤ d + s.maxLen ((homeTower (ln * 128)).getD 0) + 2000)
  | none => decide (s.pkg.gtime ≤ l.pexp + 2000)

/-- Must a store, atomic or ownership grant to the line wait (R166)? -/
def State.writeHeld (s : State) (ln : Nat) : Bool :=
  (s.line ln).owner.isSome || (s.line ln).leases.any (s.leaseLive ln)
/-- Must a load of the line wait for the outside agent that owns it to return it (R166)? -/
def State.readHeld (s : State) (ln : Nat) : Bool := (s.line ln).owner.isSome

/-- Does an outside agent own a line of the context descriptor table, which the device must read and so wait for (R166)? -/
def State.tableHeld (s : State) : Bool :=
  !s.lines.isEmpty && s.pkg.cdtbase != 0 && (linesOf s.pkg.cdtbase.toNat 4096).any s.readHeld

/-- The slice of a tower that serves a line: its home slice, or the proxy slice in its place (R151, R152). -/
def reqSlice (tower ln : Nat) : Nat := tower * 256 + sliceHash (ln * 128)
/-- The core whose persistent request for a line is active in a tower: the oldest for the line among the sixteen of the
slice's table (R157). -/
def activeReq (s : State) (tower ln : Nat) : Option Nat :=
  (((s.pers.filter fun p => p.slice == reqSlice tower ln).take 16).find? fun p => p.line == ln).map fun p => p.core

/-! ### Accesses -/

/-- Where an access reaches its line: a core's near cache, or a tower's L2 (R150). -/
inductive Reader where
  | near (core : Nat)
  | l2 (tower : Nat)
  deriving DecidableEq, Repr

def Reader.tower : Reader → Nat
  | .near c => towerOf c
  | .l2 t => t

/-- Must a near cache's access that holds too few tokens wait: while another's persistent request for the line is active, and
behind the requests that the home held for it and serves first (R157, R283)? -/
def State.tokenHeld (s : State) (core : Nat) (store : Bool) (ln : Nat) : Bool :=
  let b := (s.line ln).bank (towerOf core)
  !b.has core store && ((activeReq s (towerOf core) ln).any (· != core) || b.behind core)

/-- Must an access wait: for an outside agent (R166), or for tokens (R157, R283)? -/
def State.lineHeld (s : State) (rd : Reader) (store : Bool) (ln : Nat) : Bool :=
  (if store then s.writeHeld ln else s.readHeld ln) || match rd with
    | .near c => s.tokenHeld c store ln
    | .l2 _ => false

/-- The request of an access that must wait for tokens stands at the home, in the order of arrival (R283). -/
def State.holdLine (s : State) (rd : Reader) (store : Bool) (ln : Nat) : State :=
  match rd with
  | .l2 _ => s
  | .near c =>
    let t := towerOf c
    let b := (s.line ln).bank t
    if !s.tokenHeld c store ln then s
    else
      let held := (activeReq s t ln).isSome
      let reqs := if b.reqs.any fun r => r.core == c then
          b.reqs.map fun r => if r.core = c then { r with write := r.write || store } else r
        else b.reqs ++ [⟨c, store, 0, false, (s.tower t).clock, held, !held⟩]
      s.setLine ln ((s.line ln).setBank t { b with reqs := reqs })

/-- A read of a line: the token of its near cache, and its time (R154, R161). -/
def State.touch (s : State) (rd : Reader) (cls ln : Nat) : State :=
  (match rd with
    | .near c => let x := s.line ln; s.setLine ln (x.setBank (towerOf c) (((x.bank (towerOf c)).forRead c).obtained c))
    | .l2 _ => s).readTime rd.tower ln cls

/-- A copy of a line asked for ahead of use (R226): a token for a near cache, and for a line homed elsewhere a leased copy. It
is no access, and takes no time. -/
def State.prefetch (s : State) (rd : Reader) (cls ln : Nat) : State :=
  let t := rd.tower
  let home := homeTower (ln * 128) = some t
  let s := if home ∨ cls = 0 ∨ ((s.line ln).proxy t).any (Proxy.valid s t) then s else s.grant t ln cls
  match rd with
  | .near c =>
    if home ∨ cls ≠ 0 then s.setLine ln ((s.line ln).setBank t ((((s.line ln).bank t).forRead c).obtained c)) else s
  | .l2 _ => s

/-- The monitors see the failed tries of a near cache's own request before an access (R156, R426). -/
def State.seesTries (s : State) (rd : Reader) (ln : Nat) : State :=
  match rd with
  | .near c =>
    s.seesValue 0x0A c (((((s.line ln).bank (towerOf c)).reqs.find? fun r => r.core == c).map fun r => r.tries).getD 0) true
  | .l2 _ => s

/-- Reads of lines, given with their classes, at one logical time (R210): they are taken again until all hold at the
tower's time. The time rises at most once for each line, so `n` rounds beyond their number are enough. -/
def State.touchAll (s : State) (rd : Reader) (xs : List (Nat × Nat)) : Nat → State
  | 0 => s
  | n + 1 =>
    let s := xs.foldl (fun s x => s.touch rd x.2 x.1) s
    if xs.all fun x => s.timely rd.tower x.1 x.2 then s else s.touchAll rd xs n

/-- The tokens of a tower return to its slice, which sends them on under an active persistent request (R154, R157). -/
def State.recallBank (s : State) (t ln : Nat) : State :=
  let b := ((s.line ln).bank t).recalled
  s.setLine ln ((s.line ln).setBank t (match activeReq s t ln with
    | some c => b.homeAll c
    | none => b))

def State.recallBoth (s : State) (ln : Nat) : State := (s.recallBank 0 ln).recallBank 1 ln

/-- The tokens of a line come to where it is stored from: to a core's near cache, while those of the home's tower, if it is
the other, return to the home; to the L2 those of both towers (R154). -/
def State.claimTokens (s : State) (rd : Reader) (ln : Nat) : State :=
  match rd with
  | .near c =>
    let t := towerOf c
    let s := match homeTower (ln * 128) with
      | some h => if h = t then s else s.recallBank h ln
      | none => s
    s.setLine ln ((s.line ln).setBank t ((((s.line ln).bank t).gather c).obtained c))
  | .l2 _ => s.recallBoth ln

/-- The lines that one instruction stores to, each once. -/
def distinct (lns : List Nat) : List Nat := lns.foldl (fun ls ln => setInsert ln ls) []

/-- Stores or atomics to lines at one logical time: their tokens, and their time (R154, R161, R210). -/
def State.claim (s : State) (rd : Reader) (lns : List Nat) : State :=
  let lns := distinct lns
  (lns.foldl (fun s ln => (s.seesTries rd ln).claimTokens rd ln) s).writeTimes rd.tower lns

/-- A line is about to be stored to: its attribute, unless none is given, and dirty data (R89); leases that a store has
waited for have ended (R166). -/
def State.soil (s : State) (attr : Option Bool) (ln : Nat) : State :=
  let x := s.line ln
  s.setLine ln { x with attr := attr.getD x.attr, dirty := true, leases := [] }

end Sys2Proof.Machine
end

