-- ==== Sys2Proof/Machine/Mem.lean ====
section
/-!
DEFINITION. Memory: physical stores and what they set off, the black box, translation (spec/03), segments, the
on-chip map (spec/02 R57 to R59), and the checks and performance of a lane's access (spec/09 R206 to R210).
-/
namespace Sys2Proof.Machine

/-! ### Tasks entering a context's pool (R373, R377) -/

/-- Tasks a context's pool holds (R373). -/
def poolSize : Nat := 4096

/-- A task enters its context's pool with the next serial number (R373) and the logical time that its accesses follow. -/
def State.pushTask (s : State) (cslot launch : Nat) (work : TaskRec) (segs : List Seg) (time : Nat) : State × Nat :=
  let (s, ord) := s.fresh
  let n := (s.ctx cslot).serial + 1
  (s.modCtx cslot fun x =>
    { x with serial := n, tasks := x.tasks ++ [⟨n, cslot, launch, work, segs, ord, time⟩] }, n)

/-- The watches with that of a context slot and handle changed. -/
def State.modWatch (s : State) (cslot handle : Nat) (f : Watch → Watch) : State :=
  { s with watches := s.watches.map fun x => if x.cslot = cslot ∧ x.handle = handle then f x else x }

/-- A watch's task enters the pool; its accesses come after the matching write (R377). -/
def State.pushFor (s : State) (w : Watch) (time : Nat) : State :=
  let (s, n) := s.pushTask w.cslot w.launch w.work w.segs time
  s.flow [.watch w.cslot w.handle] (.task w.cslot n)

/-- A watch pushes its task for a write of a logical time: into the pool when it has room and no push is held, else as one of at
most 65,535 held pushes of this watch (R377). -/
def State.pushWatch (time : Nat) (s : State) (w : Watch) : State :=
  if (s.ctx w.cslot).tasks.length < poolSize ∧ (s.ctx w.cslot).pushes = [] then
    let s := s.pushFor w time
    if w.rep then s else { s with watches := s.watches.filter fun x => !(x.cslot == w.cslot && x.handle == w.handle) }
  else if w.pend < 65535 then
    (s.modWatch w.cslot w.handle fun x => { x with pend := x.pend + 1, live := x.live && x.rep }).modCtx w.cslot fun x =>
      { x with pushes := x.pushes ++ [(w.handle, time)] }
  else s

/-- Held pushes of a context enter its pool in the order of their matches while it has room (R377). -/
def State.drainPushes (s : State) (cslot : Nat) : Nat → State
  | 0 => s
  | n + 1 =>
    if (s.ctx cslot).tasks.length < poolSize then
      match (s.ctx cslot).pushes with
      | [] => s
      | (h, time) :: rest =>
        let s := s.modCtx cslot fun x => { x with pushes := rest }
        match s.watches.find? fun w => w.cslot == cslot && w.handle == h with
        | none => s.drainPushes cslot n
        | some w =>
          let s := (s.pushFor w time).modWatch cslot h fun x => { x with pend := x.pend - 1 }
          State.drainPushes { s with watches := s.watches.filter fun x => x.live || decide (0 < x.pend) } cslot n
    else s

/-! ### Physical stores -/

/-- Who stores: a lane of a warp, an engine or unit that a program drives, the device itself, the feedback filter, or
the fault queue's own steps. -/
inductive Writer where
  | lane (core slot : Nat)
  | engine
  | device
  | filter
  | queue
  deriving DecidableEq, Repr

/-- Does the comparison of a watch hold of a word (R377)? -/
def Watch.holds (w : Watch) (x : Nat) : Bool :=
  let a := x &&& w.msk.toNat
  let b := w.val.toNat &&& w.msk.toNat
  match w.cmp with
  | 0 => true
  | 1 => a == b
  | 2 => a != b
  | 3 => decide (a < b)
  | _ => decide (b ≤ a)

/-- Does a write of `n` bytes at a key match a watch (R377)? It does when it has changed bytes of a word, since `old`, and
the comparison holds of the word's new value. -/
def State.watchMatch (s old : State) (key n : Nat) (w : Watch) : Bool :=
  w.live && decide (key < w.hi) && decide (w.lo < key + n) &&
    (List.range ((w.hi - w.lo) / 4)).any fun i =>
      let a := w.lo + 4 * i
      decide (a < key + n) && decide (key < a + 4) && s.num a 4 != old.num a 4 && w.holds (s.num a 4)

/-- Do two byte ranges meet? -/
def meets (a n b m : Nat) : Bool := decide (a < b + m) && decide (b < a + n)

/-- What a store sets off beside the bytes: matching watches push (R377), reports leave the feedback filters (R82),
a binding whose cpc becomes 0 ends and one whose tail or open changed is armed (R381), and a changed saved image is
marked (R403). `old` is the state before the store. -/
def State.notify (s old : State) (who : Writer) (key n : Nat) : State :=
  let hit := s.watches.filter (s.watchMatch old key n)
  let src : List Carrier := match who with
    | .lane c k => .order :: ((s.warp c k).map Warp.before).getD []
    | _ => []
  let s := hit.foldl (fun s w => (s.flow src (.watch w.cslot w.handle)).pushWatch (s.writtenAt key n) w) s
  let s := if s.filter.isEmpty || who == .filter then s else
    { s with filter := s.filter.filter fun x => !(linesOf key n).contains x.line1 && !(linesOf key n).contains x.line2 }
  let s := if s.binds.isEmpty then s else
    { s with binds := (s.binds.filter fun b => !(meets key n (b.pa + 16) 8 && s.num (b.pa + 16) 8 == 0)).map fun b =>
        if meets key n (b.pa + 8) 4 || meets key n (b.pa + 36) 4 then { b with armed := true } else b }
  if who == .device || who == .filter || who == .queue || s.images.isEmpty then s else
    { s with images := s.images.map fun x =>
        if meets key n (((s.ctx x.cslot).svbase.toNat) + x.unit * 65536) (x.units * 65536) then
          { x with damaged := true } else x }

/-- A context slot whose descriptor is no longer valid, or names another context, has had its context end: neither the mark
of R84 nor a halt (R406) outlives it. `old` is the state before. -/
def State.dropEnded (s old : State) : State :=
  (List.range 64).foldl (fun s i =>
    if !s.ctxValid i || s.ctxId i != old.ctxId i then s.modCtx i fun x => { x with damaged := false, halted := false } else s) s

/-- A store to frqhead or frqtail of a live context, by any means but FRQACK and the device's posting, leaves that
context's queue undefined (R84); one that ends a context clears its marks. `old` is the state before the store. -/
def State.markQueues (s old : State) (who : Writer) (key n : Nat) : State :=
  if who == .device || who == .filter || who == .queue || old.pkg.cdtbase == 0 ||
      !meets key n old.pkg.cdtbase.toNat 4096 then s
  else State.dropEnded ((List.range 64).foldl (fun s i =>
    if meets key n (old.descAddr i + 12) 8 && old.ctxValid i then s.modCtx i fun x => { x with damaged := true } else s) s) old

/-- Bytes that a lane stores may not yet have reached their line's home as instruction fetch sees it (R408). -/
def State.noteLag (s : State) (who : Writer) (key : Nat) (n : Nat) : State :=
  match who with
  | .lane c w =>
    match s.warp c w with
    | none => s
    | some x => { s with lag := ((linesOf key n).map fun ln =>
        let lo := max key (ln * 128)
        ⟨x.tag, x.ctxid, s.tick, lo, s.bytes lo (min (key + n) (ln * 128 + 128) - lo)⟩) ++ s.lag }
  | _ => s

/-- While some slot is SEALED, what stores replace is kept for the reads of fields (R135). -/
def State.noteSealed (s : State) (key n : Nat) : State :=
  if s.seals.isEmpty then s else { s with sealPast := ⟨s.tick, key, s.bytes key n⟩ :: s.sealPast }

/-- The bytes of a store at its home, and what they set off; the copies of its lines keep what they hold. -/
def State.poke (s : State) (who : Writer) (key : Nat) (data : List Byte) : State :=
  let old := ((s.noteLag who key data.length).noteSealed key data.length).retain key data.length
  State.markQueues ({ old with mem := spWrite 0 old.mem key data }.notify old who key data.length) old who key data.length

/-- The bytes from `key` as they were before a store put `old` aside at `addr`. -/
def undoBytes (key : Nat) (bs : List Byte) (addr : Nat) (old : List Byte) : List Byte :=
  (bs.zip (List.range bs.length)).map fun x =>
    if addr ≤ key + x.2 then (old[key + x.2 - addr]?).getD x.1 else x.1

/-- The bytes of a store to lines that have been claimed. -/
def State.put (s : State) (who : Writer) (attr : Option Bool) (key : Nat) (data : List Byte) : State :=
  ((linesOf key data.length).foldl (fun s ln => s.soil attr ln) s).poke who key data

/-- A physical store by a unit of the device (R89): attribute 0 unless a translation gave one. -/
def State.devStore (s : State) (who : Writer) (t : Nat) (attr : Option Bool) (key : Nat) (data : List Byte) : State :=
  (s.claim (.l2 t) (linesOf key data.length)).put who attr key data
/-- Must a physical store by a unit of the device wait for an outside agent (R166)? -/
def State.storeHeld (s : State) (key n : Nat) : Bool := (linesOf key n).any s.writeHeld

/-! ### The black box (R425) -/

/-- An event record is written whole to the black-box ring, and BBSEQ then increases. Nothing is recorded while the
package is unpowered. -/
def State.bbEvent (s : State) (type src ctxid payload : Nat) : State :=
  if s.pkg.powered then
    let n := s.pkg.bbseq.toNat
    let x := payload % 2 ^ 384 + 2 ^ 384 * (ctxid % 2 ^ 16) + 2 ^ 400 * (src % 256) + 2 ^ 408 * (type % 256) +
      2 ^ 416 * n + 2 ^ 448 * (s.pkg.gtime % 2 ^ 64)
    let s := s.devStore .device 0 (some false) (0x1000 + 64 * (n % 4096)) (leBytes 64 x)
    { s with pkg := { s.pkg with bbseq := s.pkg.bbseq + 1 } }
  else s

/-- A line becomes poisoned, with its event (R169, R425). -/
def State.poisonLine (s : State) (ln agent why : Nat) : State :=
  { s with poison := setInsert ln s.poison }.bbEvent 2 0xFF 0 ((ln * 128) % 2 ^ 52 + 2 ^ 52 * agent + 2 ^ 60 * why)

/-- Is any line of a byte range poisoned? -/
def State.poisoned (s : State) (key n : Nat) : Bool := (linesOf key n).any s.poison.contains

/-! ### Translation (R63 to R74) -/

/-- The kind of an access (R71). -/
inductive Acc where
  | rd
  | wr
  | rw
  | ex
  deriving DecidableEq, Repr

/-- The acc field of a fault record (R389). -/
def Acc.code : Acc → Nat
  | .rd => 1
  | .wr => 2
  | .rw => 3
  | .ex => 4
def Acc.reads : Acc → Bool
  | .rd => true
  | .rw => true
  | _ => false
def Acc.writes : Acc → Bool
  | .wr => true
  | .rw => true
  | _ => false

/-- The lowest virtual-address bit that a level's index takes (R66). -/
def levelShift (l : Nat) : Nat := if l = 4 then 48 else if l = 3 then 39 else if l = 2 then 30 else if l = 1 then 21 else 16
/-- The number of index bits of a level (R66). -/
def levelBits (l : Nat) : Nat := if l = 4 then 8 else if l = 0 then 5 else 9
/-- The size of the page that a leaf at a level maps (R66). -/
def pageSize (l : Nat) : Nat := 2 ^ levelShift l
/-- The alignment of a table of a level (R66, R70). -/
def tableAlign (l : Nat) : Nat := if l = 0 then 256 else 4096

/-- The kind of a leaf (R68). -/
def leafKind (e : Nat) : Nat := bits e 3 2
/-- The page base of a leaf at a level (R68). -/
def leafBase (e l : Nat) : Nat := bits e 51 16 * 65536 / pageSize l * pageSize l

/-- Is a table or leaf entry found at a level malformed (R70)? -/
def malformed (linkid : Nat) (l e : Nat) : Bool :=
  let p := e.testBit 0
  if e.testBit 1 then
    let kind := leafKind e
    let home := bits e 61 55
    let base := bits e 51 16 * 65536
    bits e 63 62 ≠ 0 || bits e 15 8 ≠ 0 || decide (3 ≤ l) ||
      (p && (decide (base % pageSize l ≠ 0) ||
        (if kind = 3 then decide (64 < home) || decide (home = linkid)
         else decide (home ≠ 0) || inMetadata (base + pageSize l - 1) || decide (base < 2 ^ 20) ||
           (if kind = 0 then !inHbm base else if kind = 2 then !inLpddr base else !inHbm base && !inLpddr base))))
  else
    let next := bits e 51 8 * 256
    bits e 63 52 ≠ 0 || bits e 7 2 ≠ 0 || decide (l = 0) ||
      (p && (!(inHbm next || inLpddr next) || decide (next % tableAlign (l - 1) ≠ 0)))

/-- What a walk finds (R66, R71). -/
inductive Walk where
  | leaf (entry level : Nat)
  | absent
  | malformed
  | poisoned
  /-- an entry's line must be waited for (R157, R166) -/
  | held
  deriving DecidableEq, Repr

/-- An entry that the translation caches may hold is remembered (R72). -/
def State.cacheEntry (s : State) (x : TlbEntry) : State :=
  if s.tlb.contains x then s else { s with tlb := s.tlb ++ [x] }

/-- An entry of a table at a level: read in memory as an ordinary load of class 0, or an entry that the caches may still
hold (R72, R74). A poisoned line gives its fault (R170) and a held one its wait, unless a cached entry is used. -/
def walkEntry (s : State) (rd : Reader) (ctxid : BitVec 16) (salt l index addr : Nat) : State × Except Walk Nat :=
  let cached := (s.tlb.filter fun x => x.ctxid == ctxid && x.level == l && x.index == index).map fun x => x.entry.toNat
  let held := s.lineHeld rd false (lineOf addr)
  let others := if held || s.poisoned addr 8 then cached else cached.filter (· != s.num addr 8)
  let n := choose s.tick (salt * 8 + l) (others.length + 1)
  match (if n = 0 then none else others[n - 1]?) with
  | some e => (s, .ok e)
  | none =>
    if held then (s.holdLine rd false (lineOf addr), .error .held)
    else if s.poisoned addr 8 then (s, .error .poisoned)
    else ((s.seesTries rd (lineOf addr)).touch rd 0 (lineOf addr), .ok (s.num addr 8))

/-- The walk of the tables at the listed levels; a present entry may from then on be cached (R72). -/
def walk (s : State) (rd : Reader) (ctxid : BitVec 16) (va salt : Nat) : List Nat → Nat → State × Walk
  | [], _ => (s, .malformed)
  | l :: ls, table =>
    let index := va / 2 ^ levelShift l
    match walkEntry s rd ctxid salt l index (table + 8 * (index % 2 ^ levelBits l)) with
    | (s, .error x) => (s, x)
    | (s, .ok e) =>
      if malformed s.pkg.linkid.toNat l e then (s, .malformed)
      else if e.testBit 1 then
        ((if e.testBit 0 then s.cacheEntry ⟨ctxid, l, index, BitVec.ofNat 64 e⟩ else s), .leaf e l)
      else if e.testBit 0 then
        walk (s.cacheEntry ⟨ctxid, l, index, BitVec.ofNat 64 e⟩) rd ctxid va salt ls (bits e 51 8 * 256)
      else (s, .absent)

/-- The outcome of Translate (R71): the byte's key, whether write-backs compress (none for a remote page), the
leaf's lease class and level; a page not resident; a fault's cause; or a wait of its walk. -/
inductive Tr where
  | ok (key : Nat) (attr : Option Bool) (lclass level : Nat)
  | notResident
  | bad (cause : Nat)
  | held
  deriving DecidableEq, Repr

/-- The root table of a context (R64), whose low 11 bits are 0. With other low bits, or outside HBM4 and LPDDR-6, R64 gives
no meaning: the model's choice (DESIGN CHOICE, log 80) is to take the low bits as 0 and to read the memory that is there. -/
def State.root (s : State) (cslot : Nat) : Nat := s.desc cslot 511 448 / 2048 * 2048

/-- Translate (R71) in the context of a slot, for an access that reaches memory at `rd`. It waits while the descriptor table must
be waited for (R166). -/
def translate (s : State) (rd : Reader) (cslot : Nat) (ctxid : BitVec 16) (salt va : Nat) (acc : Acc) (fb : Bool) :
    State × Tr :=
  if 2 ^ 56 ≤ va then (s, .bad 3)
  else if s.tableHeld then (s, .held)
  else
    match walk s rd ctxid va salt [4, 3, 2, 1, 0] (s.root cslot) with
    | (s, .absent) => (s, .bad 1)
    | (s, .malformed) => (s, .bad 1)
    | (s, .poisoned) => (s, .bad 5)
    | (s, .held) => (s, .held)
    | (s, .leaf e l) =>
      if !e.testBit 0 then (if leafKind e = 1 && fb then (s, .notResident) else (s, .bad 1))
      else if (acc.reads && !e.testBit 4) || (acc.writes && !e.testBit 5) || (acc == .ex && !e.testBit 6) then (s, .bad 2)
      else
        let off := va % pageSize l
        if leafKind e = 3 then
          let home := bits e 61 55
          if s.pkg.reaches (agentOf home) then (s, .ok (remoteKey home (leafBase e l + off)) none (bits e 54 52) l) else (s, .bad 1)
        else (s, .ok (leafBase e l + off) (some (e.testBit 7)) (bits e 54 52) l)

/-! ### Scratchpad (R177 to R182) -/

def State.scrBytes (s : State) (c a n : Nat) : List Byte := spRead 0 (s.core c).scr a n
/-- Bytes of a core's scratchpad replaced; full-empty bits stay (R179). -/
def State.scrPut (s : State) (c a : Nat) (data : List Byte) : State :=
  s.modCore c fun k => { k with scr := spWrite 0 k.scr a data }
/-- The granules of a byte range. -/
def granulesOf (a n : Nat) : List Nat :=
  if n = 0 then [] else (List.range ((a + n - 1) / 16 + 1 - a / 16)).map fun i => a / 16 + i
/-- Granules set full or empty. -/
def Core.mark (k : Core) (full : Bool) (gs : List Nat) : Core :=
  gs.foldl (fun k g => { k with full := if full then setInsert g k.full else setErase g k.full }) k
/-- Granules written by STFE, or by an engine with a command's identity, are orphaned no longer (R181). -/
def Core.written (k : Core) (id : Option Nat) (gs : List Nat) : Core :=
  gs.foldl (fun k g => { k with orphan := setErase g k.orphan, filled := spSet none k.filled g id }) k
/-! ### The on-chip physical map (R57 to R59) -/

/-- The core and window offset that a map offset names, for an access from a core; none past the self window. -/
def mapWindow (core off : Nat) : Option (Nat × Nat) :=
  if off < 2 ^ 32 then some (off / 2 ^ 24, off % 2 ^ 24)
  else if off < 2 ^ 32 + 2 ^ 24 then some (core, off - 2 ^ 32) else none

/-- The regions of a window (R57). -/
inductive MapRegion where
  | scratch
  | vector
  | cells
  | scalar
  | fullBits
  | staging
  | reserved
  deriving DecidableEq, Repr

def mapRegion (o : Nat) : MapRegion :=
  if o < 0x800000 then .scratch
  else if o < 0xA00000 then .vector
  else if o < 0xB00000 then .cells
  else if o < 0xB20000 then .scalar
  else if o < 0xB30000 then .fullBits
  else if o < 0xB34000 then .staging
  else .reserved

/-- The warp slot, lane and register of a byte of the vector region, for the width of the core's warps (R46). -/
def vecWord (s : State) (p o : Nat) : Option (Nat × Nat × Nat) :=
  (s.coreWidth p).bind fun w =>
    let i := (o - 0x800000) / 4
    some (i % 2048 / w, i % 2048 % w, i / 2048)
/-- Does a resident warp hold the register of a byte of the vector region (R237)? -/
def vecHeld (s : State) (p o : Nat) : Bool :=
  match vecWord s p o with
  | none => false
  | some (slot, _, n) => match s.warp p slot with
    | none => false
    | some w => decide (n < 64 + 32 * w.r.xgrant)

/-- Is a core's window gated or draining for map accesses (R58)? -/
def State.mapClosed (s : State) (p : Nat) : Bool :=
  let t := s.tower (towerOf p)
  !s.running p || t.dmask.getLsbD (layerOf p) || (t.changing.any fun x => x.1 == layerOf p)

/-- Is a byte of a window one that no access reaches (R58, R193): reserved, in a register that no resident warp holds
(R237), in the staging window of a slot without a warp, or for a store in the full-empty bits? -/
def mapAbsent (s : State) (p : Nat) (store : Bool) (o : Nat) : Bool :=
  match mapRegion o with
  | .scratch => false
  | .cells => false
  | .vector => !vecHeld s p o
  | .scalar => (s.warp p ((o - 0xB00000) / 1024)).isNone
  | .fullBits => store
  | .staging => (s.warp p ((o - 0xB30000) / 128)).isNone
  | .reserved => true

/-- The first bytes of the 4-byte words that `n` bytes meet. -/
def wordsAt (o n : Nat) : List Nat := (List.range ((o + n - 1) / 4 + 1 - o / 4)).map fun i => (o / 4 + i) * 4

/-- The cause with which an access to the map fails, tested in the order of R58, or none. Of staging windows only what
holds for every access is here (R193): one from +72 on, or a load that runs past the command. An aligned access that runs
from one region of the window into another is in no row of R58: it fails with 0x02 (the model's choice, log 13). -/
def mapCause (s : State) (core off n : Nat) (store : Bool) : Option Nat :=
  if off / 2 ^ 24 ≠ (off + n - 1) / 2 ^ 24 then some 3
  else match mapWindow core off with
  | none => some 2
  | some (p, o) =>
    let r := mapRegion o
    if s.mapClosed p then some 1
    else if (wordsAt o n).any (mapAbsent s p store) then some 2
    else if r = .staging && decide (72 ≤ o % 128 ∨ (!store ∧ 72 < o % 128 + n)) then some 2
    else if r = .vector && (o % 4 ≠ 0 || n % 4 ≠ 0) then some 4
    else if r = .scalar && (o % 8 ≠ 0 || n % 8 ≠ 0) then some 4
    else if (r = .scratch || r = .cells || r = .fullBits) && o % n ≠ 0 then some 4
    else if r ≠ .staging && mapRegion (o + n - 1) ≠ r then some 2
    else none

/-- One byte of a window. -/
def mapByte (s : State) (p o : Nat) : Byte :=
  match mapRegion o with
  | .scratch => spGet 0 (s.core p).scr o
  | .vector => match vecWord s p o with
    | some (slot, L, n) => match s.warp p slot with
      | some w => BitVec.ofNat 8 ((spGet 0 w.r.v (n * 64 + L)).toNat / 256 ^ (o % 4))
      | none => 0
    | none => 0
  | .cells => spGet 0 (s.core p).cells (o - 0xA00000)
  | .scalar => match s.warp p ((o - 0xB00000) / 1024) with
    | some w => BitVec.ofNat 8 ((spGet 0 w.r.s ((o - 0xB00000) / 8 % 128)).toNat / 256 ^ (o % 8))
    | none => 0
  | .fullBits => BitVec.ofNat 8 ((List.range 8).foldl (fun x i =>
      if (s.core p).full.contains ((o - 0xB20000) * 8 + i) then x + 2 ^ i else x) 0)
  | .staging => match s.warp p ((o - 0xB30000) / 128) with
    | some w => if o % 128 < 64 then BitVec.ofNat 8 (((w.stg.cq[o % 128 / 16]?).getD 0).toNat / 256 ^ (o % 16)) else 0
    | none => 0
  | .reserved => 0

/-- `n` bytes of a window. -/
def mapBytes (s : State) (p o n : Nat) : List Byte := (List.range n).map fun i => mapByte s p (o + i)

/-- The code words that a map access reads (R238). -/
def mapWords (o n : Nat) : List RegWord :=
  match mapRegion o with
  | .vector => (List.range ((n + 3) / 4)).filterMap fun i =>
      let x := (o - 0x800000) / 4 + i
      some (.vec (x % 2048) (x / 2048))
  | .scalar => (List.range ((n + 3) / 4)).map fun i =>
      let x := (o - 0xB00000) / 4 + i
      .sca (x / 256) (x / 2 % 128) (x % 2)
  | .cells => (List.range ((n + 3) / 4)).map fun i => let x := (o - 0xA00000) / 4 + i; .cell (x / 128) (x % 128)
  | _ => []
/-- The first word in uncorrectable error that a map access meets (R238). -/
def mapBad (s : State) (p o n : Nat) : Option RegWord :=
  if (s.core p).bad.isEmpty then none else (mapWords o n).find? fun x => (s.core p).bad.contains x

/-! ### Units of the map, and the stores to them (R59, R429) -/

/-- The bytes of the unit in which a window's region is read and written whole (R59). -/
def MapRegion.unit : MapRegion → Nat
  | .vector => 4
  | .scalar => 8
  | _ => 16
/-- The first byte of the unit of a window offset. -/
def unitStart (o : Nat) : Nat := o / (mapRegion o).unit * (mapRegion o).unit
/-- An access cut into its parts in one unit each, with their lengths (R59). -/
def mapUnits (o n : Nat) : List (Nat × Nat) :=
  let u := (mapRegion o).unit
  (List.range ((o + n - 1) / u + 1 - o / u)).map fun i =>
    let lo := max o ((o / u + i) * u)
    (lo, min (o + n) ((o / u + i + 1) * u) - lo)
/-- Bytes replaced from a place on. -/
def spliceAt (i : Nat) (data bs : List Byte) : List Byte := bs.take i ++ data ++ bs.drop (i + data.length)
/-- The bytes of a whole unit. -/
def unitBytes (s : State) (p u : Nat) : List Byte := mapBytes s p u (mapRegion u).unit

/-- A store of bytes at a window offset is kept, unit by unit, with the carriers that are ordered after it. `s` is the state
before the store, `new` the state after. -/
def State.noteStore (s new : State) (known : List Carrier) (p o : Nat) (data : List Byte) : State :=
  if !data.isEmpty then
    { new with past := ((mapUnits o data.length).map fun x =>
        let u := unitStart x.1
        ⟨p, u, unitBytes s p u, x.1 - u, (data.drop (x.1 - o)).take x.2, known⟩).reverse ++ new.past }
  else new

/-- Bytes of a core's scratchpad by an ordinary store (R177, R179). -/
def State.scrWrite (s : State) (c a : Nat) (data : List Byte) : State :=
  s.noteStore (s.scrPut c a data) [.order] c a data

/-- An engine's write to scratchpad: the bytes, and in the same step their granules full, orphaned no longer, and
registered no longer where `id` is their registered producer (R179 to R181). -/
def State.scrEngineWrite (s : State) (id : Option Nat) (known : List Carrier) (c a : Nat) (data : List Byte) : State :=
  let now := s.pkg.gtime
  s.noteStore (s.modCore c fun k =>
    let gs := granulesOf a data.length
    let k := ({ k with scr := spWrite 0 k.scr a data }.mark true gs).written id gs
    gs.foldl (fun k g => if (spGet none k.prod g).isSome && spGet none k.prod g == id then
      { k with prod := spSet none k.prod g none, regEnd := spSet 0 k.regEnd g now } else k) k) known c a data

/-- The bytes of a window replaced, as whole words of its registers or as plain bytes (R59). A scalar register is
written directly and never as a shadow (R353). -/
def mapPut (s : State) (p o : Nat) (data : List Byte) : State :=
  let s := (mapWords o data.length).foldl (fun s x => s.clearBad p x) s
  match mapRegion o with
  | .scratch => s.scrPut p o data
  | .vector => (List.range (data.length / 4)).foldl (fun s i =>
      match vecWord s p (o + 4 * i) with
      | some (slot, L, n) =>
        let x := BitVec.ofNat 32 (leNat ((data.drop (4 * i)).take 4))
        s.modWarp p slot fun w => { w with r := { w.r with v := spSet 0 w.r.v (n * 64 + L) x } }
      | none => s) s
  | .cells => s.modCore p fun k => { k with cells := spWrite 0 k.cells (o - 0xA00000) data }
  | .scalar => (List.range (data.length / 8)).foldl (fun s i =>
      let x := BitVec.ofNat 64 (leNat ((data.drop (8 * i)).take 8))
      let n := (o - 0xB00000) / 8 + i
      s.modWarp p (n / 128) fun w => { w with r := { w.r with s := spSet 0 w.r.s (n % 128) x } }) s
  | _ => s

/-- A store through the map (R59), with the carriers that are ordered after it. -/
def mapWrite (s : State) (known : List Carrier) (p o : Nat) (data : List Byte) : State :=
  s.noteStore (mapPut s p o data) known p o data

/-- The write of an engine through the map: of scratchpad it marks the granules full (R179), as the producer `id`. -/
def mapEngineWrite (s : State) (id : Nat) (p o : Nat) (data : List Byte) : State :=
  match mapRegion o with
  | .scratch => s.scrEngineWrite (some id) [.command id] p o data
  | _ => mapWrite s [.command id] p o data

/-! ### What a map load sees (R59, R429) -/

/-- The stores of a unit that its present bytes come from, the latest first: what was written to it otherwise ends them. -/
def storesTo : List MapPast → List Byte → List MapPast
  | [], _ => []
  | m :: ms, now => if spliceAt m.off m.data m.old = now then m :: storesTo ms m.old else []

/-- The bytes of a unit as a load finds them, from its stores in their order, the first of which has the number `i` (R429): it
sees every store that it is ordered after; any other it misses, sees in its place, or sees among the `last` ones. -/
def seenFrom (t salt : Nat) (after : MapPast → Bool) : Nat → List MapPast → List MapPast → List Byte → List Byte
  | _, [], last, bs => last.foldl (fun bs m => spliceAt m.off m.data bs) bs
  | i, m :: ms, last, bs =>
    if after m then seenFrom t salt after (i + 1) ms last (spliceAt m.off m.data bs)
    else match choose t (salt + i * 2 ^ 40) 3 with
      | 0 => seenFrom t salt after (i + 1) ms last bs
      | 1 => seenFrom t salt after (i + 1) ms last (spliceAt m.off m.data bs)
      | _ => seenFrom t salt after (i + 1) ms (last ++ [m]) bs

/-- Is a warp's access ordered after a store (R428)? The kernel's accesses come after what precedes a system call (R401). -/
def MapPast.precedes (m : MapPast) (s : State) (w : Warp) : Bool :=
  m.known.contains (.warp w.ctxid w.tag) ||
    (s.ctxSup w.cslot && m.known.any fun c => match c with
      | .calls _ => true
      | _ => false)

/-- The bytes that a lane's map load returns, each unit whole (R59, R429). -/
def mapSeen (s : State) (w : Warp) (lane p o n : Nat) : List Byte :=
  if s.past.isEmpty then mapBytes s p o n
  else (mapUnits o n).flatMap fun x =>
    let u := unitStart x.1
    let now := unitBytes s p u
    match (storesTo (s.past.filter fun m => m.core == p && m.unit == u) now).reverse with
    | [] => (now.drop (x.1 - u)).take x.2
    | m :: ms => ((seenFrom s.tick (2 ^ 32 + lane * 2 ^ 26 + x.1) (fun m => m.precedes s w) 0 (m :: ms) [] m.old).drop
        (x.1 - u)).take x.2

/-- The earlier values of units of a core are no longer to be seen: what held them is gone. -/
def State.forget (s : State) (core : Nat) (gone : Nat → Bool) : State :=
  if s.past.isEmpty then s else { s with past := s.past.filter fun m => !(m.core == core && gone m.unit) }

/-- The warp slot whose register a window offset names. -/
def mapSlot (s : State) (p o : Nat) : Option Nat :=
  match mapRegion o with
  | .vector => (vecWord s p o).map fun x => x.1
  | .scalar => some ((o - 0xB00000) / 1024)
  | _ => none

/-! ### A lane's access -/

/-- Where the bytes of an access lie: physical memory, a core's scratchpad, or a window of the on-chip map. -/
inductive Space where
  | phys
  | scr (core : Nat)
  | map (core : Nat)
  deriving DecidableEq, Repr

/-- One part of an access: consecutive bytes of one space, with the attribute a store sets (R89), the lease class
(R75), the address a fault of this part records (R390), and the lane. -/
structure Piece where
  space : Space
  addr  : Nat
  len   : Nat
  attr  : Option Bool := none
  cls   : Nat := 0
  va    : Nat := 0
  lane  : Nat := 0
  deriving DecidableEq, Repr

/-- How an access stands after its checks: its parts, a failure with the address it records, a page not resident (R214),
or a wait of a page walk (R157, R166). -/
inductive LaneOut where
  | ok (ps : List Piece)
  | bad (cause va : Nat)
  | absent (va : Nat)
  | held
  deriving DecidableEq, Repr

/-- The check of R77: cause 0x03 or 0x02. -/
def segCheck (g : Seg) (o size : Nat) (store : Bool) : Option Nat :=
  if !g.v || g.lim.toNat * 256 < o + size then some 3
  else if store && !g.wr then some 2
  else none

/-- The lease class of an access (R75, R209): LCLASS, then the record's, then the segment's, then the leaf's. -/
def leaseClass (w : Warp) (record : Option Nat) (g : Option Seg) (leaf : Nat) : Nat :=
  if w.r.lclass.getLsbD 3 then w.r.lclass.toNat % 8
  else match record with
  | some c => c
  | none => match g with
    | some g => if g.lcov then g.lclass.toNat else leaf
    | none => leaf

/-- The virtual address of a byte of private memory (R79). -/
def prvAddr (base : Nat) (width L o : Nat) : Nat := base + o / 4 * width * 4 + L * 4 + o % 4

/-- The parts of a virtual range split where it crosses 64 KiB pages, or at every 4 bytes of private memory. -/
def splitPages (va n : Nat) : List (Nat × Nat) :=
  if n = 0 then []
  else
    let first := 65536 - va % 65536
    if n ≤ first then [(va, n)]
    else (va, first) :: ((List.range ((n - first + 65535) / 65536)).map fun i =>
      (va + first + i * 65536, min 65536 (n - first - i * 65536)))

/-- Translation of the parts of an access, in order; the first failure decides (R208 step 4), and so does the first part whose
page is not resident: later parts are not translated (DESIGN CHOICE, log 104). -/
def translateParts (s : State) (rd : Reader) (w : Warp) (salt : Nat) (acc : Acc) (fb : Bool) (record : Option Nat)
    (g : Option Seg) : List (Nat × Nat) → State × LaneOut
  | [] => (s, .ok [])
  | (va, n) :: rest =>
    match translate s rd w.cslot w.ctxid salt va acc fb with
    | (s, .bad c) => (s, .bad c va)
    | (s, .notResident) => (s, .absent va)
    | (s, .held) => (s, .held)
    | (s, .ok key attr lcl _) =>
      match translateParts s rd w salt acc fb record g rest with
      | (s, .ok ps) => (s, .ok (⟨.phys, key, n, attr, leaseClass w record g lcl, va, salt⟩ :: ps))
      | r => r

/-- The checks of one lane's access of `size` bytes at offset `o` of segment `n`, R208 steps 1 to 4 in order. -/
def laneAccess (s : State) (e : Env) (n o L size : Nat) (acc : Acc) (fb : Bool) : State × LaneOut :=
  let g := e.seg n
  let va := if n = 2 then prvAddr g.base.toNat e.w.width L o else if n = 1 ∨ n = 4 then o else g.base.toNat + o
  match segCheck g o size acc.writes with
  | some c => (s, .bad c va)
  | none =>
    if n = 4 then
      if acc = .rw then (s, .bad 2 va)
      else match mapCause s e.ref.core (g.base.toNat + o) size acc.writes with
      | some c => (s, .bad c va)
      | none => (s, .ok [⟨.map e.ref.core, g.base.toNat + o, size, none, 0, va, L⟩])
    else if n = 3 ∧ acc.writes then (s, .bad 2 va)
    else if o % (if n = 2 ∧ 4 < size then 4 else size) ≠ 0 then (s, .bad 4 va)
    else if n = 1 then
      if 2 ^ 23 < g.base.toNat + o + size then (s, .bad 3 va)
      else (s, .ok [⟨.scr e.ref.core, g.base.toNat + o, size, none, 0, va, L⟩])
    else if n = 2 then
      if e.w.r.hwm.toNat < o + size then (s, .bad 6 va)
      else translateParts s (.near e.ref.core) e.w L acc fb none (some g)
        ((List.range ((size + 3) / 4)).map fun i => (prvAddr g.base.toNat e.w.width L (o + 4 * i), min 4 size))
    else translateParts s (.near e.ref.core) e.w L acc fb none (some g) (splitPages va size)

/-- The checks of every listed lane, one after another; step 5 is made apart. -/
def accessLanes (s : State) (e : Env) (n size : Nat) (acc : Acc) (fb : Bool) :
    List (Nat × Nat) → State × List (Nat × LaneOut)
  | [] => (s, [])
  | (L, o) :: rest =>
    let (s, x) := laneAccess s e n o L size acc fb
    let (s, xs) := accessLanes s e n size acc fb rest
    (s, (L, x) :: xs)

/-- Poison (R208 step 5, R170) and an uncorrectable register word behind the map (R238). -/
def pieceFault (s : State) (acc : Acc) (p : Piece) : Option (Nat × Nat) :=
  match p.space with
  | .phys => if s.poisoned p.addr p.len then some (5, p.va) else none
  | .scr _ => none
  | .map c => match mapWindow c p.addr with
    | some (q, o) => if acc.reads then (mapBad s q o p.len).map fun x => (0x15, wordOffset q x) else none
    | none => none

/-- An access with step 5 of its checks made. -/
def withPoison (s : State) (acc : Acc) (x : LaneOut) : LaneOut :=
  match x with
  | .ok ps => match ps.findSome? (pieceFault s acc) with
    | some (c, va) => .bad c va
    | none => x
  | _ => x

/-- The trap of a failing access (R208, R390): the address and cause of the lowest failing lane and every lane that
met the same cause. `dest` is the segment register, 15 for none. -/
def accessTrap (major seg size : Nat) (acc : Acc) (outs : List (Nat × LaneOut)) : Option Trap :=
  let bad := outs.filterMap fun x => match x.2 with
    | .bad c va => some (x.1, c, va)
    | _ => none
  match bad with
  | [] => none
  | (_, c, va) :: _ =>
    some { cause := c, va := BitVec.ofNat 64 va, acc := acc.code, unit := unitOf major,
           aux := if c = 0x15 then 0 else BitVec.ofNat 32 (seg + 256 * size),
           lanes := maskOf ((bad.filter fun x => x.2.1 == c).map fun x => x.1) }

/-- The lines of an access's parts, with the lease class of each (R75). -/
def Piece.lines (p : Piece) : List (Nat × Nat) :=
  match p.space with
  | .phys => (linesOf p.addr p.len).map fun ln => (ln, p.cls)
  | _ => []
def pieceLines (ps : List Piece) : List Nat := ps.flatMap fun p => p.lines.map fun x => x.1

/-- Must an access wait (R157, R166)? -/
def Piece.held (s : State) (rd : Reader) (store : Bool) (p : Piece) : Bool := p.lines.any fun x => s.lineHeld rd store x.1

/-- The requests of an access that must wait (R283). -/
def holdPieces (s : State) (rd : Reader) (store : Bool) (ps : List Piece) : State :=
  (pieceLines ps).foldl (fun s ln => s.holdLine rd store ln) s
/-- The fragment parks until the lines of its access need be waited for no longer (R157, R166, R283). -/
def parkLines (s : State) (rd : Reader) (store : Bool) (ps : List Piece) : Res :=
  .park (holdPieces s rd store ps) (if store && (pieceLines ps).any s.writeHeld then .leased else .other 166)

/-- A byte of a pending part. -/
def PendPart.byteAt (p : PendPart) (key : Nat) : Option Byte := if p.addr ≤ key then p.data[key - p.addr]? else none

/-- The value of a byte that the warp's own pending non-temporal stores hold, the latest first (R223). -/
def pendingByte (w : Warp) (key : Nat) : Option Byte :=
  w.stnt.reverse.findSome? fun st => st.findSome? fun p => p.byteAt key

/-- The bytes of one part as a lane of the warp reads them at a tower, once its access has taken its time. -/
def pieceBytes (s : State) (t : Nat) (w : Warp) (p : Piece) : List Byte :=
  match p.space with
  | .phys =>
    let bs := s.seen t p.addr p.len
    if w.stnt.isEmpty then bs
    else (bs.zip (List.range p.len)).map fun x => (pendingByte w (p.addr + x.2)).getD x.1
  | .scr c => s.scrBytes c p.addr p.len
  | .map c => match mapWindow c p.addr with
    | some (q, o) => mapSeen s w p.lane q o p.len
    | none => []

/-- The bytes of an access, its parts in order. -/
def loadBytes (s : State) (t : Nat) (w : Warp) (ps : List Piece) : List Byte := ps.flatMap (pieceBytes s t w)

/-- The bytes of parts as the warp's access finds them at their home, for a step that reads and then stores them. -/
def homeBytes (s : State) (w : Warp) (ps : List Piece) : List Byte :=
  ps.flatMap fun p => (List.range p.len).map fun i => (pendingByte w (p.addr + i)).getD (s.byte (p.addr + i))

/-- The accesses of all loads of an instruction, at one logical time (R154, R161, R210). -/
def touchLoads (s : State) (rd : Reader) (ps : List Piece) : State :=
  let xs := ps.flatMap Piece.lines
  let s := (distinct (xs.map fun x => x.1)).foldl (fun s ln => s.seesTries rd ln) s
  ps.foldl correctPiece (s.touchAll rd xs (xs.length + 1))
where
  /-- A map load corrects the words with one bit in error that it reads (R238). -/
  correctPiece (s : State) (p : Piece) : State :=
    match p.space with
    | .map c => match mapWindow c p.addr with
      | some (q, o) => correctWords s q (mapWords o p.len)
      | none => s
    | _ => s

/-! ### Non-temporal stores (R223, R224) -/

/-- Do the bytes of a pending store meet a range? -/
def pendMeets (st : List PendPart) (key n : Nat) : Bool := st.any fun p => meets p.addr p.data.length key n
/-- Do two pending stores share a byte? -/
def pendOverlap (x y : List PendPart) : Bool := y.any fun p => pendMeets x p.addr p.data.length

/-- One pending store is performed; one whose line is poisoned is discarded and its address latched, the lowest
remaining (R224). -/
def performPend (s : State) (core slot : Nat) (st : List PendPart) : State :=
  match st.find? fun p => s.poisoned p.addr p.data.length with
  | some p => s.modWarp core slot fun w =>
      { w with latch := some (match w.latch with
          | some a => if a ≤ p.va then a else p.va
          | none => p.va) }
  | none => st.foldl (fun s p => s.put (.lane core slot) p.attr p.addr p.data)
      (s.claim (.near core) (st.flatMap fun p => linesOf p.addr p.data.length))

/-- Of the pending stores, latest first, those that must be performed before a store to a range: those that meet it,
and earlier ones that meet these. The kept ones come second. -/
def pendNeeded (key n : Nat) : List (List PendPart) → List (List PendPart) → List (List PendPart) × List (List PendPart)
  | [], _ => ([], [])
  | st :: rest, need =>
    if pendMeets st key n || need.any (pendOverlap st) then
      let (a, b) := pendNeeded key n rest (st :: need)
      (st :: a, b)
    else
      let (a, b) := pendNeeded key n rest need
      (a, st :: b)

/-- Pending stores of the warp to bytes that it is about to store are performed first, in program order (R223). -/
def settlePending (s : State) (core slot key n : Nat) : State :=
  match s.warp core slot with
  | none => s
  | some w =>
    if w.stnt.isEmpty then s
    else
      let (run, keep) := pendNeeded key n w.stnt.reverse []
      (run.reverse.foldl (fun s st => performPend s core slot st) s).modWarp core slot fun w => { w with stnt := keep.reverse }

/-- The lines of a pending store. -/
def pendLines (st : List PendPart) : List Nat := st.flatMap fun p => linesOf p.addr p.data.length
/-- Must a pending store wait (R157, R166)? -/
def pendHeld (s : State) (core : Nat) (st : List PendPart) : Bool := (pendLines st).any (s.lineHeld (.near core) true)
/-- Must a pending store wait that is to be performed before a store to a range (R223)? -/
def settleHeld (s : State) (core slot key n : Nat) : Bool :=
  match s.warp core slot with
  | none => false
  | some w => !w.stnt.isEmpty && (pendNeeded key n w.stnt.reverse []).1.any (pendHeld s core)
/-- Must a store of a warp wait, for its own lines or for those of its pending stores to the same bytes? -/
def Piece.storeHeld (s : State) (rd : Reader) (core slot : Nat) (p : Piece) : Bool :=
  p.held s rd true || (p.space == .phys && settleHeld s core slot p.addr p.len)
/-- The requests of a warp's pending stores that must wait (R283). -/
def holdPends (s : State) (core slot : Nat) : State :=
  match s.warp core slot with
  | none => s
  | some w => (w.stnt.flatMap pendLines).foldl (fun s ln => s.holdLine (.near core) true ln) s
/-- The issuing fragment parks until its warp's pending stores can be performed. -/
def Env.parkPends (e : Env) (s : State) : Res :=
  .park (holdPends s e.ref.core e.ref.slot)
    (if e.w.stnt.any fun st => (pendLines st).any s.writeHeld then .leased else .other 166)

/-- A drain: every pending store of the warp is performed in order (R223); none while a line is held (R166). -/
def drainStores (s : State) (core slot : Nat) : Option State :=
  match s.warp core slot with
  | none => some s
  | some w =>
    if w.stnt.any (pendHeld s core) then none
    else some ((w.stnt.foldl (fun s st => performPend s core slot st) s).modWarp core slot fun w => { w with stnt := [] })

/-- The stores of one instruction are about to be performed from where `rd` reaches their lines: the warp's pending stores
to their bytes come first (R223), and their lines are claimed at one logical time (R154, R210). -/
def claimStoresAt (s : State) (rd : Reader) (core slot : Nat) (ps : List Piece) : State :=
  (ps.foldl (fun s p => match p.space with
    | .phys => settlePending s core slot p.addr p.len
    | _ => s) s).claim rd (pieceLines ps)
/-- The same from the core's near cache. -/
def claimStores (s : State) (core slot : Nat) (ps : List Piece) : State := claimStoresAt s (.near core) core slot ps

/-- The bytes of one part stored by a lane of a warp, its lines claimed. A store to the on-chip map is pending until it is
performed at its target, unit by unit (R59). -/
def storePiece (s : State) (core slot : Nat) (p : Piece) (data : List Byte) : State :=
  match p.space with
  | .phys => s.put (.lane core slot) p.attr p.addr data
  | .scr c => s.scrWrite c p.addr data
  | .map c => match mapWindow c p.addr with
    | some (q, o) =>
      let new := (mapUnits o p.len).map fun x => (⟨q * 2 ^ 24 + x.1, (data.drop (x.1 - o)).take x.2⟩ : MapStore)
      s.modWarp core slot fun w => { w with maps := w.maps ++ new }
    | none => s

/-- The bytes of an access stored, its parts in order, their lines claimed. -/
def storeBytes (s : State) (core slot : Nat) : List Piece → List Byte → State
  | [], _ => s
  | p :: ps, data => storeBytes (storePiece s core slot p (data.take p.len)) core slot ps (data.drop p.len)

/-- A warp's pending map store is performed at its target; one whose target no longer takes it is lost (R58, R59, R237). The
warp's later accesses come after it once its FENCE.eng is done. -/
def performMap (s : State) (core : Nat) (w : Warp) (m : MapStore) : State :=
  match mapWindow core m.offset with
  | some (p, o) =>
    if (mapCause s core m.offset m.data.length true).isNone then mapWrite s [.maps w.ctxid w.tag] p o m.data else s
  | none => s

/-- Every pending map store of a warp is performed (R225). -/
def performMaps (s : State) (core slot : Nat) : State :=
  match s.warp core slot with
  | none => s
  | some w => (w.maps.foldl (fun s m => performMap s core w m) s).modWarp core slot fun w => { w with maps := [] }

/-- What a warp has stored and is not yet performed comes before what it starts: its non-temporal stores, which a discard leaves
to its next drain instruction, and its map stores (R202, R293, R336); none while a line is held (R166). -/
def settleStores (s : State) (core slot : Nat) : Option State := (drainStores s core slot).map fun s => performMaps s core slot

/-! ### Drains (R223, R224) -/

/-- A drain instruction: the pending stores are performed, then a set discard latch is a fault that clears it. -/
def withDrain (e : Env) (s : State) (major : Nat) (k : State → Res) : Res :=
  match drainStores s e.ref.core e.ref.slot with
  | none => e.parkPends s
  | some s =>
    match (s.warp e.ref.core e.ref.slot).bind fun w => w.latch with
    | some a =>
      .trap (s.modWarp e.ref.core e.ref.slot fun w => { w with latch := none })
        [{ cause := 5, va := a, acc := 2, aux := 15, lanes := e.active, unit := unitOf major }]
    | none => k s

end Sys2Proof.Machine
end

