-- ==== Sys2Proof/Machine/Flags.lean ====
section
/-!
DEFINITION. The sticky flags (spec/05 R120, R121) as bits of a number: what each rounding and instruction raises is an
OR of these.
-/
namespace Sys2Proof.Machine

/-- invalid, FLAGS[0]. -/
def flInv : Nat := 1
/-- divide-by-zero, FLAGS[1]. -/
def flDz : Nat := 2
/-- overflow, FLAGS[2]. -/
def flOvf : Nat := 4
/-- underflow, FLAGS[3]. -/
def flUnf : Nat := 8
/-- inexact, FLAGS[4]. -/
def flInx : Nat := 16

/-- A flag raised when a condition holds. -/
def flagIf (b : Bool) (fl : Nat) : Nat := if b then fl else 0

/-- The OR of the flags of several lanes (R121). -/
def orFlags (xs : List Nat) : Nat := xs.foldl (· ||| ·) 0

/-- The FLAGS register as SPUT writes it (R120): bits [5:0] and [13:8] are kept. -/
def flagsMask (x : W64) : BitVec 14 := BitVec.ofNat 14 (x.toNat % 2 ^ 14 &&& 0x3F3F)

/-- FLAGS as an instruction reads it: a bit raised earlier in the same run may or may not show (R122). -/
def Env.flags (e : Env) : BitVec 14 :=
  match spGet [] e.fr.run (keySys 11 0) with
  | [] => e.w.r.flags
  | vs => (List.range 14).foldl (fun x i =>
      let cands := vs ++ [e.w.r.flags.setWidth 32]
      if ((cands[choose e.t (3000 + i) cands.length]?).getD 0).getLsbD i then x ||| BitVec.ofNat 14 (2 ^ i) else x) 0

end Sys2Proof.Machine
end

