-- ==== Sys2Proof/Machine/Num.lean ====
section
/-!
DEFINITION. Numbers (spec/05): the floating-point and block formats, exact values, exact sums and products, and the
one rounding function RoundTo, with the flags each raises.
-/
namespace Sys2Proof.Machine

/-! ### Formats (R106) -/

/-- A floating-point format: the widths of its exponent and fraction, its bias, its largest finite encoding, its
canonical NaN, and whether it has infinities (R106, R108). -/
structure Fmt where
  eb    : Nat
  fb    : Nat
  bias  : Nat
  maxb  : Nat
  cnan  : Nat
  inf   : Bool := true
  deriving DecidableEq, Repr

def fmtF16 : Fmt := ⟨5, 10, 15, 0x7BFF, 0x7E00, true⟩
def fmtBf16 : Fmt := ⟨8, 7, 127, 0x7F7F, 0x7FC0, true⟩
def fmtF32 : Fmt := ⟨8, 23, 127, 0x7F7FFFFF, 0x7FC00000, true⟩
def fmtF64 : Fmt := ⟨11, 52, 1023, 0x7FEFFFFFFFFFFFFF, 0x7FF8000000000000, true⟩
def fmtE4m3 : Fmt := ⟨4, 3, 7, 0x7E, 0x7F, false⟩
def fmtE5m2 : Fmt := ⟨5, 2, 15, 0x7B, 0x7E, true⟩

/-- The format of a type code 5 to 10 (R17). -/
def fmtOf (t : Nat) : Fmt :=
  match t with
  | 5 => fmtF32
  | 6 => fmtF64
  | 7 => fmtF16
  | 8 => fmtBf16
  | 9 => fmtE4m3
  | _ => fmtE5m2

/-- The sign bit of a format, as a number. -/
def Fmt.signBit (m : Fmt) : Nat := 2 ^ (m.eb + m.fb)
/-- The encoding of an infinity's magnitude. -/
def Fmt.infBits (m : Fmt) : Nat := (2 ^ m.eb - 1) * 2 ^ m.fb
/-- An encoding with a sign. -/
def Fmt.withSign (m : Fmt) (neg : Bool) (x : Nat) : Nat := if neg then m.signBit + x else x

/-! ### Exact values (R107) -/

/-- An exact value: a NaN (with `inv` when invalid is raised for it), an infinity, or the magnitude n / d with a
sign; zero keeps its sign. -/
inductive Val where
  | nan (inv : Bool)
  | inf (neg : Bool)
  | fin (neg : Bool) (n d : Nat)
  deriving DecidableEq, Repr

/-- m × 2^e as a value. -/
def Val.dyadic (neg : Bool) (m : Nat) (e : Int) : Val :=
  if 0 ≤ e then .fin neg (m * 2 ^ e.toNat) 1 else .fin neg m (2 ^ (-e).toNat)

/-- DecodeValue of a floating-point format (R107). -/
def decodeVal (m : Fmt) (raw : Nat) : Val :=
  let neg := raw.testBit (m.eb + m.fb)
  let e := raw / 2 ^ m.fb % 2 ^ m.eb
  let f := raw % 2 ^ m.fb
  if !m.inf && raw % m.signBit == 0x7F then .nan false
  else if m.inf && e == 2 ^ m.eb - 1 then (if f = 0 then .inf neg else .nan (!f.testBit (m.fb - 1)))
  else if e = 0 then .dyadic neg f (1 - (m.bias : Int) - m.fb)
  else .dyadic neg (2 ^ m.fb + f) ((e : Int) - m.bias - m.fb)

/-- An exact integer as a value. -/
def Val.ofInt (x : Int) : Val := .fin (decide (x < 0)) x.natAbs 1

/-- The value of element `i` of a block with `mb` magnitude bits, payload `p` and header (E, shift byte) (R113). -/
def blockVal (mb i p e shifts : Nat) : Val :=
  if e = 255 then .nan false
  else
    let q := i % 16 / 4
    let delta := bits shifts (2 * q + 1) (2 * q)
    .dyadic (p.testBit mb) (p % 2 ^ mb) ((e : Int) - 127 - delta - ((mb : Int) - 1))

def Val.neg : Val → Val
  | .nan i => .nan i
  | .inf s => .inf (!s)
  | .fin s n d => .fin (!s) n d

/-- An exact product (R118, R263): infinity × 0 is a NaN that raises invalid. R99 and R100 name no flag for an infinity
scaled by 0 in ConvertIn, nor for one divided by an infinite scale in ConvertOut: there too the model raises invalid
(DESIGN CHOICE, log 90). -/
def Val.mul : Val → Val → Val
  | .nan i, .nan j => .nan (i || j)
  | .nan i, _ => .nan i
  | _, .nan j => .nan j
  | .inf s, .inf t => .inf (s != t)
  | .inf s, .fin t n _ => if n = 0 then .nan true else .inf (s != t)
  | .fin s n _, .inf t => if n = 0 then .nan true else .inf (s != t)
  | .fin s n d, .fin t m e => .fin (s != t) (n * m) (d * e)

/-- An exact sum (R118, R263). A zero sum is +0, or −0 when `rdn`, except that two zeros of one sign keep it. -/
def Val.add (rdn : Bool) : Val → Val → Val
  | .nan i, .nan j => .nan (i || j)
  | .nan i, _ => .nan i
  | _, .nan j => .nan j
  | .inf s, .inf t => if s = t then .inf s else .nan true
  | .inf s, _ => .inf s
  | _, .inf t => .inf t
  | .fin s n d, .fin t m e =>
    if n = 0 ∧ m = 0 then .fin (if s = t then s else rdn) 0 1
    else
      let l := Nat.lcm d e
      let a := n * (l / d)
      let b := m * (l / e)
      if s = t then .fin s (a + b) l
      else if a = b then .fin rdn 0 1
      else if b < a then .fin s (a - b) l
      else .fin t (b - a) l

/-- Is a value less than another? NaNs compare as never; −0 and +0 are equal. -/
def Val.lt : Val → Val → Bool
  | .nan _, _ => false
  | _, .nan _ => false
  | .inf s, .inf t => s && !t
  | .inf s, .fin _ _ _ => s
  | .fin _ _ _, .inf t => !t
  | .fin s n d, .fin t m e =>
    let a : Int := if s then -(n * e : Nat) else (n * e : Nat)
    let b : Int := if t then -(m * d : Nat) else (m * d : Nat)
    decide (a < b)

def Val.isNan : Val → Bool
  | .nan _ => true
  | _ => false
/-- Is it a signalling NaN? -/
def Val.isSig : Val → Bool
  | .nan i => i
  | _ => false
/-- Are two values equal? NaNs never are. -/
def Val.eq (x y : Val) : Bool := !x.isNan && !y.isNan && !x.lt y && !y.lt x

/-! ### Rounding (R116) -/

/-- floor(log2 (n / d)) of a positive fraction. -/
def flog2 (n d : Nat) : Int :=
  let k : Int := (Nat.log2 n : Int) - Nat.log2 d
  if (if 0 ≤ k then d * 2 ^ k.toNat ≤ n else d ≤ n * 2 ^ (-k).toNat) then k else k - 1

/-- n / d in units of 2^q, as a fraction. -/
def inUnits (n d : Nat) (q : Int) : Nat × Nat := if 0 ≤ q then (n, d * 2 ^ q.toNat) else (n * 2 ^ (-q).toNat, d)

/-- n / d rounded to an integer under a mode code of R19, and whether it was exact. -/
def roundNat (mode : Nat) (neg : Bool) (n d : Nat) : Nat × Bool :=
  let m := n / d
  let r := n % d
  let up := match mode with
    | 0 => decide (d < 2 * r) || (2 * r == d && m % 2 == 1)
    | 1 => false
    | 2 => !neg && r != 0
    | 3 => neg && r != 0
    | _ => decide (d ≤ 2 * r)
  (if up then m + 1 else m, r == 0)

/-- Overflow of R117: the encoding of the result. -/
def overflowBits (m : Fmt) (mode : Nat) (neg sat : Bool) : Nat :=
  let big := m.withSign neg m.maxb
  let inf := if m.inf then m.withSign neg m.infBits else m.cnan
  if sat && m.fb ≤ 3 then big
  else match mode with
    | 1 => big
    | 2 => if neg then big else inf
    | 3 => if neg then inf else big
    | _ => inf

/-- RoundTo into a floating-point format (R116): the encoding and the flags. -/
def roundTo (m : Fmt) (mode : Nat) (sat : Bool) : Val → Nat × Nat
  | .nan i => (m.cnan, flagIf i flInv)
  | .inf neg =>
    if sat && m.fb ≤ 3 then (m.withSign neg m.maxb, flOvf + flInx)
    else if m.inf then (m.withSign neg m.infBits, 0)
    else (m.cnan, flInv)
  | .fin neg n d =>
    if n = 0 then (m.withSign neg 0, 0)
    else
      let q := max (flog2 n d) (1 - (m.bias : Int)) - m.fb
      let (a, b) := inUnits n d q
      let (y, exact) := roundNat mode neg a b
      let x := (q + m.fb + m.bias - 1).toNat * 2 ^ m.fb + y
      if m.maxb < x then (overflowBits m mode neg sat, flOvf + flInx)
      else (m.withSign neg x, flagIf (!exact) (flInx + flagIf (decide (x < 2 ^ m.fb)) flUnf))

/-- RoundTo into an integer type of `w` bits (R116, R111): the value and the flags. -/
def roundToInt (w : Nat) (signed : Bool) (mode : Nat) (x : Val) : Int × Nat :=
  let lo : Int := if signed then -(2 ^ (w - 1) : Nat) else 0
  let hi : Int := if signed then (2 ^ (w - 1) : Nat) - 1 else (2 ^ w : Nat) - 1
  match x with
  | .nan _ => (0, flInv)
  | .inf neg => (if neg then lo else hi, flInv)
  | .fin neg n d =>
    let (y, exact) := roundNat mode neg n d
    let y : Int := if neg then -(y : Int) else y
    if y < lo then (lo, flInv) else if hi < y then (hi, flInv) else (y, flagIf (!exact) flInx)

/-! ### Conversions of encodings -/

/-- The exact widening of a binary32 encoding to binary64 (R14): a NaN keeps its sign, quiet bit and fraction. -/
def widenF32 (x : Nat) : Nat :=
  let neg := x.testBit 31
  let f := x % 2 ^ 23
  if x / 2 ^ 23 % 256 = 255 then fmtF64.withSign neg (fmtF64.infBits + f * 2 ^ 29)
  else (roundTo fmtF64 0 false (decodeVal fmtF32 x)).1

/-- A conversion between formats (R119). -/
def convert (src dst : Fmt) (mode : Nat) (sat : Bool) (raw : Nat) : Nat × Nat := roundTo dst mode sat (decodeVal src raw)

/-- √ of a positive fraction with enough bits to round correctly (R270). The denominator is a power of two. -/
def isqrtFrom (x : Nat) : Nat → Nat → Nat
  | 0, r => r
  | i + 1, r => isqrtFrom x i (if (r + 2 ^ i) * (r + 2 ^ i) ≤ x then r + 2 ^ i else r)
/-- The integer square root. -/
def isqrt (x : Nat) : Nat := isqrtFrom x (Nat.log2 x / 2 + 1) 0
def sqrtVal (n d : Nat) : Val :=
  let x := n * d * 2 ^ 128
  let r := isqrt x
  if r * r = x then .fin false r (d * 2 ^ 64) else .fin false (2 * r + 1) (2 * d * 2 ^ 64)

/-! ### Signed fractions -/

/-- A signed fraction; `den` is positive. -/
structure Frac where
  num : Int
  den : Nat
  deriving DecidableEq, Repr

def Frac.ofNat (n : Nat) : Frac := ⟨n, 1⟩
def Frac.add (x y : Frac) : Frac := ⟨x.num * y.den + y.num * x.den, x.den * y.den⟩
def Frac.neg (x : Frac) : Frac := ⟨-x.num, x.den⟩
def Frac.sub (x y : Frac) : Frac := x.add y.neg
def Frac.mul (x y : Frac) : Frac := ⟨x.num * y.num, x.den * y.den⟩
/-- x / y for y ≠ 0. -/
def Frac.div (x y : Frac) : Frac :=
  if y.num < 0 then ⟨-(x.num * y.den), x.den * y.num.natAbs⟩ else ⟨x.num * y.den, x.den * y.num.natAbs⟩
def Frac.lt (x y : Frac) : Bool := decide (x.num * y.den < y.num * x.den)
def Frac.le (x y : Frac) : Bool := !y.lt x
def Frac.isZero (x : Frac) : Bool := x.num == 0
/-- The largest integer not above a fraction. -/
def Frac.floor (x : Frac) : Int := x.num / (x.den : Int)
/-- A finite value as a fraction; 0 for a NaN or infinity. -/
def Val.toFrac : Val → Frac
  | .fin neg n d => ⟨if neg then -(n : Int) else n, d⟩
  | _ => ⟨0, 1⟩
/-- A fraction as a value; zero is +0. -/
def Frac.toVal (x : Frac) : Val := .fin (decide (x.num < 0)) x.num.natAbs x.den
/-- A fraction in lowest terms. -/
def Frac.norm (x : Frac) : Frac :=
  let g := Nat.gcd x.num.natAbs x.den
  if g ≤ 1 then x else ⟨x.num / (g : Int), x.den / g⟩

end Sys2Proof.Machine
end

