-- ==== Sys2Proof/Machine/Operands.lean ====
section
/-!
DEFINITION. Operand forms (spec/01 R14 to R18, spec/05 R112): what a vector or scalar operand delivers to a lane, the
widening of an immediate, packed elements, and writing a lane's or a scalar result.
-/
namespace Sys2Proof.Machine

/-! ### Types -/

/-- The width of an element of a type (R17, R18). -/
def elemBits (t : Nat) : Nat := if t = 14 then 8 else if t = 15 then 16 else if wideType t then 64 else 32
/-- Is the type's element signed (R18)? -/
def isSigned (f : Fields) : Bool := tv f == 1 || tv f == 3 || signBit f

/-- A value of `w` bits as an integer, by signedness (R111). -/
def ival (w : Nat) (sg : Bool) (x : Nat) : Int := if sg then sval w x else ((x % 2 ^ w : Nat) : Int)
/-- An exact integer clamped to a type's range (R111). -/
def clampInt (w : Nat) (sg : Bool) (x : Int) : Nat :=
  let lo : Int := if sg then -(2 ^ (w - 1) : Nat) else 0
  let hi : Int := if sg then (2 ^ (w - 1) : Nat) - 1 else (2 ^ w : Nat) - 1
  wrapInt w (if x < lo then lo else if hi < x then hi else x)
/-- An exact integer result, wrapped or, under .sat, clamped (R111). -/
def narrow (w : Nat) (sg sat : Bool) (x : Int) : Nat := if sat then clampInt w sg x else wrapInt w x

/-- A 32-bit or 64-bit result extended to a 64-bit scalar (R256). -/
def extend64 (w : Nat) (sg : Bool) (x : Nat) : W64 := BitVec.ofNat 64 (wrapInt 64 (ival w sg x))

/-! ### Operands -/

/-- The immediate as operand B, widened to a type (R14). -/
def immB (f : Fields) (t : Nat) : Nat :=
  match t with
  | 3 => wrapInt 64 (simm f.imm)
  | 6 => widenF32 (iv f)
  | 7 => iv f % 65536
  | 8 => iv f % 65536
  | _ => iv f

/-- A vector-kind operand as a lane receives it: its word or pair, or a scalar register broadcast (R14, R112). -/
def Env.operand (e : Env) (scl : Bool) (n pos : Nat) (wide : Bool) (L : Nat) : Nat :=
  if scl then (if wide then (e.s n pos).toNat else (e.s n pos).toNat % 2 ^ 32)
  else if wide then (e.v64 n L pos).toNat else (e.v n L pos).toNat

/-- Operand A of a type in a lane. -/
def Env.a (e : Env) (t L : Nat) : Nat := e.operand e.f.ascl e.opa 1 (wideType t) L
/-- Operand B of a type in a lane. -/
def Env.b (e : Env) (t L : Nat) : Nat :=
  if e.f.bimm then immB e.f t else e.operand e.f.bscl e.opb 2 (wideType t) L
/-- Operand C of a type in a lane. -/
def Env.c (e : Env) (t L : Nat) : Nat := e.operand e.f.cscl e.opc 3 (wideType t) L
/-- The destination as a source of a type in a lane. -/
def Env.d (e : Env) (t L : Nat) : Nat := e.operand false e.dst 4 (wideType t) L

/-- s[opb] or the immediate, as the scalar class reads operand B (R256). -/
def Env.sb (e : Env) : W64 := if e.f.bimm then BitVec.ofNat 64 (immB e.f (tv e.f)) else e.s e.opb 2

/-- The offset s[opa] + SignExtend(imm, 64) of a scalar address (R217). -/
def Env.offset (e : Env) : Nat := (e.s e.opa 1 + BitVec.ofInt 64 (simm e.f.imm)).toNat

/-! ### Packed elements -/

/-- A two-operand function applied to each packed element of `w` bits, `n` of them (R112). -/
def packMap (w : Nat) (g : Nat → Nat → Nat) (a b : Nat) : Nat → Nat
  | 0 => 0
  | n + 1 => packMap w g a b n + (g (a / 2 ^ (w * n) % 2 ^ w) (b / 2 ^ (w * n) % 2 ^ w)) % 2 ^ w * 2 ^ (w * n)

/-- A function of elements applied to a lane's value of a type (R259). -/
def elementwise (t : Nat) (g : Nat → Nat → Nat) (a b : Nat) : Nat :=
  packMap (elemBits t) g a b (if t = 14 then 4 else if t = 15 then 2 else 1)

/-! ### Results -/

/-- A lane's result: its word, or its pair for a 64-bit type. -/
def Env.put (e : Env) (s : State) (wide : Bool) (n L x : Nat) : State :=
  if wide then e.setV64 s n L (BitVec.ofNat 64 x) else e.setV s n L (BitVec.ofNat 32 x)

/-- Per-lane results with their flags, every source read before the first write (R243, R121). -/
def Env.putLanes (e : Env) (s : State) (wide : Bool) (n : Nat) (xs : List (Nat × Nat × Nat)) : State :=
  e.raise (xs.foldl (fun s x => e.put s wide n x.1 x.2.1) s) (orFlags (xs.map fun x => x.2.2))

/-- The effect of a per-lane instruction: `g` gives a lane's result and flags (R16, R243). -/
def perLane (wide : Bool) (g : Env → Nat → Nat × Nat) (e : Env) (s : State) : Res :=
  .done (e.putLanes s wide e.dst (e.lanes.map fun L => (L, g e L)))

/-- A scalar result, guarded by the shadow rule (R244, R352). -/
def scalarRes (major : Nat) (g : Env → W64 × Nat) (e : Env) (s : State) : Res :=
  e.guardS s major [e.dst] fun _ =>
    let (x, fl) := g e
    .done (e.raise (e.setS s e.dst x) fl)

/-- A mask register's bits in the lanes of Active, the others kept (R244, R260). -/
def maskLanes (g : Env → Nat → Bool × Nat) (e : Env) (s : State) : Res :=
  let xs := e.lanes.map fun L => (L, g e L)
  let m := maskOf ((xs.filter fun x => x.2.1).map fun x => x.1)
  .done (e.raise (e.setKBits s e.dst e.active m) (orFlags (xs.map fun x => x.2.2)))

end Sys2Proof.Machine
end

