-- ==== Sys2Proof/Machine/Barrier.lean ====
section
/-!
DEFINITION. Barrier objects (spec/08 R187 to R192) and group phases (spec/17 R356 to R361): the atomic steps, and the
instructions that make them.
-/
namespace Sys2Proof.Machine

/-! ### Barrier objects as 256-bit numbers -/

/-- Bits `hi` to `lo` of a number replaced. -/
def setBits (x hi lo v : Nat) : Nat := x - bits x hi lo * 2 ^ lo + v % 2 ^ (hi + 1 - lo) * 2 ^ lo

def barArr (b : Nat) : Nat := bits b 31 0
def barExp (b : Nat) : Nat := bits b 47 32
def barPhase (b : Nat) : Nat := bits b 95 64
def barBytes (b : Nat) : Nat := bits b 159 96
def barRdr (b : Nat) : Nat := bits b 191 160
def barAccf (b : Nat) : Nat := bits b 205 200
def barDonef (b : Nat) : Nat := bits b 211 206
def barPz (b : Nat) : Bool := b.testBit 215

/-- Settle (R188): at most one phase completes. -/
def settle (b : Nat) : Nat :=
  if !barPz b && 1 ≤ barExp b && barExp b ≤ barArr b && barBytes b == 0 && barRdr b == 0 then
    setBits (setBits (setBits (setBits b 31 0 (barArr b - barExp b)) 95 64 (barPhase b + 1)) 211 206 (barAccf b)) 205 200 0
  else b

/-- The object that BINIT writes (R187, R190). -/
def barInit (n : Nat) : Nat := n * 2 ^ 32
def barArrive (n fl b : Nat) : Nat := settle (setBits (setBits b 31 0 (barArr b + n)) 205 200 (barAccf b ||| fl % 64))
def barAddBytes (n b : Nat) : Nat := settle (setBits b 159 96 (barBytes b + n % 2 ^ 64))
def barAddRdr (n b : Nat) : Nat := settle (setBits b 191 160 (barRdr b + n % 2 ^ 32))
def barPoison (b : Nat) : Nat := setBits b 215 215 1
/-- BDROP (R190). -/
def barDrop (b : Nat) : Nat :=
  if barPz b then b
  else if barExp b = 0 then barPoison b
  else
    let b := setBits b 47 32 (barExp b - 1)
    if barExp b = 0 then barPoison b else settle b
/-- The completion of an engine command that wrote `n` bytes, in error or not (R199, R200). -/
def barComplete (n : Nat) (err : Bool) (b : Nat) : Nat :=
  let b := setBits b 159 96 (barBytes b + (2 ^ 64 - n % 2 ^ 64))
  if err then settle (barPoison b) else settle b
/-- The operands-consumed event (R203). -/
def barConsumed (b : Nat) : Nat := settle (setBits b 191 160 (barRdr b + (2 ^ 32 - 1)))

/-- A fragment parked at BWAIT sees a step on its object (R190). -/
def wakeAt (addr b : Nat) (fr : Frag) : Frag :=
  match fr.wait with
  | some (.barrier a t none) =>
    if a ≠ addr then fr
    else if barPhase b ≠ t then { fr with wait := some (.barrier a t (some (.donef (barDonef b)))) }
    else if barPz b then { fr with wait := some (.barrier a t (some .poisoned)) }
    else fr
  | _ => fr

/-- What comes before an arrival or another event of a barrier object's current phase comes before what observes that
phase (R191). -/
def State.joinPhase (s : State) (src : List Carrier) (core addr : Nat) : State :=
  if s.past.isEmpty then s else s.flow src (.phase core addr (barPhase (leNat (s.scrBytes core addr 32))))

/-- One atomic step on the object at a scratchpad address of a core (R188), and those it wakes. -/
def State.barStep (s : State) (core addr : Nat) (g : Nat → Nat) : State :=
  let b := g (leNat (s.scrBytes core addr 32))
  (s.scrWrite core addr (leBytes 32 b)).modCore core fun k =>
    { k with slots := k.slots.map fun x => x.map fun w => { w with frags := w.frags.map (wakeAt addr b) } }

/-- An object of the workgroup's area (R361): from its BINIT, or a BARV on it, until the workgroup ends it counts among
the barrier objects of the area (log 76). -/
def State.noteObject (s : State) (wg addr : Nat) : State :=
  s.modWgroup wg fun g => if g.base ≤ addr then { g with objs := setInsert (addr - g.base) g.objs } else g

/-- A warp no longer takes part in the object at an offset (R360). -/
def Warp.leave (w : Warp) (wg o : Nat) : Warp := if w.wg = wg then { w with part := w.part.filter (· != o) } else w

/-! ### Barrier instructions -/

/-- The trap of a scalar-class instruction's checks of the word's registers (R40). -/
def regTrap (e : Env) (major : Nat) : Trap := { cause := 0x0D, lanes := e.active, unit := unitOf major }

/-- How a scalar-class access stands after its checks: its parts, its trap, or a wait of its walk. -/
inductive ScalarOut where
  | ok (ps : List Piece)
  | bad (t : Trap)
  | wait
  deriving DecidableEq, Repr

/-- A scalar-class access checked by R208 as one access (R217, R189). -/
def scalarAccess (s : State) (e : Env) (major seg o size : Nat) (acc : Acc) : State × ScalarOut :=
  let (s, x) := laneAccess s e seg o 0 size acc false
  match withPoison s acc x with
  | .ok ps => (s, .ok ps)
  | .held => (s, .wait)
  | y => match accessTrap major seg size acc [(0, y)] with
    | some t => (s, .bad { t with lanes := e.active })
    | none => (s, .bad (regTrap e major))

/-- The object of a barrier instruction: checked under R77 with size 32, then aligned (R189); `k` receives its address. -/
def withBarrier (e : Env) (s : State) (major : Nat) (acc : Acc) (k : State → Nat → Res) : Res :=
  match scalarAccess s e major 1 (e.s e.opa 1).toNat 32 acc with
  | (s, .ok [p]) => k s p.addr
  | (s, .ok _) => .trap s [regTrap e major]
  | (s, .wait) => .park s (.other 166)
  | (s, .bad t) => .trap s [t]

/-- Fault 0x0B of a barrier (R390). -/
def poisonTrap (e : Env) (major va : Nat) (grp : Bool) : Trap :=
  { cause := 0x0B, va := BitVec.ofNat 64 va, aux := if grp then 1 else 0, acc := 5, lanes := e.active, unit := unitOf major }

/-- BINIT (R190): the offset leaves the participation list of every warp of the workgroup, resident or evicted (R360). -/
def execBinit (f : Fields) (s : State) : Host.Outcome State Fault Refusal :=
  issue (.binit f) f .lanes (fun e s =>
    let n := if f.bimm then iv f else (e.s e.opb 2).toNat
    if n = 0 ∨ 65535 < n then .trap s [regTrap e 0xB0]
    else withBarrier e s 0xB0 .wr fun s a =>
      let o := (e.s e.opa 1).toNat
      let s := s.dropCarriers fun c => match c with
        | .phase core addr _ => core == e.ref.core && addr == a
        | _ => false
      let s := (s.barStep e.ref.core a fun _ => barInit n).modCore e.ref.core fun k =>
        { k with slots := k.slots.map fun x => x.map fun w => w.leave e.w.wg o }
      let s := { s with images := s.images.map fun (i : Image) => { i with warps := i.warps.map fun (x : Nat × Warp) => (x.1, x.2.leave e.w.wg o) } }
      .done (s.noteObject e.w.wg a)) s

/-- BARV (R190). -/
def execBarv (f : Fields) (s : State) : Host.Outcome State Fault Refusal :=
  issue (.barv f) f .lanes (fun e s =>
    let n := if f.bimm then iv f else (e.s e.opb 2).toNat
    let o := (e.s e.opa 1).toNat
    if n = 0 ∨ 65535 < n ∨ (!e.w.part.contains o ∧ 8 ≤ e.w.part.length) then .trap s [regTrap e 0xB1]
    else withBarrier e s 0xB1 .wr fun s a =>
      let b := leNat (s.scrBytes e.ref.core a 32)
      if barPz b then .trap s [poisonTrap e 0xB1 o false]
      else e.guardS s 0xB1 [e.dst] fun _ =>
        let s := ((s.joinPhase e.w.before e.ref.core a).barStep e.ref.core a (barArrive n e.flags.toNat)).modWarp e.ref.core e.ref.slot fun w =>
          if w.part.contains o then w else { w with part := w.part ++ [o] }
        .done (e.setS (s.noteObject e.w.wg a) e.dst (BitVec.ofNat 64 (barPhase b)))) s

/-- BEXP (R190). -/
def execBexp (f : Fields) (s : State) : Host.Outcome State Fault Refusal :=
  issue (.bexp f) f .lanes (fun e s =>
    let n := if f.bimm then iv f else (e.s e.opb 2).toNat
    if mv f = 1 ∧ 2 ^ 31 ≤ n then .trap s [regTrap e 0xB2]
    else withBarrier e s 0xB2 .wr fun s a =>
      if barPz (leNat (s.scrBytes e.ref.core a 32)) then .trap s [poisonTrap e 0xB2 (e.s e.opa 1).toNat false]
      else .done ((s.joinPhase e.w.before e.ref.core a).barStep e.ref.core a (if mv f = 1 then barAddRdr n else barAddBytes n))) s

/-- BWAIT (R190): what wakes a parked fragment is kept with its wait. Its warp observes the phase of its token (R191). -/
def execBwait (f : Fields) (s : State) : Host.Outcome State Fault Refusal :=
  issue (.bwait f) f .lanes (fun e s =>
    let o := (e.s e.opa 1).toNat
    let out := fun (s : State) (a t fl : Nat) => e.guardS s 0xB3 [e.dst] fun _ =>
      .done (e.observe (e.setS s e.dst (BitVec.ofNat 64 fl)) [.phase e.ref.core a t])
    match e.fr.wait with
    | some (.barrier a t (some (.donef fl))) => out s a t fl
    | some (.barrier _ _ (some .poisoned)) => .trap s [poisonTrap e 0xB3 o false]
    | some (.barrier a t none) => .park s (.barrier a t none)
    | _ => withBarrier e s 0xB3 .rd fun s a =>
      let b := leNat (s.scrBytes e.ref.core a 32)
      let t := (e.s e.opb 2).toNat % 2 ^ 32
      if barPhase b ≠ t then out s a t (barDonef b)
      else if barPz b then .trap s [poisonTrap e 0xB3 o false]
      else .park s (.barrier a t none)) s

/-- BTEST (R190): as BWAIT, it only reads. R188 ends every step with Settle, and R190 gives these two no Settle: the model
makes none (log 76). -/
def execBtest (f : Fields) (s : State) : Host.Outcome State Fault Refusal :=
  issue (.btest f) f .lanes (fun e s =>
    withBarrier e s 0xB4 .rd fun s a =>
      let b := leNat (s.scrBytes e.ref.core a 32)
      let x : W64 := if barPhase b ≠ (e.s e.opb 2).toNat % 2 ^ 32 then 1 else if barPz b then 2 else 0
      e.guardS s 0xB4 [e.dst] fun _ =>
        let s := e.setS s e.dst x
        .done (if x = 1 then e.observe s [.phase e.ref.core a ((e.s e.opb 2).toNat % 2 ^ 32)] else s)) s

/-- BDROP (R190). -/
def execBdrop (f : Fields) (s : State) : Host.Outcome State Fault Refusal :=
  issue (.bdrop f) f .lanes (fun e s =>
    withBarrier e s 0xB5 .wr fun s a =>
      .done (((s.joinPhase e.w.before e.ref.core a).barStep e.ref.core a barDrop).modWarp e.ref.core e.ref.slot fun w =>
        { w with part := w.part.filter (· != (e.s e.opa 1).toNat) })) s

/-- ELECT (R192). -/
def execElect (f : Fields) (s : State) : Host.Outcome State Fault Refusal :=
  issue (.elect f) f .lanes (fun e s => .done (e.setK s e.dst (laneBit (lowestLane e.active)))) s

/-! ### Groups -/

/-- Is a workgroup's index a member of a group (R356)? -/
def LaunchGroup.has (g : LaunchGroup) (index : Nat) : Bool := g.members.any fun m => m.1 ≤ index && index ≤ m.2

/-- A phase completes when enough warps have arrived (R357); the waiters of a poisoned group fault instead (R361). -/
def LaunchGroup.settle (g : LaunchGroup) : LaunchGroup :=
  if !g.pz && decide (g.exp ≤ g.arr) then { g with arr := 0, phase := g.phase + 1, gather := 0, time := max g.time g.gather }
  else g

/-- A warp of a member workgroup ends: exp falls, and the phase may complete (R357). `arrived` tells that it had
arrived in the current phase. -/
def LaunchGroup.dropWarp (g : LaunchGroup) : LaunchGroup := { g with exp := g.exp - 1 }.settle

/-- The group of the issuing warp's launch, when its workgroup is a member: the launch's identifier and the group. -/
def groupOf (s : State) (w : Warp) (g : Nat) : Option LaunchGroup :=
  match s.wgroup w.wg, s.launch w.launch with
  | some wg, some l => match wg.kind with
    | .grid index => (l.groups[g]?).bind fun x => if x.has index then some x else none
    | _ => none
  | _, _ => none

/-- A group of a launch changed. -/
def State.modGroup (s : State) (launch g : Nat) (k : LaunchGroup → LaunchGroup) : State :=
  s.modLaunch launch fun l => { l with groups := modAt k g l.groups }

/-- GRPSYNC (R357). A warp arrives once per phase: the phases it has arrived in are kept with the warp. At its return the
tower's logical time rises to that of the phase's arrivals (R358, R162), and what came before these comes before its warp's later
accesses. -/
def execGrpsync (f : Fields) (s : State) : Host.Outcome State Fault Refusal :=
  issue (.grpsync f) f .lanes (fun e s =>
    let g := iv f % 256
    match groupOf s e.w g with
    | none => .trap s [regTrap e 0xB7]
    | some x =>
      let out := fun (s : State) (t time : Nat) =>
        Res.done (e.observe (s.raisePts (towerOf e.ref.core) time) [.group e.w.launch g t])
      let waited := match e.fr.wait with
        | some (.group g' t) => if g' = g then some t else none
        | _ => none
      match waited with
      | some t => if x.phase.toNat ≠ t then out s t x.time
        else if x.pz then .trap s [poisonTrap e 0xB7 g true] else .park s (.group g t)
      | none =>
        if x.pz then .trap s [poisonTrap e 0xB7 g true]
        else
          let t := x.phase.toNat
          if e.w.grp.any fun a => a.1 == g && a.2 == t then .park s (.group g t)
          else
            let x' := { x with arr := x.arr + 1, gather := max x.gather (s.tower (towerOf e.ref.core)).pts }.settle
            let s := ((e.publish s (.group e.w.launch g t)).modGroup e.w.launch g fun _ => x').modWarp e.ref.core e.ref.slot fun w =>
              { w with grp := (w.grp.filter fun a => a.1 != g) ++ [(g, t)] }
            if x'.phase.toNat ≠ t then out s t x'.time else .park s (.group g t)) s

end Sys2Proof.Machine
end

