-- ==== Sys2Proof/Machine/Convert.lean ====
section
/-!
DEFINITION. Buffer records, where their elements lie, and the conversion stage (spec/04 R95 to R100).
-/
namespace Sys2Proof.Machine

/-- A buffer record (R95). -/
structure BufRec where
  base   : Nat
  size   : Nat
  stride : Nat
  enc    : Nat
  ilv    : Nat
  chans  : Nat
  smode  : Nat
  oob    : Nat
  rfmt   : Nat
  scale  : Nat
  lclass : Nat
  lcov   : Bool
  low    : Nat
  deriving DecidableEq, Repr

/-- The fields of a record's 320 bits (R95). -/
def bufRec (x : Nat) : BufRec :=
  { base := bits x 319 256, size := bits x 255 208, stride := bits x 207 184, enc := bits x 183 176,
    ilv := bits x 175 172, chans := bits x 171 169, smode := bits x 168 166, oob := bits x 165 164,
    rfmt := bits x 163 160, scale := bits x 159 96, lclass := bits x 95 93, lcov := x.testBit 92, low := bits x 91 0 }

/-- Is the encoding a block format? -/
def BufRec.block (r : BufRec) : Bool := decide (0x0E ≤ r.enc)
/-- The component size in bytes of a non-block encoding (R95). -/
def BufRec.es (r : BufRec) : Nat :=
  if r.enc ≤ 1 ∨ r.enc = 0x0C ∨ r.enc = 0x0D then 1
  else if r.enc = 2 ∨ r.enc = 3 ∨ r.enc = 8 ∨ r.enc = 9 then 2
  else if r.enc = 4 ∨ r.enc = 5 ∨ r.enc = 0x0A then 4 else 8
/-- Payload bits of a block encoding (R113). -/
def BufRec.payload (r : BufRec) : Nat := if r.enc = 0x0E then 8 else if r.enc = 0x0F then 4 else 2
/-- Registers of a component: 2 for the 64-bit register formats (R218). -/
def BufRec.regs (r : BufRec) : Nat := if wideType r.rfmt then 2 else 1

/-- Is the record malformed (R96)? -/
def BufRec.malformed (r : BufRec) (store : Bool) : Bool :=
  r.low != 0 || decide (2 ^ 56 ≤ r.base) || decide (0x10 < r.enc) || decide (4 < r.ilv) || decide (r.chans = 0 ∨ 4 < r.chans) ||
    decide (2 < r.smode) || r.oob == 3 || decide (6 < r.rfmt) || decide (2 ^ 56 < r.base + r.size) ||
    (r.smode == 1 && r.scale / 2 ^ 32 != 0) || (r.smode == 0 && r.scale != 0) ||
    (r.block && (r.chans != 1 || r.ilv != 0 || r.stride != 0 || r.smode != 2)) ||
    (r.rfmt == 0 && (r.smode != 0 || r.block || decide (4 < r.es))) ||
    (store && (r.block || r.smode == 2))

/-- Morton(t) of R97. -/
def morton (t : Nat) : Nat :=
  (List.range 3).foldl (fun n i => n + b2n (t.testBit i) * 4 ^ i + b2n (t.testBit (3 + i)) * 2 * 4 ^ i) 0

/-- Off(i, c) of R97. -/
def BufRec.off (r : BufRec) (i c : Nat) : Nat :=
  let es := r.es
  if r.ilv = 0 then i * (if r.stride ≠ 0 then r.stride else r.chans * es) + c * es
  else if r.ilv ≤ 3 then
    let n := 2 ^ r.ilv
    i / n * (if r.stride ≠ 0 then r.stride else n * r.chans * es) + (c * n + i % n) * es
  else i / 64 * (if r.stride ≠ 0 then r.stride else 64 * r.chans * es) + (morton (i % 64) * r.chans + c) * es

/-- Where an element's bytes lie: offsets from base with lengths, one per component; the payload byte of a block. -/
def BufRec.parts (r : BufRec) (i : Nat) : List (Nat × Nat) :=
  if r.block then [(i * r.payload / 8, 1)] else (List.range r.chans).map fun c => (r.off i c, r.es)

/-- Is element `i` in bounds (R98)? -/
def BufRec.inBounds (r : BufRec) (i : Nat) : Bool := (r.parts i).all fun p => decide (p.1 + p.2 ≤ r.size)

/-- N of R98: the largest n with elements 0 to n − 1 all in bounds, found among the indices below `hi`, which is not
itself in bounds. Within a group the offsets need not rise with the index, so the groups that fit whole are counted
first, then the elements of the next group one by one. -/
def BufRec.firstOut (r : BufRec) : Nat :=
  let g := if r.block then 16 else if r.ilv = 0 then 1 else if r.ilv ≤ 3 then 2 ^ r.ilv else 64
  let whole := wholeGroups r g
  whole * g + ((List.range g).takeWhile fun j => r.inBounds (whole * g + j)).length
where
  /-- Elements of group `k` all in bounds: the largest end in the group is linear in k. -/
  wholeGroups (r : BufRec) (g : Nat) : Nat :=
    let top := (List.range g).foldl (fun m j => (r.parts j).foldl (fun m p => max m (p.1 + p.2)) m) 0
    let step := if r.block then 16 * r.payload / 8 else r.off g 0 - r.off 0 0
    if r.size < top then 0 else if step = 0 then 2 ^ 32 else (r.size - top) / step + 1

/-- The value of a stored encoding (R107, R99). -/
def encVal (enc raw : Nat) : Val :=
  match enc with
  | 0 => .ofInt (ival 8 false raw)
  | 1 => .ofInt (ival 8 true raw)
  | 2 => .ofInt (ival 16 false raw)
  | 3 => .ofInt (ival 16 true raw)
  | 4 => .ofInt (ival 32 false raw)
  | 5 => .ofInt (ival 32 true raw)
  | 6 => .ofInt (ival 64 false raw)
  | 7 => .ofInt (ival 64 true raw)
  | 8 => decodeVal fmtF16 raw
  | 9 => decodeVal fmtBf16 raw
  | 0x0A => decodeVal fmtF32 raw
  | 0x0B => decodeVal fmtF64 raw
  | 0x0C => decodeVal fmtE4m3 raw
  | _ => decodeVal fmtE5m2 raw

/-- A value rounded into a stored encoding with saturation (R99, R100): the encoding and the flags. A non-zero value that an
integer encoding holds as 0 is inexact and underflows, as the last row of R100's table has it for any format (log 89). -/
def encRound (enc : Nat) (x : Val) : Nat × Nat :=
  let i := fun (w : Nat) (sg : Bool) =>
    let (y, fl) := roundToInt w sg 0 x
    (wrapInt w y, fl + flagIf (y == 0 && fl == flInx) flUnf)
  match enc with
  | 0 => i 8 false
  | 1 => i 8 true
  | 2 => i 16 false
  | 3 => i 16 true
  | 4 => i 32 false
  | 5 => i 32 true
  | 6 => i 64 false
  | 7 => i 64 true
  | 8 => roundTo fmtF16 0 true x
  | 9 => roundTo fmtBf16 0 true x
  | 0x0A => roundTo fmtF32 0 true x
  | 0x0B => roundTo fmtF64 0 true x
  | 0x0C => roundTo fmtE4m3 0 true x
  | _ => roundTo fmtE5m2 0 true x

/-- The register formats as stored encodings: s32, n32, s64, n64, f32, f64 (R95). -/
def rfmtEnc (rfmt : Nat) : Nat :=
  match rfmt with
  | 1 => 5
  | 2 => 4
  | 3 => 7
  | 4 => 6
  | 5 => 0x0A
  | _ => 0x0B

/-- ConvertIn of a decoded value whose plane byte is `e` (R99). An element that a plane byte of 255 makes NaN raises no flag, be it
a signalling NaN itself (DESIGN CHOICE, log 101). -/
def convertIn (r : BufRec) (raw e : Nat) (x : Val) : Nat × Nat :=
  if r.rfmt = 0 then (raw % 2 ^ 32, 0)
  else
    let x := if r.smode = 1 then x.mul (decodeVal fmtF32 r.scale)
      else if r.smode = 2 && !r.block then (if e = 255 then .nan false else x.mul (.dyadic false 1 ((e : Int) - 127)))
      else x
    encRound (rfmtEnc r.rfmt) x

/-- Where the scale plane of element `i` lies: a block's two header bytes, or one byte E (R97). -/
def BufRec.plane (r : BufRec) (i : Nat) : Option (Nat × Nat) :=
  if r.block then some (r.scale + 2 * (i / 16), 2) else if r.smode = 2 then some (r.scale + i / 32, 1) else none

/-- The components of element `i` as the registers receive them, from the raw bytes of its parts and of its plane
(R97, R99): values and flags. -/
def BufRec.components (r : BufRec) (i plane : Nat) (raws : List Nat) : List (Nat × Nat) :=
  raws.map fun raw =>
    if r.block then
      let p := r.payload
      convertIn r 0 0 (blockVal (p - 1) i (raw / 2 ^ (i * p % 8) % 2 ^ p) (plane % 256) (plane / 256))
    else convertIn r raw (plane % 256) (encVal r.enc raw)

/-- The element that index `i` reads: itself, another under clamping, none for zeros; or a fault (R98). -/
inductive ElemAt where
  | at (i : Nat)
  | zero
  | fault
  deriving DecidableEq, Repr
def BufRec.elemAt (r : BufRec) (i : Nat) : ElemAt :=
  if r.inBounds i then .at i
  else if r.oob = 2 then .fault
  else if r.oob = 1 then (if r.firstOut = 0 then .zero else .at (min i (r.firstOut - 1)))
  else .zero

/-- x / y under IEEE 754 with the flags that R100 names; for an infinity over an infinity, which it does not name, invalid (log
90). -/
def divVal (x y : Val) : Val × Nat :=
  match x, y with
  | .nan i, .nan j => (.nan (i || j), flagIf (i || j) flInv)
  | .nan i, _ => (.nan i, flagIf i flInv)
  | _, .nan i => (.nan i, flagIf i flInv)
  | .inf _, .inf _ => (.nan true, flInv)
  | .inf s, .fin t _ _ => (.inf (s != t), 0)
  | .fin s _ _, .inf t => (.fin (s != t) 0 1, 0)
  | .fin s n d, .fin t m e =>
    if m = 0 then (if n = 0 then (.nan true, flInv) else (.inf (s != t), flDz)) else (.fin (s != t) (n * e) (d * m), 0)

/-- ConvertOut of a register value (R99). -/
def convertOut (r : BufRec) (x : Nat) : Nat × Nat :=
  if r.rfmt = 0 then (x % 2 ^ (8 * r.es), 0)
  else
    let v := encVal (rfmtEnc r.rfmt) x
    if r.smode = 1 then
      let (q, fl) := divVal v (decodeVal fmtF32 r.scale)
      let (y, fl') := encRound r.enc q
      (y, fl ||| fl')
    else encRound r.enc v

end Sys2Proof.Machine
end

