-- ==== Sys2Proof/Machine/DevAccess.lean ====
section
/-!
DEFINITION. Accesses that a unit of the device makes for a warp: a copy engine, the matrix unit, the traversal unit.
They translate in the warp's context and reach their lines at the L2, or the near cache for record queues; the page walks of a
core's units go through that core's near cache (spec/07 R150).
-/
namespace Sys2Proof.Machine

/-- Who makes the access: where it reaches its lines and where its page walks reach theirs (R150), the context, and the lease
class the access names (R75). -/
structure DevCtx where
  rd    : Reader
  walks : Reader
  cslot : Nat
  ctxid : BitVec 16
  cls   : Option Nat := none
  salt  : Nat := 0
  deriving DecidableEq, Repr

/-- What a device access finds: its result, a cause with the address it records, or a line it must wait for (R166). -/
inductive DevRes (α : Type) where
  | ok (x : α)
  | bad (cause va : Nat)
  | wait
  deriving DecidableEq, Repr

/-- The parts of a virtual range with their keys, attributes and classes, or the first cause (R71, R208). -/
def devParts (s : State) (d : DevCtx) (acc : Acc) : List (Nat × Nat) → State × DevRes (List Piece)
  | [] => (s, .ok [])
  | (va, n) :: rest =>
    match translate s d.walks d.cslot d.ctxid d.salt va acc false with
    | (s, .bad c) => (s, .bad c va)
    | (s, .notResident) => (s, .bad 1 va)
    | (s, .held) => (s, .wait)
    | (s, .ok key attr lcl _) =>
      match devParts s d acc rest with
      | (s, .ok ps) => (s, .ok (⟨.phys, key, n, attr, d.cls.getD lcl, va, 0⟩ :: ps))
      | r => r

/-- The parts of a virtual range with poison and outside owners checked (R170, R166). -/
def devResolve (s : State) (d : DevCtx) (acc : Acc) (va n : Nat) : State × DevRes (List Piece) :=
  match devParts s d acc (splitPages va n) with
  | (s, .ok ps) =>
    match ps.find? fun p => s.poisoned p.addr p.len with
    | some p => (s, .bad 5 p.va)
    | none => if ps.any (Piece.held s d.rd acc.writes) then (holdPieces s d.rd acc.writes ps, .wait) else (s, .ok ps)
  | r => r

/-- Bytes read from where `rd` reaches their lines, at one logical time (R150). -/
def readParts (s : State) (rd : Reader) (ps : List Piece) : State × List Byte :=
  let s := touchLoads s rd ps
  (s, ps.flatMap fun p => s.seen rd.tower p.addr p.len)

/-- Bytes read from virtual memory at one logical time. -/
def devRead (s : State) (d : DevCtx) (va n : Nat) : State × DevRes (List Byte) :=
  match devResolve s d .rd va n with
  | (s, .ok ps) =>
    let (s, bs) := readParts s d.rd ps
    (s, .ok bs)
  | (s, .bad c a) => (s, .bad c a)
  | (s, .wait) => (s, .wait)

/-- The bytes of a store's parts, their lines claimed. -/
def putParts (s : State) : List Piece → List Byte → State
  | [], _ => s
  | p :: ps, data => putParts (s.put .engine p.attr p.addr (data.take p.len)) ps (data.drop p.len)
/-- The parts of a store performed from where `rd` reaches their lines, at one logical time. -/
def devStoreParts (s : State) (rd : Reader) (ps : List Piece) (data : List Byte) : State :=
  putParts (s.claim rd (pieceLines ps)) ps data

/-- The parts of several runs of bytes resolved for a store, or the first cause. -/
def devResolveRuns (s : State) (d : DevCtx) : List (Nat × List Byte) → State × DevRes (List Piece)
  | [] => (s, .ok [])
  | (va, data) :: rest =>
    match devResolve s d .wr va data.length with
    | (s, .ok ps) => match devResolveRuns s d rest with
      | (s, .ok qs) => (s, .ok (ps ++ qs))
      | r => r
    | r => r

/-- Runs of bytes written to virtual memory at one logical time. -/
def devWriteRuns (s : State) (d : DevCtx) (runs : List (Nat × List Byte)) : State × DevRes Unit :=
  match devResolveRuns s d runs with
  | (s, .ok ps) => (devStoreParts s d.rd ps (runs.flatMap fun x => x.2), .ok ())
  | (s, .bad c a) => (s, .bad c a)
  | (s, .wait) => (s, .wait)

/-- Bytes written to virtual memory at one logical time. -/
def devWrite (s : State) (d : DevCtx) (va : Nat) (data : List Byte) : State × DevRes Unit := devWriteRuns s d [(va, data)]

/-- An access of an engine cut into parts that a memory takes: from a start up to the next multiple of the largest power of
two that divides it and is at most `top`, so that each is aligned to its own size. -/
def alignedParts (top : Nat) : Nat → Nat → Nat → List (Nat × Nat)
  | 0, _, _ => []
  | fuel + 1, a, n =>
    if n = 0 then []
    else
      let k := (([16, 8, 4, 2, 1].filter fun k => decide (k ≤ top) && a % k == 0 && decide (k ≤ n)).head?).getD 1
      (a, k) :: alignedParts top fuel (a + k) (n - k)

/-- The check of an engine's access to the on-chip map (R58, R193): the cases of R58 for the parts of a granule, each aligned
to its size (log 30); a register region takes whole registers only, and a staging window takes no engine write. -/
def engMapCause (s : State) (core off n : Nat) (store : Bool) : Option Nat :=
  match mapWindow core off with
  | none => some 2
  | some (_, o) =>
    let r := mapRegion o
    if r = .vector || r = .scalar || r = .staging then
      if store && r = .staging && (mapCause s core off n store != some 1) then some 2 else mapCause s core off n store
    else (alignedParts 16 n off n).findSome? fun x => mapCause s core x.1 x.2 store

end Sys2Proof.Machine
end

