-- ==== Sys2Proof/Machine/Engine.lean ====
section
/-!
DEFINITION. Copy engines (spec/08 R193 to R205): the command a GO starts, its fork, its accesses granule by granule, and
its completion; and SEQW.
-/
namespace Sys2Proof.Machine

/-! ### Commands (R195) -/

/-- Word `i` of a command. -/
def EngCmd.wd (c : EngCmd) (i : Nat) : Nat := ((c.words[i]?).getD 0).toNat
def EngCmd.kind (c : EngCmd) : Nat := bits (c.wd 0) 3 0
def EngCmd.dims (c : EngCmd) : Nat := bits (c.wd 0) 5 4
def EngCmd.cv (c : EngCmd) : Bool := bitAt (c.wd 0) 6
def EngCmd.bv (c : EngCmd) : Bool := bitAt (c.wd 0) 8
def EngCmd.ssp (c : EngCmd) : Nat := bits (c.wd 0) 10 9
def EngCmd.dsp (c : EngCmd) : Nat := bits (c.wd 0) 12 11
def EngCmd.brec (c : EngCmd) : Nat := bits (c.wd 0) 43 32
def EngCmd.bar (c : EngCmd) : Nat := bits (c.wd 1) 22 0
def EngCmd.n0 (c : EngCmd) : Nat := bits (c.wd 4) 31 0
/-- Rows and planes as they are read (R195): 1 where dims does not use them. -/
def EngCmd.n1 (c : EngCmd) : Nat := if c.dims = 0 then 1 else bits (c.wd 4) 47 32
def EngCmd.n2 (c : EngCmd) : Nat := if c.dims = 2 then bits (c.wd 4) 63 48 else 1
def EngCmd.buf (c : EngCmd) : BufRec := bufRec (c.record.getD 0)
/-- Bytes of a converted component in the destination: the width of rfmt (R196). -/
def EngCmd.cvWidth (c : EngCmd) : Nat := if wideType c.buf.rfmt then 8 else 4
/-- Bytes written per destination row. -/
def EngCmd.rowBytes (c : EngCmd) : Nat := if c.cv then c.n0 * c.buf.chans * c.cvWidth else c.n0
/-- The class that the command's virtual accesses name (R75, R195). -/
def EngCmd.cls (c : EngCmd) : Option Nat := if bitAt (c.wd 0) 16 then some (bits (c.wd 0) 15 13) else none

/-- The start of a row in the source and in the destination (R196), modulo 2^64. -/
def EngCmd.srcRow (c : EngCmd) (p j : Nat) : Nat :=
  wrapInt 64 ((c.wd 2 : Int) + p * sval 32 (bits (c.wd 6) 31 0) + j * sval 32 (bits (c.wd 5) 31 0))
def EngCmd.dstRow (c : EngCmd) (p j : Nat) : Nat :=
  wrapInt 64 ((c.wd 3 : Int) + p * sval 32 (bits (c.wd 6) 63 32) + j * sval 32 (bits (c.wd 5) 63 32))

/-- Does the command break R195 or R196, so that it completes in error with 0x0D? -/
def EngCmd.bad (c : EngCmd) : Bool :=
  let w0 := c.wd 0
  let k := c.kind
  bits w0 63 44 != 0 || bits w0 31 17 != 0 || bitAt w0 7 || c.dsp == 3 || c.ssp == 3 || c.dims == 3 || decide (3 < k) ||
    bits (c.wd 1) 63 23 != 0 || (!c.bv && c.wd 1 != 0) || (c.bv && c.bar % 32 != 0) ||
    (c.dims == 0 && bits (c.wd 4) 47 32 != 0) || (c.dims != 2 && bits (c.wd 4) 63 48 != 0) ||
    (k == 1 && c.wd 2 != 0) || (c.dims == 0 && c.wd 5 != 0) || (c.dims != 2 && c.wd 6 != 0) ||
    (k != 1 && k != 2 && c.wd 7 != 0) ||
    (c.cv && (k != 0 || c.dims != 0 || c.ssp != 0 || !(c.dsp == 1 || c.dsp == 2))) ||
    (k == 2 && (c.dims != 1 || bits (c.wd 4) 63 48 != 0)) ||
    (k == 3 && (c.dsp != 2 || c.wd 3 % 4 != 0 || c.n0 % 4 != 0))

/-- The number of a command among all producers (R180). -/
def EngCmd.id (c : EngCmd) (comb : Nat) : Nat := comb * 2 ^ 32 + c.seq.toNat

/-- The scratchpad granules that a byte range of a destination names: core and granule. -/
def EngCmd.granules (c : EngCmd) (a n : Nat) : List (Nat × Nat) :=
  if n = 0 then []
  else if c.dsp = 1 then
    let hi := min (a + n) (c.g1.lim.toNat * 256)
    if hi ≤ a then [] else (granulesOf (c.g1.base.toNat + a) (hi - a)).map fun g => (c.core, g)
  else if c.dsp = 2 then
    match mapWindow c.core a with
    | some (p, o) => if o < 0x800000 then (granulesOf o (min n (0x800000 - o))).map fun g => (p, g) else []
    | none => []
  else []

/-- Every granule the command will write (R180). -/
def EngCmd.targets (c : EngCmd) : List (Nat × Nat) :=
  if c.bad || c.forkErr.isSome then []
  else (List.range c.n2).flatMap fun p => (List.range c.n1).flatMap fun j => c.granules (c.dstRow p j) c.rowBytes

/-- The command registers as the producer of its granules; they are orphaned no longer (R180, R181). -/
def registerGranules (s : State) (comb : Nat) (c : EngCmd) : State :=
  c.targets.foldl (fun s x => s.modCore x.1 fun k =>
    { k with prod := spSet none k.prod x.2 (some (c.id comb)), orphan := setErase x.2 k.orphan }) s

/-- The command ends: its registered granules are registered no longer, and orphaned when it ends in error or is
cancelled (R180, R181, R182). -/
def endProducer (s : State) (comb : Nat) (c : EngCmd) : State :=
  let now := s.pkg.gtime
  { s with cores := s.cores.map fun k =>
      (k.prod.filter fun x => spGet none k.prod x.1 == some (c.id comb)).foldl (fun k x =>
        { k with prod := spSet none k.prod x.1 none, regEnd := spSet 0 k.regEnd x.1 now,
                 orphan := setInsert x.1 k.orphan }) k }

/-! ### GO (R193, R194, R198) -/

/-- The capacity of a comb's ring in commands (R411). -/
def Comb.capacity (c : Comb) : Nat := 64 * 2 ^ (bits c.ecsize.toNat 3 0)

/-- The eight words that a staging window holds (R195). -/
def stagingWords (st : Staging) : List W64 := st.cq.flatMap fun q => [q.extractLsb' 0 64, q.extractLsb' 64 64]

/-- The context an engine's virtual accesses run in. -/
def EngCmd.ctx (c : EngCmd) (salt : Nat) : DevCtx :=
  { rd := .l2 (towerOf c.core), walks := .l2 (towerOf c.core), cslot := c.cslot, ctxid := c.ctxid, cls := c.cls, salt := salt }

/-- A buffer record fetched through g7 (R95): its bits, or a cause with the address it records. -/
def fetchRecord (s : State) (d : DevCtx) (g7 : Seg) (i : Nat) : State × DevRes Nat :=
  match segCheck g7 (40 * i) 40 false with
  | some c => (s, .bad c (g7.base.toNat + 40 * i))
  | none => match devRead s d (g7.base.toNat + 40 * i) 40 with
    | (s, .ok bs) => (s, .ok (leNat bs))
    | (s, .bad c a) => (s, .bad c a)
    | (s, .wait) => (s, .wait)

/-- The command forks at GO's logical time (R194, R198, R202): its record is read and its granules are registered
(R180), its words are written to the ring, and it joins the chain, and the warp's stores before it are performed (R202);
none while a line of these, of the record or of the ring entry is held (R166). -/
def goFork (s : State) (e : Env) : Option State :=
  (settleStores s e.ref.core e.ref.slot).bind fun s =>
  let comb := combOf e.ref.core
  let c := s.comb comb
  let seq := if c.lastSeq = 0xFFFFFFFF then 1 else c.lastSeq + 1
  let k := c.gos % c.capacity
  let w := (s.warp e.ref.core e.ref.slot).getD e.w
  let cmd : EngCmd :=
    { seq := seq, core := e.ref.core, cslot := w.cslot, ctxid := w.ctxid, wtag := w.tag, wg := w.wg,
      g1 := (w.r.g[1]?).getD {}, g7 := (w.r.g[7]?).getD {}, words := stagingWords w.stg, ringSlot := k, record := none,
      forkErr := none, cancel := false, run := none }
  let fork := fun (s : State) (cmd : EngCmd) =>
    if s.storeHeld (c.ecbase.toNat + 64 * k) 64 then none else
    let s := registerGranules (s.flow w.allBefore (.command (cmd.id comb))) comb cmd
    let s := s.devStore .device (towerOf e.ref.core) (some false) (c.ecbase.toNat + 64 * k)
      (cmd.words.flatMap fun x => leBytes 8 x.toNat)
    let s := s.modComb comb fun c => { c with gos := c.gos + 1, lastSeq := seq, chain := c.chain ++ [cmd] }
    some (s.modWarp e.ref.core e.ref.slot fun w => { w with stg := { w.stg with engseq := seq, mask := 0 } })
  if cmd.cv && !cmd.bad then
    match fetchRecord s (cmd.ctx 300) cmd.g7 cmd.brec with
    | (s, .ok x) => fork s (if (bufRec x).malformed false then { cmd with forkErr := some 0x0D } else { cmd with record := some x })
    | (s, .bad c _) => fork s { cmd with forkErr := some c }
    | (_, .wait) => none
  else fork s cmd

/-! ### Accesses of a command (R197) -/

/-- Bytes that the engine reads from a space at an address. -/
def engRead (s : State) (c : EngCmd) (space a n salt : Nat) : State × DevRes (List Byte) :=
  if space = 0 then devRead s (c.ctx salt) a n
  else if space = 1 then
    match segCheck c.g1 a n false with
    | some x => (s, .bad x a)
    | none => if 2 ^ 23 < c.g1.base.toNat + a + n then (s, .bad 3 a)
      else (s, .ok (s.scrBytes c.core (c.g1.base.toNat + a) n))
  else match engMapCause s c.core a n false with
    | some x => (s, .bad x a)
    | none => match mapWindow c.core a with
      | some (p, o) => match mapBad s p o n with
        | some x => (s.bbEvent 6 p 0 (3 + 256 * wordOffset p x), .bad 0x15 a)
        | none => (correctWords s p (mapWords o n), .ok (mapBytes s p o n))
      | none => (s, .bad 2 a)

/-- The check of a run of bytes that the engine writes to scratchpad or to the on-chip map. -/
def engStoreCause (s : State) (c : EngCmd) (a n : Nat) : Option Nat :=
  if c.dsp = 1 then
    match segCheck c.g1 a n true with
    | some x => some x
    | none => if 2 ^ 23 < c.g1.base.toNat + a + n then some 3 else none
  else engMapCause s c.core a n true

/-- The runs of bytes of one destination granule that the engine writes, all at one time (R197). -/
def engWrite (s : State) (c : EngCmd) (runs : List (Nat × List Byte)) (salt : Nat) : State × DevRes Unit :=
  if c.dsp = 0 then devWriteRuns s (c.ctx salt) runs
  else match runs.findSome? fun x => (engStoreCause s c x.1 x.2.length).map fun cause => (cause, x.1) with
  | some (cause, a) => (s, .bad cause a)
  | none =>
    let id := c.id (combOf c.core)
    (runs.foldl (fun s x =>
      if c.dsp = 1 then s.scrEngineWrite (some id) [.command id] c.core (c.g1.base.toNat + x.1) x.2
      else match mapWindow c.core x.1 with
        | some (p, o) => mapEngineWrite s id p o x.2
        | none => s) s, .ok ())

/-- The start of a destination granule's number space: scr offsets count from the scratchpad's first byte. -/
def EngCmd.granuleBase (c : EngCmd) : Nat := if c.dsp = 1 then c.g1.base.toNat else 0

/-- Does a row of the command after the given one meet a destination granule? -/
def EngCmd.laterMeets (c : EngCmd) (p j g : Nat) : Bool :=
  (List.range c.n2).any fun p' => decide (p ≤ p') && (List.range c.n1).any fun j' =>
    decide (p < p' ∨ j < j') && meets (c.granuleBase + c.dstRow p' j') c.rowBytes (16 * g) 16

/-- Bytes given for a granule: by address, the later ones in place of the earlier, with their count (R196, R200). A byte that
several rows give counts once for each (DESIGN CHOICE, log 102). -/
def addBytes (x : Sp Byte × Nat) (a : Nat) (data : List Byte) : Sp Byte × Nat :=
  ((data.zip (List.range data.length)).foldl (fun m y => spInsert (a + y.2) y.1 (spErase (a + y.2) m)) x.1, x.2 + data.length)

/-- Bytes by address as runs of consecutive ones. -/
def runsOf : Sp Byte → List (Nat × List Byte)
  | [] => []
  | (a, x) :: m => match runsOf m with
    | [] => [(a, [x])]
    | (b, xs) :: rs => if b = a + 1 then (a, x :: xs) :: rs else (a, [x]) :: (b, xs) :: rs

/-- The length of the next piece: up to the end of the granule that holds the address. -/
def pieceLen (a rest : Nat) : Nat := min (16 - a % 16) rest

/-- The run moves to the next row, or is done (R196). -/
def EngRun.nextRow (r : EngRun) (c : EngCmd) : EngRun :=
  let r := { r with buf := [], pos := 0, writing := c.kind == 1 }
  if r.row + 1 < c.n1 then { r with row := r.row + 1 }
  else if r.plane + 1 < c.n2 then { r with row := 0, plane := r.plane + 1 }
  else { r with done := true }

/-- Bytes the row's reading collects: an index of the list before a gathered row (R196). -/
def EngCmd.rowReads (c : EngCmd) : Nat := if c.kind = 1 then 0 else if c.kind = 2 then c.n0 + 4 else c.n0

/-- One element of a converting copy, read and converted (R196 to R199). -/
def engElement (s : State) (c : EngCmd) (i salt : Nat) : State × DevRes (List Byte × Nat) :=
  let b := c.buf
  let d := { c.ctx salt with cls := match c.cls with
    | some x => some x
    | none => if b.lcov then some b.lclass else none }
  match b.elemAt i with
  | .fault => (s, .bad 3 (b.base + b.off i 0))
  | .zero => (s, .ok (List.replicate (b.chans * c.cvWidth) 0, 0))
  | .at i =>
    let plane := match b.plane i with
      | none => (s, DevRes.ok [])
      | some (a, n) => devRead s d a n
    match plane with
    | (s, .bad x a) => (s, .bad x a)
    | (s, .wait) => (s, .wait)
    | (s, .ok pl) =>
      let (s, raws) := (b.parts i).foldl (fun (acc : State × DevRes (List Nat)) p =>
        match acc with
        | (s, .ok xs) => match devRead s d (b.base + p.1) p.2 with
          | (s, .ok bs) => (s, .ok (xs ++ [leNat bs]))
          | (s, .bad x a) => (s, .bad x a)
          | (s, .wait) => (s, .wait)
        | r => r) (s, DevRes.ok [])
      match raws with
      | .bad x a => (s, .bad x a)
      | .wait => (s, .wait)
      | .ok xs =>
        let comps := b.components i (leNat pl) xs
        (s, .ok (comps.flatMap fun x => leBytes c.cvWidth x.1, orFlags (comps.map fun x => x.2)))

/-- The next access of a running command: none of its state changes while it must wait for a line. -/
def engAccess (s : State) (c : EngCmd) (r : EngRun) : State × EngRun :=
  let p := r.plane
  let j := r.row
  if r.writing then
    let a := wrapInt 64 ((c.dstRow p j : Int) + r.pos)
    let data := if c.kind = 2 then r.buf.drop 4 else r.buf
    let n := pieceLen (c.granuleBase + a) (c.rowBytes - r.pos)
    let piece := if c.kind = 1 then (List.range n).map fun i => BitVec.ofNat 8 (c.wd 7 / 256 ^ ((r.pos + i) % 8))
      else (data.drop r.pos).take n
    let g := (c.granuleBase + a) / 16
    let got := addBytes (spGet ([], 0) r.pend g) a piece
    let moved := fun (r : EngRun) => if c.rowBytes ≤ r.pos then r.nextRow c else r
    if c.laterMeets p j g then (s, moved { r with pos := r.pos + n, pend := spSet ([], 0) r.pend g got })
    else match engWrite s c (runsOf got.1) 310 with
    | (s, .ok _) => (s, moved { r with pos := r.pos + n, written := r.written + got.2, pend := spErase g r.pend })
    | (s, .bad x _) => (s, { r with failed := some x })
    | (s, .wait) => (s, r)
  else if c.cv then
    match engElement s c ((c.wd 2 + r.pos) % 2 ^ 64) 320 with
    | (s, .ok (bs, fl)) =>
      let r := { r with buf := r.buf ++ bs, flags := r.flags ||| fl, pos := r.pos + 1 }
      (s, if c.n0 ≤ r.pos then { r with writing := true, pos := 0 } else r)
    | (s, .bad x _) => (s, { r with failed := some x })
    | (s, .wait) => (s, r)
  else
    let got := r.buf.length
    let index := c.kind == 2 && decide (got < 4)
    let src := if c.kind = 2 then
        wrapInt 64 ((c.wd 2 : Int) + leNat (r.buf.take 4) * sval 32 (bits (c.wd 5) 31 0))
      else c.srcRow p j
    let a := if index then wrapInt 64 ((c.wd 7 : Int) + 4 * j)
      else wrapInt 64 ((src : Int) + (got - (if c.kind = 2 then 4 else 0) : Nat))
    let n := if index then 4 else pieceLen a (c.rowReads - got)
    match engRead s c c.ssp a n 330 with
    | (s, .ok bs) =>
      let r := { r with buf := r.buf ++ bs }
      (s, if c.rowReads ≤ r.buf.length then { r with writing := true, pos := 0 } else r)
    | (s, .bad x _) => (s, { r with failed := some x })
    | (s, .wait) => (s, r)

/-! ### The steps of an engine -/

/-- The head of a comb's chain replaced. -/
def State.setHead (s : State) (comb : Nat) (c : EngCmd) : State :=
  s.modComb comb fun x => { x with chain := c :: x.chain.drop 1 }

/-- The command that the engine performs when it takes the head: as GO wrote it, or, when software has stored into its
ring entry meanwhile, as it was stored or in error with 0x0D (R198). -/
def ringCommand (s : State) (comb : Nat) (c : EngCmd) : EngCmd × Bool :=
  let ring := (List.range 8).map fun i => BitVec.ofNat 64 (s.num ((s.comb comb).ecbase.toNat + 64 * c.ringSlot + 8 * i) 8)
  if ring = c.words then (c, false)
  else match choose s.tick 340 3 with
    | 0 => (c, false)
    | 1 => ({ c with words := ring }, false)
    | _ => (c, true)

/-- The lines of a command's ring entry. -/
def ringLines (s : State) (comb : Nat) (c : EngCmd) : List Nat := linesOf ((s.comb comb).ecbase.toNat + 64 * c.ringSlot) 64

/-- The run of a command as the engine begins it (R196). -/
def beginRun (c : EngCmd) (spoilt : Bool) : EngRun :=
  let fail := fun (x : Nat) => ({ failed := some x } : EngRun)
  if spoilt || c.bad then fail 0x0D
  else match c.forkErr with
  | some x => fail x
  | none =>
    if c.cv && c.record.isNone then fail 0x0D
    else match (if c.bv then segCheck c.g1 c.bar 32 true else none) with
    | some x => fail x
    | none =>
      if c.n1 = 0 ∨ c.n2 = 0 ∨ c.rowBytes = 0 then { done := true } else { writing := c.kind = 1 }

/-- ENGINE_COMMAND_START: the engine takes the head of its chain (R198), reading its ring entry at the L2 once no outside agent
owns its line (R162, R166), or makes the next access of the command it performs (R197). -/
def execEngineCommandStart (comb : Nat) (s : State) : Host.Outcome State Fault Refusal :=
  if !s.pkg.powered then .next s
  else match (s.comb comb).chain.head? with
  | none => .next s
  | some c =>
    if c.cancel then .next s
    else match c.run with
    | none =>
      let lns := ringLines s comb c
      if lns.any s.readHeld then .next s
      else
        let s := lns.foldl (fun s ln => s.touch (.l2 (towerOf c.core)) 0 ln) s
        let (c, spoilt) := ringCommand s comb c
        .next ((s.flow [.comb comb] (.command (c.id comb))).setHead comb { c with run := some (beginRun c spoilt) })
    | some r =>
      if r.done || r.failed.isSome then .next s
      else
        let (s, r) := engAccess s c r
        .next (s.setHead comb { c with run := some r })

/-- The issuing warp of a command, where it is resident. -/
def State.cmdWarp (s : State) (c : EngCmd) : Option (Nat × Nat × Warp) := s.findWarp c.ctxid c.wtag

/-- The command leaves the chain, and its number is the last completed one; the next command's accesses come after it (R198). -/
def retire (s : State) (comb : Nat) (c : EngCmd) : State :=
  (s.flow [.command (c.id comb)] (.comb comb)).modComb comb fun x => { x with chain := x.chain.drop 1, ecdone := c.seq }

/-- The step on the barrier that a command names (R199, R200). -/
def cmdBarrier (s : State) (c : EngCmd) (written : Nat) (err : Bool) : State :=
  if c.bv && c.bar % 32 == 0 && (segCheck c.g1 c.bar 32 true).isNone then
    (s.joinPhase [.command (c.id (combOf c.core))] c.core (c.g1.base.toNat + c.bar)).barStep c.core (c.g1.base.toNat + c.bar)
      (barComplete written err)
  else s

/-- ENGINE_COMMAND_COMPLETE (R199, R122). -/
def execEngineCommandComplete (comb : Nat) (s : State) : Host.Outcome State Fault Refusal :=
  match (s.comb comb).chain.head? with
  | none => .next s
  | some c =>
    match c.run with
    | none => .next s
    | some r =>
      if s.pkg.powered && r.done && r.failed.isNone && !c.cancel then
        let s := match s.cmdWarp c with
          | some (p, w, _) => raiseFlags s p w r.flags
          | none => s
        .next (retire (cmdBarrier (endProducer s comb c) c r.written false) comb c)
      else .next s

/-- ENGINE_ERROR_COMPLETION (R200). The flags of its conversions reach FLAGS as at any completion (R122). -/
def execEngineErrorCompletion (comb : Nat) (s : State) : Host.Outcome State Fault Refusal :=
  match (s.comb comb).chain.head? with
  | none => .next s
  | some c =>
    match c.run.bind fun r => r.failed.map fun x => (r, x) with
    | none => .next s
    | some (r, cause) =>
      if s.pkg.powered && !c.cancel then
        let s := match s.cmdWarp c with
          | some (p, w, _) => (raiseFlags s p w r.flags).modWarp p w fun x =>
              if x.stg.err.isSome then x else { x with stg := { x.stg with err := some (cause, c.seq) } }
          | none => s
        .next (retire (cmdBarrier (endProducer s comb c) c r.written true) comb c)
      else .next s

/-- ENGINE_COMMAND_CANCEL (R204): a command of a killed workgroup ends at its next granule and steps no barrier. Whether its
number reaches ECDONE as a completed one the spec does not say; the model writes it (DESIGN CHOICE, log 82). -/
def execEngineCommandCancel (comb : Nat) (s : State) : Host.Outcome State Fault Refusal :=
  match (s.comb comb).chain.head? with
  | none => .next s
  | some c => if s.pkg.powered && c.cancel then .next (retire (endProducer s comb c) comb c) else .next s

/-- SEQW (R201). It joins the command (R202). -/
def execSeqw (f : Fields) (s : State) : Host.Outcome State Fault Refusal :=
  issue (.seqw f) f .lanes (fun e s =>
    let v := e.s e.opa 1
    if (s.comb (combOf e.ref.core)).chain.any fun c =>
        c.ctxid == e.w.ctxid && c.wtag == e.w.tag && c.seq.setWidth 64 == v then .park s (.sequence v.toNat)
    else e.guardS s 0xB6 [e.dst] fun _ =>
      let x : W64 := match e.w.stg.err with
        | some (cause, seq) => (seq ++ BitVec.ofNat 32 cause : BitVec 64)
        | none => 0
      .done (e.observe (e.setS (s.modWarp e.ref.core e.ref.slot fun w => { w with stg := { w.stg with err := none } }) e.dst x)
        [.command (combOf e.ref.core * 2 ^ 32 + v.toNat)])) s

end Sys2Proof.Machine
end

