-- ==== Sys2Proof/Machine/Access.lean ====
section
/-!
DEFINITION. What the memory instructions share: lane offsets (spec/08 R183), the checks of all lanes at once (spec/09
R208), staging windows (spec/08 R193), and residency feedback (spec/03 R82, R83).
-/
namespace Sys2Proof.Machine

/-! ### Offsets and checks -/

/-- The segment offset of a lane (R183, R206). -/
def Env.laneOffset (e : Env) (L : Nat) : Nat :=
  let idx : Int := if qv e.f / 8 = 1 then sval 32 (e.operand e.f.bscl e.opb 2 false L) else 0
  wrapInt 64 (((e.s e.opa 1).toNat : Int) + idx * (2 ^ (qv e.f / 2 % 4) : Nat) + simm e.f.imm)

/-- The checks of R208 for the listed lanes, poison included. The cause of the lowest failing lane decides, also when that is
poison and a higher lane fails an earlier step (DESIGN CHOICE, log 105). -/
def checkLanes (s : State) (e : Env) (seg size : Nat) (acc : Acc) (lanes : List Nat) : State × List (Nat × LaneOut) :=
  let (s, outs) := accessLanes s e seg size acc false (lanes.map fun L => (L, e.laneOffset L))
  (s, outs.map fun x => (x.1, withPoison s acc x.2))

/-- The parts of the lanes that passed. -/
def okLanes (outs : List (Nat × LaneOut)) : List (Nat × List Piece) :=
  outs.filterMap fun x => match x.2 with
    | .ok ps => some (x.1, ps)
    | _ => none

/-- Does some lane's line have to be waited for, or that of a pending store of the issuing warp that a lane's store follows
(R157, R166, R223)? -/
def lanesHeld (s : State) (core : Nat) (store : Bool) (xs : List (Nat × List Piece)) : Bool :=
  xs.any fun x => x.2.any fun p => if store then p.storeHeld s (.near core) core s.cur.slot else p.held s (.near core) false
/-- The fragment parks for the lines of its lanes. -/
def parkLanes (s : State) (core : Nat) (store : Bool) (xs : List (Nat × List Piece)) : Res :=
  parkLines (if store then holdPends s core s.cur.slot else s) (.near core) store (xs.flatMap fun x => x.2)

/-- Must the page walk of some lane be waited for, so that its checks are not finished (R208)? -/
def walksHeld (outs : List (Nat × LaneOut)) : Bool := outs.any fun x => x.2 == .held

/-- An instruction that is not partially completing (R208): a wait while a walk or a line is held, a trap when any lane
fails, else its effect on the lanes' parts. -/
def onLanes (core major seg size : Nat) (acc : Acc) (s : State) (outs : List (Nat × LaneOut))
    (k : State → List (Nat × List Piece) → Res) : Res :=
  if walksHeld outs then .park s (.other 166)
  else match accessTrap major seg size acc outs with
  | some t => .trap s [t]
  | none => if lanesHeld s core acc.writes (okLanes outs) then parkLanes s core acc.writes (okLanes outs) else k s (okLanes outs)

/-! ### Staging windows (R193) -/

/-- The slot and the offset in its window of a staging-window access of the map, or none for another access. -/
def stagingAt (core : Nat) (ps : List Piece) : Option (Nat × Nat × Nat) :=
  match ps with
  | [p] => match p.space with
    | .map _ => match mapWindow core p.addr with
      | some (q, o) => if mapRegion o = .staging then some (q, (o - 0xB30000) / 128, (o - 0xB30000) % 128) else none
      | none => none
    | _ => none
  | _ => none

/-- What a lane's store to a staging window is: a CQ store, a GO, or an error of R193. -/
inductive Staged where
  | no
  | cq (j : Nat)
  | go
  | bad (cause : Nat)
  deriving DecidableEq, Repr

def stagedStore (e : Env) (size : Nat) (ps : List Piece) : Staged :=
  match stagingAt e.ref.core ps with
  | none => .no
  | some (q, slot, o) =>
    if q ≠ e.ref.core ∨ slot ≠ e.ref.slot then .bad 2
    else if size = 16 ∧ o < 64 ∧ o % 16 = 0 then .cq (o / 16)
    else if size = 8 ∧ o = 64 then .go
    else .bad 4

/-- The address field of a fault of a lane's store to a staging window. -/
def stagedVa (ps : List Piece) : Nat := (ps.head?.map fun p => p.va).getD 0
/-- The offset of a GO store in its core's window (R390). -/
def goOffset (e : Env) : Nat := 0xB30000 + 128 * e.ref.slot + 64

/-- The offset in the issuing warp's own staging window that a store starts at. -/
def ownStaging (e : Env) (ps : List Piece) : Option Nat :=
  (stagingAt e.ref.core ps).bind fun x => if x.1 = e.ref.core ∧ x.2.1 = e.ref.slot then some x.2.2 else none

/-- The stores of one instruction with those to staging windows judged (R193): a lane's store that breaks R193 fails,
and so does a GO that finds a CQ missing, is not alone or is not zero, or finds no ring. Where lanes would write both a CQ and
GO, all of them fail. -/
def judgeStaging (s : State) (e : Env) (size : Nat) (data : Nat → List Byte) (outs : List (Nat × LaneOut)) :
    List (Nat × LaneOut) :=
  let gos := (okLanes outs).filter fun x => stagedStore e size x.2 == .go
  let places := (okLanes outs).filterMap fun x => ownStaging e x.2
  let both := places.any (fun o => decide (o < 64)) && places.any fun o => decide (64 ≤ o)
  outs.map fun x => match x.2 with
    | .ok ps => (x.1, if both && (ownStaging e ps).isSome then .bad 4 (stagedVa ps) else match stagedStore e size ps with
      | .bad c => .bad c (stagedVa ps)
      | .go =>
        if e.w.stg.mask ≠ 0xF ∨ 1 < gos.length ∨ leNat (data x.1) ≠ 0 then .bad 0x10 (goOffset e)
        else if (s.comb (combOf e.ref.core)).ecbase = 0 then .bad 2 (stagedVa ps)
        else x.2
      | _ => x.2)
    | _ => x

/-- The written mask in the record of a fault 0x10 (R390). -/
def stagingTrap (e : Env) (t : Trap) : Trap := if t.cause = 0x10 then { t with aux := e.w.stg.mask.setWidth 32 } else t

/-- The lanes' stores performed in ascending lane order, so the higher lane remains (R210). A GO forks its command; it
waits while the ring is full (R198). -/
def storeLanes (s : State) (e : Env) (size : Nat) (data : Nat → List Byte) (xs : List (Nat × List Piece)) :
    Except (State × Wait) State :=
  let go := xs.any fun x => stagedStore e size x.2 == .go
  let c := s.comb (combOf e.ref.core)
  if go && decide (c.capacity ≤ c.chain.length) then .error (s, .other 198)
  else
    let parked := holdPends s e.ref.core e.ref.slot
    let s := claimStores s e.ref.core e.ref.slot (xs.flatMap fun x => x.2)
    let s := xs.foldl (fun s x => match stagedStore e size x.2 with
      | .no => storeBytes s e.ref.core e.ref.slot x.2 (data x.1)
      | .cq j => s.modWarp e.ref.core e.ref.slot fun w =>
          { w with stg := { w.stg with cq := modAt (fun _ => BitVec.ofNat 128 (leNat (data x.1))) j w.stg.cq,
                                       mask := w.stg.mask ||| BitVec.ofNat 4 (2 ^ j) } }
      | _ => s) s
    if go then (match goFork s e with
      | some s => .ok s
      | none => .error (parked, .other 166)) else .ok s

/-- A lane of registers as bytes: `n` bytes from v[reg] upward (R212). -/
def Env.regBytes (e : Env) (reg n L : Nat) : List Byte :=
  ((List.range ((n + 3) / 4)).flatMap fun i => leBytes 4 (e.v (reg + i) L 4).toNat).take n

/-- Bytes written to registers from v[reg] upward in a lane, the last word zero-extended (R212). -/
def Env.putBytes (e : Env) (s : State) (reg L : Nat) (bs : List Byte) : State :=
  (List.range ((bs.length + 3) / 4)).foldl (fun s i =>
    e.setV s (reg + i) L (BitVec.ofNat 32 (leNat ((bs.drop (4 * i)).take 4)))) s

/-! ### Map loads (R59) -/

/-- The accesses of a lane's map load, one for each unit: to the registers from v[dst] up of a lane, or to s[dst]. A load of a
staging window is one access. -/
def Piece.loads (dst : Nat) (lane : Option Nat) (p : Piece) : List MapLoad :=
  match p.space with
  | .map c => match mapWindow c p.addr with
    | some (q, o) =>
      let us := if mapRegion o = .staging then [(o, p.len)] else mapUnits o p.len
      us.map fun x =>
        { dst := if lane.isSome then dst + (x.1 - o) / 4 else dst, lane := lane,
          part := if lane.isNone && decide (1 < us.length) then some ((x.1 - o) / 4) else none, core := q, off := x.1, len := x.2 }
    | none => []
  | _ => []

/-- What a map load finds when it reads its unit (R429). -/
def MapLoad.read (s : State) (w : Warp) (m : MapLoad) : List Byte := mapSeen s w (m.lane.getD 0) m.core m.off m.len

/-- The register of a map load receives what it has read (R212, R217). -/
def Env.putLoad (e : Env) (s : State) (m : MapLoad) (bs : List Byte) : State :=
  match m.lane, m.part with
  | some L, _ => e.putBytes s m.dst L bs
  | none, some h => e.setSHalf s m.dst h (BitVec.ofNat 32 (leNat bs))
  | none, none => e.setS s m.dst (BitVec.ofNat 64 (leNat bs))

/-- Is a map load of a warp performed later than its instruction issues? Nothing orders it before the end of its run (R31, R32,
R59), but the warp's own staging window gives the last values stored (R193). -/
def MapLoad.later (t : Nat) (r : FragRef) (m : MapLoad) : Bool :=
  !(m.core == r.core && mapRegion m.off == .staging && (m.off - 0xB30000) / 128 == r.slot) &&
    choose t (2 ^ 52 + m.lane.getD 0 * 2 ^ 26 + m.off) 2 == 1

/-- The map loads of an instruction: some read now, all before a register is written, and the others are still to come. -/
def Env.takeLoads (e : Env) (s : State) (ms : List MapLoad) : State :=
  let got := (ms.filter fun m => !m.later s.tick e.ref).map fun m => (m, m.read s e.w)
  (got.foldl (fun s x => e.putLoad s x.1 x.2) s).modFrag e.ref fun fr =>
    { fr with loads := fr.loads ++ ms.filter fun m => m.later s.tick e.ref }

/-- The bytes of lanes' loads go to the registers from v[dst] up; those of map loads when they are read. -/
def Env.putLoads (e : Env) (s : State) (dst : Nat) (xs : List (Nat × List Piece)) (data : List (Nat × List Byte)) : State :=
  match xs.flatMap fun x => x.2.flatMap (Piece.loads dst (some x.1)) with
  | [] => data.foldl (fun s x => e.putBytes s dst x.1 x.2) s
  | ms => e.takeLoads s ms

/-- A map load of a fragment that is still to come reads its unit. -/
def performLoad (r : FragRef) (s : State) (m : MapLoad) : State :=
  match s.warp r.core r.slot with
  | none => s
  | some w => (mkEnv s.tick r w (w.frag r.entry) (unpack 0)).putLoad s m (m.read s w)

/-- The map loads of a fragment that are still to come read their units. -/
def settleLoads (s : State) (r : FragRef) : State :=
  match (s.frag r).loads with
  | [] => s
  | ms => (ms.foldl (performLoad r) s).modFrag r fun fr => { fr with loads := [] }

/-- The same for every fragment of a warp. -/
def settleWarpLoads (s : State) (core slot : Nat) : State :=
  (List.range 8).foldl (fun s i => settleLoads s ⟨core, slot, i⟩) s

/-- What other warps' map accesses have still to do at the registers of a slot is done, before its warp leaves it (R398). -/
def landMaps (s : State) (core slot : Nat) : State :=
  s.warps.foldl (fun s x =>
    let s := if (x.2.2.frags.any fun fr => fr.loads.any fun m => m.core == core && mapSlot s core m.off == some slot) then
        settleWarpLoads s x.1 x.2.1 else s
    if x.2.2.maps.isEmpty then s
    else
      let here := fun (m : MapStore) => m.offset / 2 ^ 24 == core && mapSlot s core (m.offset % 2 ^ 24) == some slot
      ((x.2.2.maps.filter here).foldl (fun s m => performMap s x.1 x.2.2 m) s).modWarp x.1 x.2.1 fun w =>
        { w with maps := w.maps.filter fun m => !here m }) s

/-! ### Residency feedback (R81 to R83) -/

/-- A report becomes pending for the warp. -/
def State.reportFeedback (s : State) (core slot : Nat) (va level : Nat) : State :=
  s.modWarp core slot fun w => { w with fbs := w.fbs ++ [⟨va, level⟩] }

/-- Where a report goes in its context's feedback window: its page, the byte of its wanted bit and the byte of its level
nibble; none outside the window (R82). -/
def reportPlace (s : State) (cslot va : Nat) : Option (Nat × Nat × Nat) :=
  let pages := s.desc cslot 383 352
  let fbva := s.desc cslot 447 384
  let base := s.desc cslot 319 256
  if va < fbva ∨ pages ≤ (va - fbva) / 65536 then none
  else
    let i := (va - fbva) / 65536
    some (i, base + i / 8, base + (pages / 8 + 63) / 64 * 64 + i / 2)

/-- Must a report wait for an outside agent that holds a line it would write, or one of the descriptor table (R166)? -/
def reportHeld (s : State) (cslot : Nat) (r : FbReport) : Bool :=
  s.tableHeld || s.desc cslot 383 352 != 0 && match reportPlace s cslot r.va with
  | none => s.storeHeld (s.descAddr cslot + 40) 4
  | some (_, bit, nib) => s.storeHeld bit 1 || s.storeHeld nib 1

/-- Does the filter of the slice that homes a wanted bit's line hold a report of a context, a page and a level (R82)? -/
def State.filterHolds (s : State) (ctxid : BitVec 16) (page level bit : Nat) : Bool :=
  s.filter.any fun x => x.ctxid == ctxid && x.page == page && x.level == level && sliceOf (x.line1 * 128) == sliceOf bit

/-- A report is performed, its bit and its nibble at one logical time (R82). The descriptor's fields are read here, when the
report is performed, also for one that arose before a store changed them (DESIGN CHOICE, log 92). -/
def performFeedback (s : State) (tower cslot : Nat) (r : FbReport) : State :=
  if s.desc cslot 383 352 = 0 then s
  else match reportPlace s cslot r.va with
  | none =>
    let drop := s.desc cslot 351 320
    s.devStore .device tower (some false) (s.descAddr cslot + 40) (leBytes 4 (min 0xFFFFFFFF (drop + 1)))
  | some (i, bit, nib) =>
    let ctxid := BitVec.ofNat 16 (s.ctxId cslot)
    if s.filterHolds ctxid (r.va / 65536) r.level bit then s
    else if s.poisoned bit 1 || s.poisoned nib 1 then s
    else
      let s := s.claim (.l2 tower) [lineOf bit, lineOf nib]
      let b := (s.byte bit).toNat
      let s := s.put .filter (some false) bit [BitVec.ofNat 8 (b ||| 2 ^ (i % 8))]
      let n := (s.byte nib).toNat
      let cur := if i % 2 = 0 then n % 16 else n / 16
      let new := min cur r.level
      let n := if i % 2 = 0 then n / 16 * 16 + new else new * 16 + n % 16
      let s := s.put .filter (some false) nib [BitVec.ofNat 8 n]
      { s with filter := s.filter ++ [⟨ctxid, r.va / 65536, r.level, lineOf bit, lineOf nib⟩] }

/-- Must a warp's reports wait (R166)? -/
def reportsHeld (s : State) (w : Warp) : Bool := w.fbs.any (reportHeld s w.cslot)

/-- Every pending report of a warp is performed (R83, R225); one whose line is held stays pending (R166). -/
def performReports (s : State) (core slot : Nat) : State :=
  match s.warp core slot with
  | none => s
  | some w =>
    let out := w.fbs.foldl (fun (x : State × List FbReport) r =>
      if reportHeld x.1 w.cslot r then (x.1, x.2 ++ [r]) else (performFeedback x.1 (towerOf core) w.cslot r, x.2)) (s, [])
    out.1.modWarp core slot fun w => { w with fbs := out.2 }

/-- FEEDBACK_UPDATE: one pending report of a warp is performed (R82, R83). -/
def execFeedbackUpdate (core slot idx : Nat) (s : State) : Host.Outcome State Fault Refusal :=
  match s.warp core slot with
  | none => .next s
  | some w => match w.fbs[idx]? with
    | some r => if s.pkg.powered && !reportHeld s w.cslot r then
        .next ((performFeedback s (towerOf core) w.cslot r).modWarp core slot fun w => { w with fbs := dropAt idx w.fbs })
      else .next s
    | none => .next s

end Sys2Proof.Machine
end

