-- ==== Sys2Proof/Machine/Atomics.lean ====
section
/-!
DEFINITION. Atomics (spec/09 R220 to R222).
-/
namespace Sys2Proof.Machine

/-- The sum of two encodings under RoundTo with rne (R221). -/
def atomSum (m : Fmt) (a b : Nat) : Nat × Nat := roundTo m 0 false ((decodeVal m a).add false (decodeVal m b))

/-- The new memory value of ATOM and its flags (R221); `swap` is the swap value of .cas. -/
def atomNew (f : Fields) (old v swap : Nat) : Nat × Nat :=
  let w := wide f
  let sg := isSigned f
  let lt := decide (ival w sg old < ival w sg v)
  match mv f with
  | 0 => ((old + v) % 2 ^ w, 0)
  | 1 => ((old + (2 ^ w - v)) % 2 ^ w, 0)
  | 2 => (if lt then old else v, 0)
  | 3 => (if lt then v else old, 0)
  | 4 => (old &&& v, 0)
  | 5 => (old ||| v, 0)
  | 6 => (old ^^^ v, 0)
  | 7 => (v, 0)
  | 8 => (if old = v then swap else old, 0)
  | _ =>
    if tv f = 5 then atomSum fmtF32 old v
    else
      let (lo, fl) := atomSum fmtBf16 (old % 65536) (v % 65536)
      let (hi, fl') := atomSum fmtBf16 (old / 65536) (v / 65536)
      (lo + hi * 65536, fl ||| fl')

/-- Atomic lanes one after another in ascending order (R210), their lines claimed: each reads memory as the lower lanes left
it, and its new bytes are stored, if it stores. The old bytes and the flags of each lane come with the state. -/
def atomLanes (e : Env) (step : Nat → List Byte → Option (List Byte) × Nat) :
    State → List (Nat × List Piece) → State × List (Nat × List Byte × Nat)
  | s, [] => (s, [])
  | s, (L, ps) :: rest =>
    let old := loadBytes s (towerOf e.ref.core) e.w ps
    let (new, fl) := step L old
    let s := match new with
      | some bs => storeBytes s e.ref.core e.ref.slot ps bs
      | none => s
    let (s, xs) := atomLanes e step s rest
    (s, (L, old, fl) :: xs)

/-- ATOM and ATOMW: the checks, the lanes at one logical time, and the old values in the registers. An atomic claims its
lines whether or not it stores (R154, R161). -/
def atomAll (e : Env) (s : State) (major size : Nat) (step : Nat → List Byte → Option (List Byte) × Nat) : Res :=
  let (s, outs) := checkLanes s e (e.opc % 8) size .rw e.lanes
  onLanes e.ref.core major (e.opc % 8) size .rw s outs fun s xs =>
    let s := claimStores s e.ref.core e.ref.slot (xs.flatMap fun x => x.2)
    let (s, rs) := atomLanes { e with w := { e.w with stnt := [] } } step s xs
    .done (e.raise (rs.foldl (fun s r => e.putBytes s e.dst r.1 r.2.1) s) (orFlags (rs.map fun r => r.2.2)))

/-- ATOM (R221). -/
def execAtom (f : Fields) (s : State) : Host.Outcome State Fault Refusal :=
  issue (.atom f) f .lanes (fun e s =>
    let size := wide f / 8
    let reg := fun L i => leNat (e.regBytes (e.dst + i * (size / 4)) size L)
    atomAll e s 0x96 size fun L old =>
      let (new, fl) := atomNew f (leNat old) (reg L 0) (if mv f = 8 then reg L 1 else 0)
      (some (leBytes size new), fl)) s

/-- ATOMW (R222): a 16-byte compare and swap, which stores only when it compares equal. -/
def execAtomw (f : Fields) (s : State) : Host.Outcome State Fault Refusal :=
  issue (.atomw f) f .lanes (fun e s =>
    atomAll e s 0x97 16 fun L old =>
      (if old = e.regBytes e.dst 16 L then some (e.regBytes (e.dst + 4) 16 L) else none, 0)) s

end Sys2Proof.Machine
end

