-- ==== Sys2Proof/Machine/CacheOps.lean ====
section
/-!
DEFINITION. Flushing, line locks and LNCLAIM (spec/07 R171 to R176), write-backs and the merge path (spec/04 R90 to
R93), and soft errors of memory and of the register files (spec/04 R94, spec/10 R238, R239).
-/
namespace Sys2Proof.Machine

/-! ### Write-backs (R90 to R93) -/

/-- The block of a line (R87). -/
def blockOf (ln : Nat) : Nat := ln / 2
/-- The controller of a block (R62, R92): one for each HBM4 channel, one for each LPDDR-6 package (log 26). -/
def ctrlOf (block : Nat) : Nat :=
  let a := block * 256
  if inHbm a then a / 2 ^ 36 * 32 + (bits a 18 16 ^^^ bits a 21 19) * 4 + bits a 9 8 else 256 + (a - 2 ^ 41) / 2 ^ 37

/-- A line whose data has been written back. -/
def State.clean (s : State) (ln : Nat) : State := s.setLine ln { s.line ln with dirty := false, backing := none }

/-- The write-back of one line by R90, directly or with its data into a pending entry (R92, R93); none while its
controller's table is full. -/
def writeBack (s : State) (ln : Nat) : Option State :=
  let x := s.line ln
  let b := blockOf ln
  let data := s.bytes (ln * 128) 128
  if s.merges.any fun m => m.block == b then
    some (State.clean { s with merges := s.merges.map fun m =>
      if m.block = b then { m with attr := x.attr, merged := spSet [] m.merged ln data } else m } ln)
  else if x.attr || s.packed.contains b then
    if (s.merges.filter fun m => m.ctrl == ctrlOf b).length < 64 then
      some (State.clean { s with merges := s.merges ++ [⟨ctrlOf b, b, x.attr, [(ln, data)]⟩] } ln)
    else none
  else some (s.clean ln)

/-- WRITE_BACK (R90): a dirty line of the device's own memory. -/
def execWriteBack (line : Nat) (s : State) : Host.Outcome State Fault Refusal :=
  if s.pkg.powered && (s.line line).dirty && (homeTower (line * 128)).isSome then .next ((writeBack s line).getD s)
  else .next s

/-- The bytes of a block as its pending entry encodes them (R92): the lines that have been merged into it, and the other as the
block holds it, which later stores have not reached. -/
def MergeSlot.content (s : State) (m : MergeSlot) : List Byte :=
  [m.block * 2, m.block * 2 + 1].flatMap fun ln => match spGet [] m.merged ln with
    | [] => (s.line ln).backing.getD (s.bytes (ln * 128) 128)
    | bs => bs

/-- MERGE_PATH (R92): the pending entry's block is encoded once, with the attribute of the last write-back that merged
into it, and the entry is freed. Whether a block compresses belongs to the controller (R87). -/
def execMergePath (block : Nat) (s : State) : Host.Outcome State Fault Refusal :=
  match s.merges.find? fun m => m.block == block with
  | none => .next s
  | some m =>
    if !s.pkg.powered then .next s
    else
      let packs := m.attr && Config.compresses block (leNat (m.content s))
      .next { s with merges := s.merges.filter fun m => m.block != block,
                     packed := if packs then setInsert block s.packed else setErase block s.packed }

/-! ### Flushes (R174 to R176) -/

/-- How a line of a flush is translated (R174): no check but that its entry is present, so that the page is found or not, or a
wait of the walk. -/
def flushWalk (s : State) (rd : Reader) (w : Warp) (va : Nat) : State × Option (Option (Nat × Nat)) :=
  if 2 ^ 56 ≤ va then (s, some none)
  else match walk s rd w.ctxid va 200 [4, 3, 2, 1, 0] (s.root w.cslot) with
  | (s, .held) => (s, none)
  | (s, .leaf e l) =>
    if !e.testBit 0 then (s, some none)
    else (s, some (some (if leafKind e = 3 then remoteKey (bits e 61 55) (leafBase e l) else leafBase e l, pageSize l)))
  | (s, _) => (s, some none)

/-- The physical bytes that a virtual range reaches: for each page its virtual address, key and length (R174). -/
def flushRanges (s : State) (rd : Reader) (w : Warp) : List (Nat × Nat) → State × Option (List (Nat × Nat × Nat))
  | [] => (s, some [])
  | (va, n) :: rest =>
    match flushWalk s rd w va with
    | (s, none) => (s, none)
    | (s, some page) =>
      let (s, more) := flushRanges s rd w rest
      (s, more.map fun rs => (page.map fun p => (va, p.1 + va % p.2, n)).toList ++ rs)

/-- The whole page that translates an address (R174). -/
def flushPage (s : State) (rd : Reader) (w : Warp) (va : Nat) : State × Option (List (Nat × Nat × Nat)) :=
  let (s, page) := flushWalk s rd w va
  (s, page.map fun p => (p.map fun p => (va / p.2 * p.2, p.1, p.2)).toList)

/-- The virtual bytes of a flush's extent: for prv the run that the same offsets of every lane form (R79, log 27). -/
def flushSpan (e : Env) (n o len : Nat) : Nat × Nat :=
  let g := e.seg n
  if n = 2 then
    let lo := g.base.toNat + o / 4 * e.w.width * 4
    (lo, ((o + len - 1) / 4 + 1 - o / 4) * e.w.width * 4)
  else (g.base.toNat + o, len)

/-- The lines of a physical range of which the device keeps anything. A line it keeps nothing of has all its tokens at
home, no copies and no dirty data. -/
def knownLines (s : State) (key n : Nat) : List Nat :=
  (s.lines.map fun x => x.1).filter fun ln => decide (ln * 128 < key + n) && decide (key < ln * 128 + 128)

/-- CFLUSH on one line (R175): its data is written back, and under .inv and .cinv every token returns home and the
package's leases and copies end; none while the write-back must wait. A poisoned line stays as it is (R170). -/
def flushLine (inv : Bool) (s : State) (ln : Nat) : Option State :=
  if s.poison.contains ln then some s
  else
    let s? := if (s.line ln).dirty then (if isRemote (ln * 128) then some (s.clean ln) else writeBack s ln) else some s
    s?.map fun s =>
      if inv then
        let s := s.recallBoth ln
        s.setLine ln { s.line ln with proxy0 := none, proxy1 := none }
      else s

/-- CFLUSH on a list of lines, as far as write-backs are accepted; the flag says that every line is done. -/
def flushLines (inv : Bool) : State → List Nat → State × Bool
  | s, [] => (s, true)
  | s, ln :: rest =>
    match flushLine inv s ln with
    | none => (s, false)
    | some s => flushLines inv s rest

/-- The extent of a flush (R174): the checks of R77, then the physical ranges with their virtual addresses. -/
def withExtent (e : Env) (s : State) (major extent : Nat) (k : State → List (Nat × Nat × Nat) → Res) : Res :=
  let o := e.offset
  let len := if extent = 1 then (e.s e.opb 2).toNat else 1
  let n := e.opc % 8
  if extent = 1 ∧ len = 0 then .done s
  else match segCheck (e.seg n) o len false with
  | some c =>
    let g := e.seg n
    let va := if n = 2 then prvAddr g.base.toNat e.w.width 0 o else g.base.toNat + o
    .trap s [{ cause := c, va := BitVec.ofNat 64 va, aux := BitVec.ofNat 32 (n + 256 * (len % 65536)), acc := 1,
               lanes := e.active, unit := unitOf major }]
  | none =>
    let (va, len) := flushSpan e n o len
    let rd : Reader := .near e.ref.core
    match (if extent = 2 then flushPage s rd e.w va else flushRanges s rd e.w (splitPages va len)) with
    | (s, none) => .park s (.other 166)
    | (s, some rs) => k s rs

/-- CFLUSH (R174, R175). -/
def execCflush (f : Fields) (s : State) : Host.Outcome State Fault Refusal :=
  issue (.cflush f) f .lanes (fun e s =>
    withExtent e s 0x9E (mv f / 4) fun s rs =>
      match flushLines (mv f % 4 != 1) s (rs.flatMap fun r => knownLines s r.2.1 r.2.2) with
      | (s, true) => .done s
      | (s, false) => .park s (.other 175)) s

/-- IFLUSH (R176): the lines leave every quarter's instruction cache in the package. -/
def execIflush (f : Fields) (s : State) : Host.Outcome State Fault Refusal :=
  issue (.iflush f) f .lanes (fun e s =>
    withExtent e s 0x9F 1 fun s rs =>
      let hit := fun (x : ICLine) => rs.any fun r =>
        meets r.2.1 r.2.2 x.pa 64 || (x.ctxid == e.w.ctxid && meets r.1 r.2.2 x.va 64)
      .done { s with cores := s.cores.map fun k => { k with icache := k.icache.filter fun x => !hit x } }) s

/-! ### Line locks (R172, R173) -/

/-- The locks that a slice holds. -/
def slLocks (s : State) (slice : Nat) : Nat := (s.locks.filter fun x => sliceOf (x.1 * 128) == slice).length
/-- The workgroup that holds a line's lock. -/
def lockOwner (s : State) (ln : Nat) : Option Nat := (s.locks.find? fun x => x.1 == ln).map fun x => x.2

/-- A lock is taken for a waiting fragment's workgroup, an atomic step at the line's home with its time (R172, R173). Every
fragment of the workgroup that waits for the line goes on. -/
def takeLock (s : State) (w : Waiter) : State :=
  State.writeTimes { s with locks := s.locks ++ [(w.key, w.wg)],
                            lockWait := s.lockWait.filter fun x => !(x.key == w.key && x.wg == w.wg) }
    (towerOf w.ref.core) [w.key]

/-- An entry of a slice's table is free: the oldest waiter of the slice for a line whose lock is free takes it (R173). -/
def grantLock (s : State) (slice : Nat) : State :=
  match s.lockWait.find? fun w => sliceOf (w.key * 128) == slice && (lockOwner s w.key).isNone with
  | none => s
  | some w => if slLocks s slice < 32 then takeLock s w else s

/-- A line's lock is released by a tower, with its time: its own oldest waiter takes it, or else one that waits for an entry
of the slice's table (R172, R173). -/
def freeLock (s : State) (t ln : Nat) : State :=
  let s := State.writeTimes { s with locks := s.locks.filter fun x => x.1 != ln } t [ln]
  match s.lockWait.find? fun w => w.key == ln with
  | some w => takeLock s w
  | none => grantLock s (sliceOf (ln * 128))

/-- Every lock of a workgroup is released from a tower (R360, R361). -/
def releaseLocks (s : State) (t wg : Nat) : State :=
  let mine := s.locks.filter fun x => x.2 == wg
  let s := { s with lockWait := s.lockWait.filter fun w => w.wg != wg }
  mine.foldl (fun s x => freeLock s t x.1) s

/-- The line that LLOCK and LUNLK name (R172): its number, or a trap. -/
def lockLine (e : Env) (s : State) (major : Nat) (k : State → Nat → Res) : Res :=
  match laneAccess s e (e.opc % 8) e.offset 0 1 .rd false with
  | (s, .ok [p]) =>
    if isRemote p.addr then
      .trap s [{ cause := 2, va := BitVec.ofNat 64 p.va, aux := BitVec.ofNat 32 (e.opc % 8 + 256), acc := 1,
                 lanes := e.active, unit := unitOf major }]
    else k s (lineOf p.addr)
  | (s, .held) => .park s (.other 166)
  | (s, x) => match accessTrap major (e.opc % 8) 1 .rd [(0, x)] with
    | some t => .trap s [{ t with lanes := e.active }]
    | none => .trap s [regTrap e major]

/-- LLOCK (R172, R173). A fragment that waits stands in the line's waiting order until the lock has been taken for it. -/
def execLlock (f : Fields) (s : State) : Host.Outcome State Fault Refusal :=
  issue (.llock f) f .lanes (fun e s =>
    let waits := fun (s : State) (p : Waiter → Bool) => s.lockWait.any fun w => w.ref == e.ref && w.wtag == e.w.tag && p w
    if e.fr.wait = some (.other 172) then (if waits s fun _ => true then .park s (.other 172) else .done s)
    else lockLine e s 0xA0 fun s ln =>
      if lockOwner s ln = some e.w.wg then .done s
      else
        let s := grantLock { s with lockWait := s.lockWait ++ [⟨e.ref, e.w.tag, e.w.wg, ln⟩] } (sliceOf (ln * 128))
        if waits s fun w => w.key == ln then .park s (.other 172) else .done s) s

/-- LUNLK (R172). -/
def execLunlk (f : Fields) (s : State) : Host.Outcome State Fault Refusal :=
  issue (.lunlk f) f .lanes (fun e s =>
    lockLine e s 0xA1 fun s ln =>
      .done (if lockOwner s ln = some e.w.wg then freeLock s (towerOf e.ref.core) ln else s)) s

/-- LNCLAIM (R171): the whole line is written and its poison mark cleared. -/
def execLnclaim (f : Fields) (s : State) : Host.Outcome State Fault Refusal :=
  issue (.lnclaim f) f .lanes (fun e s =>
    let n := e.opc % 8
    let o := e.offset
    let out := fun (s : State) (x : LaneOut) => match accessTrap 0xF4 n 128 .wr [(0, x)] with
      | some t => Res.trap s [{ t with lanes := e.active }]
      | none => .trap s [regTrap e 0xF4]
    if o % 128 ≠ 0 then out s (.bad 4 ((e.seg n).base.toNat + o))
    else match laneAccess s e n o 0 128 .wr false with
    | (s, .held) => .park s (.other 166)
    | (s, .ok ps) =>
      if ps.any (Piece.storeHeld s (.near e.ref.core) e.ref.core e.ref.slot) then
        parkLines (holdPends s e.ref.core e.ref.slot) (.near e.ref.core) true ps
      else
        let data := (List.replicate 16 (leBytes 8 (e.s e.opb 2).toNat)).flatten
        let s := storeBytes (claimStores s e.ref.core e.ref.slot ps) e.ref.core e.ref.slot ps data
        .done (ps.foldl (fun s p => { s with poison := (linesOf p.addr p.len).foldl (fun ls ln => setErase ln ls) s.poison }) s)
    | (s, x) => out s x) s

/-! ### Soft errors -/

/-- UNCORRECTABLE_SOFT_ERROR (R94, R169): which lines are poisoned, and one event. An error in a near cache loses a line
only where the cache held its owner token; of a line of an outside agent only the caches can lose data. -/
def execUncorrectableSoftError (place : ErrorPlace) (line : Nat) (s : State) : Host.Outcome State Fault Refusal :=
  let own := (homeTower (line * 128)).isSome && !inMetadata (line * 128)
  let cached := isRemote (line * 128) && (match place with
    | .l2 => true
    | .nearCache _ => true
    | _ => false)
  if !s.pkg.powered || !(own || cached) then .next s
  else
    let one := s.poisonLine line 0xFF 1
    match place with
    | .l2 => .next one
    | .nearCache core =>
      if (((s.line line).bank (towerOf core)).held core).any fun h => h.owner then .next one else .next s
    | _ =>
      if s.packed.contains (blockOf line) then
        .next { one with poison := setInsert (blockOf line * 2) (setInsert (blockOf line * 2 + 1) one.poison) }
      else .next one

/-- The unit that an event of a register word names (R389, R425): that of its register file (log 25). -/
def wordUnit : RegWord → Nat
  | .vec _ _ => 1
  | .cell _ _ => 4
  | _ => 0

/-- Does a core have a word of this name (R46, R228, R289)? -/
def wordExists : RegWord → Bool
  | .vec lane reg => decide (lane < 2048) && decide (reg < 256)
  | .sca slot reg half => decide (slot < 128) && decide (reg < 128) && decide (half < 2)
  | .msk slot reg half => decide (slot < 128) && decide (0 < reg) && decide (reg < 8) && decide (half < 2)
  | .cell cell word => decide (cell < 2048) && decide (word < 128)

/-- REGISTER_SOFT_ERROR (R238): a word holds one bit in error, or more than its code corrects. -/
def execRegisterSoftError (core : Nat) (word : RegWord) (double : Bool) (s : State) : Host.Outcome State Fault Refusal :=
  if s.pkg.powered && s.running core && wordExists word then
    .next (s.modCore core fun k =>
      if k.bad.contains word then k
      else if double || k.weak.contains word then { k with bad := k.bad ++ [word], weak := k.weak.filter (· != word) }
      else { k with weak := k.weak ++ [word] })
  else .next s

/-- SCRUB (R239): a word visited by the scrubber. -/
def execScrub (core : Nat) (word : RegWord) (s : State) : Host.Outcome State Fault Refusal :=
  if s.pkg.powered && s.running core then
    let k := s.core core
    if k.bad.contains word then .next (s.bbEvent 6 core 0 (wordUnit word + 256 * wordOffset core word))
    else if k.weak.contains word then .next (s.modCore core fun k => { k with weak := k.weak.filter (· != word) })
    else .next s
  else .next s

end Sys2Proof.Machine
end

