-- ==== Sys2Proof/Machine/Tables.lean ====
section
/-!
DEFINITION. The fixed tables of the special functions (spec/11 R271 to R273): Q(v), the real value v rounded to nearest
even to 40 significant bits. Each real is computed in fixed point with 200 fraction bits, whose error is far below
the rounding of Q.
-/
namespace Sys2Proof.Machine

/-- The number of fraction bits of the fixed-point computations. -/
def fxp : Nat := 200
/-- One in fixed point. -/
def fxOne : Nat := 2 ^ fxp
def fxMul (a b : Nat) : Nat := a * b / fxOne
def fxDiv (a b : Nat) : Nat := a * fxOne / b

/-- Q of a fixed-point number (R271). -/
def fxQ (x : Nat) : Frac :=
  if x = 0 then ⟨0, 1⟩
  else
    let k := Nat.log2 x
    if k < 40 then ⟨x, fxOne⟩
    else
      let (y, _) := roundNat 0 false x (2 ^ (k - 39))
      ⟨(y * 2 ^ (k - 39) : Nat), fxOne⟩

/-- Σ over j < n of (−1)^(j · alt) x^(2j + odd) / (2j + odd): the series of atan and atanh. `p` is the power. -/
def fxArc (alt : Bool) (x2 : Nat) : Nat → Nat → Nat → Int
  | 0, _, _ => 0
  | n + 1, k, p => (p / k : Nat) + (if alt then -1 else 1) * fxArc alt x2 n (k + 2) (fxMul p x2)

/-- Σ over j < n of (±1)^j t_j with t_(j+1) = t_j · x2 / ((k + 1)(k + 2)): the series of sin, cos, sinh and cosh. -/
def fxTrig (alt : Bool) (x2 : Nat) : Nat → Nat → Nat → Int
  | 0, _, _ => 0
  | n + 1, k, t => (t : Int) + (if alt then -1 else 1) * fxTrig alt x2 n (k + 2) (fxMul t x2 / ((k + 1) * (k + 2)))

/-- Σ over j of x^j / j!. -/
def fxExpSum (x : Nat) : Nat → Nat → Nat → Nat
  | 0, _, _ => 0
  | n + 1, k, t => t + fxExpSum x n (k + 1) (fxMul t x / (k + 1))

/-- ln 2 = 2 atanh(1/3). -/
def fxLn2 : Nat := 2 * (fxArc false (fxOne / 9) 66 1 (fxOne / 3)).toNat
/-- π = 16 atan(1/5) − 4 atan(1/239). -/
def fxPi : Nat :=
  (16 * fxArc true (fxOne / 25) 46 1 (fxOne / 5) - 4 * fxArc true (fxOne / 57121) 16 1 (fxOne / 239)).toNat
/-- ln of a fixed-point number in [1, 2). -/
def fxLn (x : Nat) : Nat :=
  let z := fxDiv (x - fxOne) (x + fxOne)
  2 * (fxArc false (fxMul z z) 66 1 z).toNat
/-- sin and cos of a fixed-point number in [0, π / 2]. -/
def fxSin (x : Nat) : Nat := (fxTrig true (fxMul x x) 34 1 x).toNat
def fxCos (x : Nat) : Nat := (fxTrig true (fxMul x x) 34 0 fxOne).toNat
/-- e^x of a fixed-point number below 1. -/
def fxExp (x : Nat) : Nat := fxExpSum x 48 0 fxOne

/-- T of RSQ (R273): Q(1 / √c) with c = (4097 + 2j) / 4096 × 2^p. -/
def tabRsq (i : Nat) : Frac :=
  let c := (4097 + 2 * (i % 2048)) * 2 ^ (i / 2048)
  fxQ (isqrt (4096 * fxOne * fxOne / c))
/-- T and L of EXP2. -/
def tabExp2 (i : Nat) : Frac := fxQ (fxExp (fxLn2 * i / 4096))
def tabLn2 : Frac := fxQ fxLn2
/-- A and D of LOG2 for c = 1 + i / 4096. -/
def tabLog2A (i : Nat) : Frac := fxQ (fxDiv (fxLn (fxOne + fxOne * i / 4096)) fxLn2)
def tabLog2D (i : Nat) : Frac := fxQ (fxDiv fxOne (fxMul (fxOne + fxOne * i / 4096) fxLn2))
/-- S, K and P of SINPI. -/
def tabSin (i : Nat) : Frac := fxQ (fxSin (fxPi * i / 8192))
def tabCos (i : Nat) : Frac := fxQ (fxMul fxPi (fxCos (fxPi * i / 8192)))
def tabSin2 (i : Nat) : Frac := fxQ (fxMul (fxMul fxPi fxPi) (fxSin (fxPi * i / 8192)) / 2)
/-- c of TANH: 2^b × (1 + (j + 0.5) / 256) for index (b + 12) × 256 + j. -/
def tanhC (i : Nat) : Frac := ⟨((513 + 2 * (i % 256)) * 2 ^ (i / 256) : Nat), 512 * 4096⟩
/-- tanh c in fixed point: (e^(2c) − 1) / (e^(2c) + 1), with e^(2c) = 2^k e^r. -/
def fxTanh (i : Nat) : Nat :=
  let x := fxOne * 2 * (tanhC i).num.natAbs / (tanhC i).den
  let k := x / fxLn2
  let ex := fxExp (x - k * fxLn2) * 2 ^ k
  fxDiv (ex - fxOne) (ex + fxOne)
/-- S, D and H of TANH. -/
def tabTanhS (i : Nat) : Frac := fxQ (fxTanh i)
def tabTanhD (i : Nat) : Frac := fxQ (fxOne - fxMul (fxTanh i) (fxTanh i))
def tabTanhH (i : Nat) : Frac := fxQ (fxMul (fxTanh i) (fxOne - fxMul (fxTanh i) (fxTanh i)))

end Sys2Proof.Machine
end

