-- ==== Sys2Proof/Machine/SpecialFn.lean ====
section
/-!
DEFINITION. The special functions as functions of an f32 encoding (spec/11 R270 to R274).
-/
namespace Sys2Proof.Machine

/-- A result of f32 with its flags. -/
abbrev F32Res := Nat × Nat

def f32Inf (neg : Bool) : Nat := fmtF32.withSign neg fmtF32.infBits
def f32Zero (neg : Bool) : Nat := fmtF32.withSign neg 0

/-- Finish(y, e, σ) of R271, for a positive fraction. -/
def finishFn (y : Frac) (e : Int) (neg : Bool) : F32Res :=
  let n := y.num.natAbs
  let k := flog2 n y.den
  let (a, b) := inUnits n y.den (k - 23)
  let m := a / b
  let be := k + e + 127
  if 255 ≤ be then (f32Inf neg, flOvf)
  else if be ≤ 0 then (f32Zero neg, flUnf)
  else (fmtF32.withSign neg (be.toNat * 2 ^ 23 + (m - 2 ^ 23)), 0)

/-- What every special function does with a NaN, and otherwise with the value (R271). -/
def withNumber (raw : Nat) (k : Val → F32Res) : F32Res :=
  match decodeVal fmtF32 raw with
  | .nan i => (fmtF32.cnan, flagIf i flInv)
  | v => k v

/-- NaN with invalid. -/
def f32Invalid : F32Res := (fmtF32.cnan, flInv)

/-- |a| = m × 2^e with 1 ≤ m < 2, for a finite non-zero value. -/
def mantissa (n d : Nat) : Frac × Int :=
  let e := flog2 n d
  let (a, b) := inUnits n d e
  (⟨a, b⟩, e)

/-- 2^n as a value, for an exact result. -/
def pow2Frac (n : Int) : Frac := if 0 ≤ n then ⟨(2 ^ n.toNat : Nat), 1⟩ else ⟨1, 2 ^ (-n).toNat⟩

/-- floor(x × k) of a non-negative fraction. -/
def indexOf (x : Frac) (k : Nat) : Nat := (x.mul (.ofNat k)).floor.toNat

/-- RCP (R272, R274). -/
def fnRcp (raw : Nat) : F32Res := withNumber raw fun v =>
  match v with
  | .fin neg n d =>
    if n = 0 then (f32Inf neg, flDz)
    else
      let (m, e) := mantissa n d
      if m.num = m.den then finishFn (.ofNat 1) (-e) neg
      else
        let i := indexOf (m.sub (.ofNat 1)) 4096
        let t := (roundNat 0 false (2 ^ 37) (8193 + 2 * i)).1
        let y0 : Frac := ⟨t, 2 ^ 24⟩
        finishFn (y0.mul ((Frac.ofNat 2).sub (m.mul y0))) (-e) neg
  | .inf neg => (f32Zero neg, 0)
  | .nan _ => (fmtF32.cnan, 0)

/-- RSQ (R273, R274). -/
def fnRsq (raw : Nat) : F32Res := withNumber raw fun v =>
  match v with
  | .fin neg n d =>
    if n = 0 then (f32Inf neg, flDz)
    else if neg then f32Invalid
    else
      let (m, e) := mantissa n d
      let k := e / 2
      let p := (e % 2).toNat
      let m' := m.mul (.ofNat (2 ^ p))
      if m'.num = m'.den then finishFn (.ofNat 1) (-k) false
      else
        let j := indexOf (m.sub (.ofNat 1)) 2048
        let t := tabRsq (p * 2048 + j)
        let y := (t.mul ((Frac.ofNat 3).sub ((m'.mul t).mul t))).mul ⟨1, 2⟩
        finishFn y (-k) false
  | .inf neg => if neg then f32Invalid else (0, 0)
  | .nan _ => (fmtF32.cnan, 0)

/-- SQRT (R270), rounded under a mode. -/
def fnSqrt (mode raw : Nat) : F32Res := withNumber raw fun v =>
  match v with
  | .fin neg n d => if n = 0 then (f32Zero neg, 0) else if neg then f32Invalid else roundTo fmtF32 mode false (sqrtVal n d)
  | .inf neg => if neg then f32Invalid else (f32Inf false, 0)
  | .nan _ => (fmtF32.cnan, 0)

/-- EXP2 (R273, R274). -/
def fnExp2 (raw : Nat) : F32Res := withNumber raw fun v =>
  match v with
  | .fin _ _ _ =>
    let a := v.toFrac
    if (Frac.ofNat 128).le a then (f32Inf false, flOvf)
    else if a.lt ⟨-126, 1⟩ then (0, flUnf)
    else
      let n := a.floor
      let g := a.sub ⟨n, 1⟩
      if g.num = 0 then finishFn (.ofNat 1) n false
      else
        let i := indexOf g 4096
        finishFn ((tabExp2 i).mul ((Frac.ofNat 1).add ((g.sub ⟨i, 4096⟩).mul tabLn2))) n false
  | .inf neg => if neg then (0, 0) else (f32Inf false, 0)
  | .nan _ => (fmtF32.cnan, 0)

/-- LOG2 (R273, R274). -/
def fnLog2 (raw : Nat) : F32Res := withNumber raw fun v =>
  match v with
  | .fin neg n d =>
    if n = 0 then (f32Inf true, flDz)
    else if neg then f32Invalid
    else
      let (m, e) := mantissa n d
      if m.num = m.den then (roundTo fmtF32 0 false (if e = 0 then .fin false 0 1 else Val.ofInt e))
      else
        let i := indexOf (m.sub (.ofNat 1)) 4096
        let c : Frac := ⟨(4096 + i : Nat), 4096⟩
        let u := m.sub c
        let dd := tabLog2D i
        let y := (((⟨e, 1⟩ : Frac).add (tabLog2A i)).add (u.mul dd)).sub (((u.mul u).mul dd).div (c.mul (.ofNat 2)))
        if y.num = 0 then (0, 0) else finishFn ⟨y.num.natAbs, y.den⟩ 0 (decide (y.num < 0))
  | .inf neg => if neg then f32Invalid else (f32Inf false, 0)
  | .nan _ => (fmtF32.cnan, 0)

/-- SINPI of an exact real (R273); an exact zero has the sign `zneg`. -/
def sinpiOf (a : Frac) (zneg : Bool) : F32Res :=
  let t := a.sub ⟨2 * (a.mul ⟨1, 2⟩).floor, 1⟩
  let (t, neg) := if (Frac.ofNat 1).le t then (t.sub (.ofNat 1), true) else (t, false)
  let t := if (⟨1, 2⟩ : Frac).lt t then (Frac.ofNat 1).sub t else t
  if t.num = 0 then (f32Zero zneg, 0)
  else if 2 * t.num = t.den then (fmtF32.withSign neg 0x3F800000, 0)
  else
    let i := indexOf t 8192
    let h := t.sub ⟨i, 8192⟩
    finishFn (((tabSin i).add (h.mul (tabCos i))).sub ((h.mul h).mul (tabSin2 i))) 0 neg

/-- SINPI (R273, R274). -/
def fnSinpi (raw : Nat) : F32Res := withNumber raw fun v =>
  match v with
  | .fin neg _ _ => sinpiOf v.toFrac neg
  | .inf _ => f32Invalid
  | .nan _ => (fmtF32.cnan, 0)

/-- COSPI (R273, R274). -/
def fnCospi (raw : Nat) : F32Res := withNumber raw fun v =>
  match v with
  | .fin _ _ _ => sinpiOf (v.toFrac.add ⟨1, 2⟩) false
  | .inf _ => f32Invalid
  | .nan _ => (fmtF32.cnan, 0)

/-- TANH (R273, R274). -/
def fnTanh (raw : Nat) : F32Res := withNumber raw fun v =>
  match v with
  | .fin neg n d =>
    let a : Frac := ⟨n, d⟩
    if n = 0 then (f32Zero neg, 0)
    else if a.lt ⟨1, 4096⟩ then finishFn a 0 neg
    else if (Frac.ofNat 16).le a then (fmtF32.withSign neg 0x3F800000, 0)
    else
      let (m, b) := mantissa n d
      let i := (b + 12).toNat * 256 + indexOf (m.sub (.ofNat 1)) 256
      let h := a.sub (tanhC i)
      finishFn (((tabTanhS i).add (h.mul (tabTanhD i))).sub ((h.mul h).mul (tabTanhH i))) 0 neg
  | .inf neg => (fmtF32.withSign neg 0x3F800000, 0)
  | .nan _ => (fmtF32.cnan, 0)

end Sys2Proof.Machine
end

