-- ==== Sys2Proof/Machine/MatNum.lean ====
section
/-!
DEFINITION. The sums of the matrix unit (spec/05 R123 to R125, spec/14 R288) and recompression (spec/14 R312 to R314),
over FP32 encodings as numbers.
-/
namespace Sys2Proof.Machine

/-! ### Dot (R123, R124, R288) -/

/-- A value of FP32. -/
def f32Val (x : Nat) : Val := decodeVal fmtF32 x
/-- Rounding to FP32 to nearest even. -/
def f32Round (x : Val) : Nat × Nat := roundTo fmtF32 0 false x

/-- The exact sum of one group's products, in which both infinities, like a NaN that is invalid, make it invalid (R124). -/
def groupSum (ps : List Val) : Val :=
  let both := ps.any (fun p => p == .inf false) && ps.any (fun p => p == .inf true)
  if both || ps.any Val.isNan then .nan (both || ps.any Val.isSig)
  else match ps with
    | [] => .fin false 0 1
    | p :: rest => rest.foldl (Val.add false) p

/-- The groups of sixteen added into an accumulator, each addition rounded once: value and flags (R123). -/
def dotGroups : Nat → Nat → List Val → Nat × Nat
  | 0, c, _ => (c, 0)
  | n + 1, c, ps =>
    if ps.isEmpty then (c, 0)
    else
      let (c, fl) := f32Round ((f32Val c).add false (groupSum (ps.take 16)))
      let (c, fl') := dotGroups n c (ps.drop 16)
      (c, fl ||| fl')

/-- Dot over exact operand values (R288). -/
def dotVals (c : Nat) (xs ys : List Val) : Nat × Nat := dotGroups 16 c (List.zipWith Val.mul xs ys)
/-- Dot over FP32 encodings. -/
def dot (c : Nat) (xs ys : List Nat) : Nat × Nat := dotVals c (xs.map f32Val) (ys.map f32Val)
/-- The integer accumulation of type 14 (R125). -/
def dotInt (c : Nat) (xs ys : List Int) : Nat := wrapInt 32 ((List.zipWith (· * ·) xs ys).foldl (· + ·) (sval 32 c))

/-- One row of results from a row of the left operand and the columns of the right: values and flags. -/
def dotRow (c : List Nat) (x : List Nat) (cols : List (List Nat)) : List Nat × Nat :=
  let rs := List.zipWith (fun c y => dot c x y) c cols
  (rs.map fun r => r.1, orFlags (rs.map fun r => r.2))

/-- The columns of a list of rows of `n` elements. -/
def columns (n : Nat) (rows : List (List Nat)) : List (List Nat) :=
  (List.range n).map fun j => rows.map fun r => (r[j]?).getD 0

/-! ### Recompression (R313): a value that is not finite ends it -/

/-- A rounded value, none when it is not finite. -/
def finite (x : Nat) : Option Nat := if x / 2 ^ 23 % 256 = 255 then none else some x
/-- One rounding. -/
def rnd (x : Val) : Option Nat := finite (f32Round x).1
/-- Dot from +0. -/
def dotO (xs ys : List Nat) : Option Nat := finite (dot 0 xs ys).1
/-- The correctly rounded square root. -/
def sqrtO (x : Nat) : Option Nat := finite (fnSqrt 0 x).1
/-- A quotient rounded once. -/
def quoO (x y : Val) : Option Nat := rnd (divVal x y).1
/-- An FP32 value that is zero. -/
def isZeroF (x : Nat) : Bool := x % 2 ^ 31 == 0
/-- The FP32 encoding of 1. -/
def oneF : Nat := 0x3F800000

/-- A list of optional values, none when one is. -/
def allSome {α : Type} : List (Option α) → Option (List α)
  | [] => some []
  | none :: _ => none
  | some x :: xs => (allSome xs).map fun ys => x :: ys

/-- A column with an earlier direction taken out, and its component (R313, MGS). -/
def mgsOut (w q : List Nat) : Option (List Nat × Nat) :=
  (dotO q w).bind fun r =>
    (allSome (List.zipWith (fun x y => rnd ((f32Val x).add false (Val.neg ((f32Val r).mul (f32Val y))))) w q)).map
      fun w => (w, r)

/-- A column with all earlier directions taken out in turn, and its components. -/
def mgsColumn : List (List Nat) → List Nat → List Nat → Option (List Nat × List Nat)
  | [], w, rs => some (w, rs)
  | q :: qs, w, rs => (mgsOut w q).bind fun x => mgsColumn qs x.1 (rs ++ [x.2])

/-- MGS (R313): the columns of Q and of R, each column of R of length `n`. -/
def mgs (n : Nat) : List (List Nat) → List (List Nat) → List (List Nat) → Option (List (List Nat) × List (List Nat))
  | [], qs, rs => some (qs, rs)
  | x :: xs, qs, rs =>
    (mgsColumn qs x []).bind fun (w, col) =>
      ((dotO w w).bind sqrtO).bind fun d =>
        (if isZeroF d then some (w.map fun _ => 0) else allSome (w.map fun y => quoO (f32Val y) (f32Val d))).bind fun q =>
          mgs n xs (qs ++ [q]) (rs ++ [(col ++ [d] ++ List.replicate n 0).take n])

/-- Two columns rotated by (c, s) (R313). -/
def rotate (c s : Nat) (x y : List Nat) : Option (List Nat × List Nat) :=
  let cv := f32Val c
  let sv := f32Val s
  (allSome (List.zipWith (fun x y => rnd ((cv.mul (f32Val x)).add false (Val.neg (sv.mul (f32Val y))))) x y)).bind fun p =>
    (allSome (List.zipWith (fun x y => rnd ((sv.mul (f32Val x)).add false (cv.mul (f32Val y)))) x y)).map fun q => (p, q)

/-- The rotation (c, s) for α, β and γ ≠ 0 (R313). -/
def rotation (a b g : Nat) : Option (Nat × Nat) :=
  let one := f32Val oneF
  let two := Val.fin false 2 1
  (quoO ((f32Val b).add false (Val.neg (f32Val a))) (two.mul (f32Val g))).bind fun z =>
    let zv := f32Val z
    let za := f32Val (z % 2 ^ 31)
    let big := !za.lt (.fin false (2 ^ 60) 1)
    let neg := zv.lt (.fin false 0 1)
    (if big then quoO one (two.mul zv)
     else (rnd (one.add false (zv.mul zv))).bind fun u => (sqrtO u).bind fun u => (rnd (za.add false (f32Val u))).bind fun u =>
       quoO (if neg then one.neg else one) (f32Val u)).bind fun t =>
      let tv := f32Val t
      ((rnd (one.add false (tv.mul tv))).bind sqrtO).bind fun u => (quoO one (f32Val u)).bind fun c =>
        (rnd ((f32Val c).mul tv)).map fun s => (c, s)

/-- A column of a matrix. -/
def colAt (m : List (List Nat)) (j : Nat) : List Nat := (m[j]?).getD []
/-- Two columns replaced. -/
def setCols (m : List (List Nat)) (p q : Nat) (x y : List Nat) : List (List Nat) :=
  modAt (fun _ => y) q (modAt (fun _ => x) p m)

/-- One pair of columns of S and J rotated, when γ is not zero (R313). -/
def sweepPair (sj : List (List Nat) × List (List Nat)) (p q : Nat) : Option (List (List Nat) × List (List Nat)) :=
  let x := colAt sj.1 p
  let y := colAt sj.1 q
  (dotO x x).bind fun a => (dotO y y).bind fun b => (dotO x y).bind fun g =>
    if isZeroF g then some sj
    else (rotation a b g).bind fun (c, s) =>
      (rotate c s x y).bind fun (x, y) =>
        (rotate c s (colAt sj.2 p) (colAt sj.2 q)).map fun (u, v) => (setCols sj.1 p q x y, setCols sj.2 p q u v)

/-- The pairs p < q of `n` columns in the order of R313. -/
def sweepPairs (n : Nat) : List (Nat × Nat) :=
  (List.range n).flatMap fun p => ((List.range n).filter fun q => decide (p < q)).map fun q => (p, q)

/-- Rotations over a list of pairs. -/
def sweep : List (Nat × Nat) → List (List Nat) × List (List Nat) → Option (List (List Nat) × List (List Nat))
  | [], sj => some sj
  | (p, q) :: rest, sj => (sweepPair sj p q).bind (sweep rest)

/-- The positions of `σ` in descending order, equal values in ascending position (R313). -/
def sigmaOrder (sig : List Nat) : List Nat := (List.range sig.length).foldl (fun out j => put j out) []
where
  put (j : Nat) : List Nat → List Nat
    | [] => [j]
    | k :: ks => if (f32Val ((sig[k]?).getD 0)).lt (f32Val ((sig[j]?).getD 0)) then j :: k :: ks else k :: put j ks

/-- Keep (R314), for the values in their order. -/
def keep (mtol : Nat) (sig : List Nat) : Nat :=
  let mode := bits mtol 33 32
  let r := sig.length
  if mode = 2 then min r (bits mtol 5 0)
  else
    let sq := sig.map fun x => let f := (f32Val x).toFrac; f.mul f
    let sum := fun (xs : List Frac) => xs.foldl (fun a b => (a.add b).norm) ⟨0, 1⟩
    let tau := f32Val (bits mtol 30 0)
    let t := tau.toFrac
    let bound := if mode = 0 then (t.mul t).mul (sum sq) else t.mul t
    let big := match tau with
      | .inf _ => true
      | _ => false
    ((List.range (r + 1)).find? fun m => big || (sum (sq.drop m)).le bound).getD r

/-- MRCMP on the columns of U and the rows of V (R313): the new ones, or none when a value is not finite. -/
def recompress (mtol : Nat) (u v : List (List Nat)) : Option (List (List Nat) × List (List Nat)) :=
  let r := u.length
  if r = 0 then some (u, v)
  else if (u ++ v).any fun c => c.any fun x => (finite x).isNone then none
  else
    (mgs r u [] []).bind fun (qu, ru) => (mgs r v [] []).bind fun (qv, rv) =>
      let rowsU := columns r ru
      let rowsV := columns r rv
      (allSome (rowsV.map fun y => allSome (rowsU.map fun x => dotO x y))).bind fun sm =>
        let j0 := (List.range r).map fun p => (List.range r).map fun q => if p = q then oneF else 0
        let pairs := sweepPairs r
        (sweep (List.replicate 8 pairs).flatten (sm, j0)).bind fun (sm, jm) =>
          (allSome (sm.map fun c => (dotO c c).bind sqrtO)).bind fun sig =>
            (allSome (List.zipWith (fun c d => if isZeroF d then some (c.map fun _ => 0)
                else allSome (c.map fun x => quoO (f32Val x) (f32Val d))) sm sig)).bind fun lm =>
              let ord := sigmaOrder sig
              let n := keep mtol (ord.map fun j => (sig[j]?).getD 0)
              let kept := ord.take n
              let rowsQu := columns 64 qu
              let rowsQv := columns 64 qv
              (allSome (kept.map fun j => allSome (rowsQu.map fun q =>
                (dotO q (colAt lm j)).bind fun d => rnd ((f32Val ((sig[j]?).getD 0)).mul (f32Val d))))).bind fun u' =>
                (allSome (kept.map fun j => allSome (rowsQv.map fun q => dotO q (colAt jm j)))).map fun v' => (u', v')

end Sys2Proof.Machine
end

