-- ==== Sys2Proof/Machine/Tiles.lean ====
section
/-!
DEFINITION. Tiles and cells (spec/14 R287 to R290, R302): the words that the rows of a matrix register occupy, the
values of a tile, changes of form, and errors of cells (spec/14 R297).
-/
namespace Sys2Proof.Machine

/-- A word of the matrix store: its cell and its place in it, 0 to 127. -/
abbrev CellWord := Nat × Nat

/-- A matrix register of a warp. -/
def Warp.mreg (w : Warp) (n : Nat) : MReg := (w.m.regs[n]?).getD {}
/-- The cells reserved for a register (R287). -/
def MReg.res (m : MReg) : Nat := m.cells.length
/-- The cell of a register's place `t`. -/
def MReg.cell (m : MReg) (t : Nat) : Nat := (m.cells[t]?).getD 2048
/-- The words of a dense row (R289). -/
def MReg.rowWords (m : MReg) (i : Nat) : List CellWord := (List.range 64).map fun j => (m.cell (i / 2), i % 2 * 64 + j)
/-- The words of a U row (R289). -/
def MReg.uWords (m : MReg) (i : Nat) : List CellWord := (List.range m.rank).map fun t => (m.cell t, i)
/-- The words of a V row (R289). -/
def MReg.vWords (m : MReg) (t : Nat) : List CellWord := (List.range 64).map fun j => (m.cell t, 64 + j)
/-- The words of every V row. -/
def MReg.vAll (m : MReg) : List CellWord := (List.range m.rank).flatMap m.vWords
/-- The words that reading row `i` of the tile as a matrix reads (R288). -/
def MReg.valueWords (m : MReg) (i : Nat) : List CellWord := if m.dense then m.rowWords i else m.uWords i ++ m.vAll

/-- The words' contents. -/
def Core.cellWords (k : Core) (ws : List CellWord) : List Nat :=
  ws.map fun x => leNat (spRead 0 k.cells (x.1 * 512 + 4 * x.2) 4)
/-- Words of cells written by the matrix unit; a write replaces a word and its code (R238). -/
def State.setCells (s : State) (core : Nat) (ws : List CellWord) (xs : List Nat) : State :=
  (ws.zip xs).foldl (fun s x =>
    let a := x.1.1 * 512 + 4 * x.1.2
    (s.noteStore (s.modCore core fun k => { k with cells := spWrite 0 k.cells a (leBytes 4 x.2) }) [.acting core] core
      (0xA00000 + a) (leBytes 4 x.2)).clearBad core (.cell x.1.1 x.1.2)) s

/-- The U row, the V rows and the V columns of a factored register. -/
def uRow (k : Core) (m : MReg) (i : Nat) : List Nat := k.cellWords (m.uWords i)
def vRows (k : Core) (m : MReg) : List (List Nat) := (List.range m.rank).map fun t => k.cellWords (m.vWords t)
/-- The values of row `i` of a tile, with the flags of R288. -/
def valueRow (k : Core) (m : MReg) (i : Nat) : List Nat × Nat :=
  if m.dense then (k.cellWords (m.rowWords i), 0)
  else dotRow (List.replicate 64 0) (uRow k m i) (columns 64 (vRows k m))

/-- A register of a warp changed. -/
def State.setReg (s : State) (core slot n : Nat) (f : MReg → MReg) : State :=
  s.modWarp core slot fun w => { w with m := { w.m with regs := modAt f n w.m.regs } }
/-- A register of a warp in a slot. -/
def State.mreg (s : State) (core slot n : Nat) : MReg := ((s.warp core slot).map fun w => w.mreg n).getD {}

/-! ### Errors of cells (R238, R297) -/

/-- The first of the words that is in uncorrectable error. -/
def badCell (k : Core) (ws : List CellWord) : Option CellWord :=
  if k.bad.isEmpty then none else ws.find? fun x => k.bad.contains (.cell x.1 x.2)
/-- Words with one bit in error are corrected when they are read (R238). -/
def correctCells (s : State) (core : Nat) (ws : List CellWord) : State :=
  if (s.core core).weak.isEmpty then s
  else s.modCore core fun k => { k with weak := k.weak.filter fun x => match x with
    | .cell c w => !ws.contains (c, w)
    | _ => true }
/-- The event of an uncorrectable word that the matrix unit meets (R297, R425). -/
def cellEvent (s : State) (core ctxid : Nat) (x : CellWord) : State :=
  s.bbEvent 6 core ctxid (4 + 256 * wordOffset core (.cell x.1 x.2))
/-- The rows before the first whose words hold an error, with that row and the word. -/
def goodRows (k : Core) (reads : Nat → List CellWord) : List Nat → List Nat × Option (Nat × CellWord)
  | [] => ([], none)
  | i :: rows => match badCell k (reads i) with
    | some x => ([], some (i, x))
    | none => let (a, b) := goodRows k reads rows; (i :: a, b)

/-! ### Cells and forms (R290, R302) -/

/-- The lowest `n` free cells of a core. -/
def freeCells (k : Core) (n : Nat) : List Nat := ((List.range 2048).filter fun i => !k.used.contains i).take n
/-- Cells taken from the pool for a register, up to `n` in all; none when too few are free. -/
def takeCells (s : State) (core slot n total : Nat) : Option State :=
  let need := total - (s.mreg core slot n).res
  let cs := freeCells (s.core core) need
  if cs.length < need then none
  else some ((s.setReg core slot n fun m => { m with cells := m.cells ++ cs }).modCore core fun k =>
    { k with used := cs.foldl (fun u c => setInsert c u) k.used })
/-- A register's cells returned to the pool (R300). -/
def dropCells (s : State) (core slot n : Nat) : State :=
  let cs := (s.mreg core slot n).cells
  (s.setReg core slot n fun _ => {}).modCore core fun k => { k with used := k.used.filter fun c => !cs.contains c }

/-- What a change of form answers: the state and the flags raised, a cause of R296, or an error at a row (R297). -/
inductive TileRes where
  | ok (s : State) (flags : Nat)
  | stop (cause : Nat)
  | error (s : State) (row flags : Nat)

/-- Densify (R302). With `compute` false no value is formed, because every row is about to be written (R303). -/
def densify (s : State) (core slot n ctxid : Nat) (auto compute : Bool) : TileRes :=
  let m := s.mreg core slot n
  let k := s.core core
  if m.dense then .ok s 0
  else match (if m.res < 32 then (if auto then takeCells s core slot n 32 else none) else some s) with
  | none => .stop 0x0C
  | some t =>
    if !compute then .ok (t.setReg core slot n fun m => { m with dense := true, rank := 0 }) 0
    else match (goodRows k m.valueWords (List.range 64)).2 with
    | some (i, x) => .error (cellEvent s core ctxid x) i 0
    | none =>
      let rows := (List.range 64).map fun i => valueRow k m i
      let t := correctCells t core ((List.range 64).flatMap m.valueWords)
      let t := t.setReg core slot n fun m => { m with dense := true, rank := 0 }
      let d := t.mreg core slot n
      let t := (rows.zip (List.range 64)).foldl (fun t x => t.setCells core (d.rowWords x.2) x.1.1) t
      .ok t (orFlags (rows.map fun r => r.2))

/-- The rank rule of R302 for appending `k` terms: the register becomes dense where it overflows under .auto. -/
def rankRule (s : State) (core slot n ctxid k : Nat) (auto : Bool) : TileRes :=
  let m := s.mreg core slot n
  if m.dense || decide (m.rank + k ≤ min m.res 32) then .ok s 0
  else if auto then densify s core slot n ctxid true true else .stop 0x0C

/-- Terms appended to a factored register: the listed U rows, +0 in every other, and the V rows (R307). -/
def appendTerms (s : State) (core slot n : Nat) (us : List (Nat × List Nat)) (vs : List (List Nat)) : State :=
  let r := (s.mreg core slot n).rank
  let s := s.setReg core slot n fun m => { m with rank := r + vs.length }
  let m := s.mreg core slot n
  let s := (vs.zip (List.range vs.length)).foldl (fun s x => s.setCells core (m.vWords (r + x.2)) x.1) s
  (List.range 64).foldl (fun s i =>
    let u := ((us.find? fun x => x.1 == i).map fun x => x.2).getD (List.replicate vs.length 0)
    s.setCells core ((m.uWords i).drop r) u) s

end Sys2Proof.Machine
end

