-- ==== Sys2Proof/Machine/Matrix.lean ====
section
/-!
DEFINITION. The matrix unit (spec/14 R291 to R317): the rows of an operation, its operand reads, its effect on the
registers, and the steps of the device that start, run, stop and complete it.
-/
namespace Sys2Proof.Machine

/-! ### An operation's fields (R299) -/

def MatOp.f (o : MatOp) : Fields := o.instr.fields.getD (unpack 0)
def MatOp.auto (o : MatOp) : Bool := bitAt (mv o.f) 4
def MatOp.bar (o : MatOp) : Option Nat := if bitAt (mv o.f) 3 then some (iv o.f % 2 ^ 23) else none
def MatOp.bs (o : MatOp) : Bool := bitAt (mv o.f) 2
def MatOp.as (o : MatOp) : Bool := bitAt (mv o.f) 1
def MatOp.dst (o : MatOp) : Nat := o.f.dst.toNat
def MatOp.opa (o : MatOp) : Nat := o.f.opa.toNat
def MatOp.opb (o : MatOp) : Nat := o.f.opb.toNat
def MatOp.ty (o : MatOp) : Nat := tv o.f
/-- The count in imm[28:23]. -/
def MatOp.count (o : MatOp) : Nat := iv o.f / 2 ^ 23
/-- Bytes of a memory element of types 5, 7 and 8. -/
def MatOp.es (o : MatOp) : Nat := if o.ty = 5 then 4 else 2
/-- Is the type a block format? -/
def MatOp.block (o : MatOp) : Bool := decide (11 ≤ o.ty ∧ o.ty ≤ 13)
/-- K of R305. -/
def kOf (ty : Nat) : Nat :=
  match ty with
  | 5 => 16
  | 7 => 32
  | 8 => 32
  | 12 => 128
  | 13 => 256
  | _ => 64
/-- The places of the scalar operands: B's follow A's. -/
def MatOp.argB (o : MatOp) : Nat := if o.block then 4 else 2
/-- The address of row `i` of the operand whose address and stride stand at a place (R299). -/
def MatOp.rowAddr (o : MatOp) (at_ i : Nat) : Nat :=
  ((o.args[at_]?).getD 0 + BitVec.ofNat 64 i * (o.args[at_ + 1]?).getD 0).toNat

/-- Is it an MMA (R305)? -/
def MatOp.isMma (o : MatOp) : Bool :=
  match o.instr with
  | .mma _ => true
  | _ => false

/-- The row set of an Active at a width, in ascending order (R291). -/
def rowSet (width : Nat) (active : Mask) : List Nat :=
  (lanesOf active).flatMap fun L => (List.range (64 / width)).map fun q => L * (64 / width) + q
/-- The rows that an operation has still to perform, from ROWP (R296). -/
def rowsLeft (w : Warp) (o : MatOp) : List Nat := (rowSet w.width o.active).filter fun i => w.m.rowp ≤ i

/-! ### Operand reads (R293, R299, R306) -/

/-- Keys of the rows read: B or V rows, their scale rows, A or U rows, their scale rows. -/
def keyB (j : Nat) : Nat := j
def keyBScale (j : Nat) : Nat := 64 + j
def keyA (i : Nat) : Nat := 128 + i
def keyAScale (i : Nat) : Nat := 192 + i

/-- The reads of one MMA operand row, headers included (R306). -/
def readB (o : MatOp) (j : Nat) : MatAct := .read (keyB j) o.bs (o.rowAddr o.argB j) 64 64
def readBScale (o : MatOp) (j : Nat) : List MatAct :=
  if o.block then [.read (keyBScale j) o.bs (o.rowAddr (o.argB + 2) j) (kOf o.ty / 8) 2] else []
def readA (o : MatOp) (i : Nat) : MatAct := .read (keyA i) o.as (o.rowAddr 0 i) 64 64
def readAScale (o : MatOp) (i : Nat) : List MatAct :=
  if o.block then [.read (keyAScale i) o.as (o.rowAddr 2 i) (kOf o.ty / 8) 2] else []
/-- The read of a row of `n` plain elements (R303, R307). -/
def readRow (o : MatOp) (key : Nat) (scr : Bool) (at_ i n : Nat) : MatAct := .read key scr (o.rowAddr at_ i) (n * o.es) o.es

/-- What an operation begins with: an MMA reads the rows that its cost counts (R315), then the unit chooses it. -/
def beginMat (w : Warp) (o : MatOp) : MatRun :=
  let rows := rowsLeft w o
  let pre := if o.isMma && !rows.isEmpty then (List.range 4).map (readB o) ++ (rows.take 4).map (readA o) else []
  { acts := pre ++ [.charge, .prepare], got := [], flags := o.flags, row := if w.m.rowp = 0 then none else some (rows.head?.getD 64) }

/-- The events after an operation's rows (R299). -/
def tailActs (o : MatOp) : List MatAct := if o.bar.isSome && !o.told then [.consumed, .finish] else [.finish]

/-- What follows the checks of an operation, for the form its register then has. -/
def planRows (s : State) (core slot : Nat) (w : Warp) (o : MatOp) : List MatAct :=
  let rows := rowsLeft w o
  let m := s.mreg core slot o.dst
  let body := match o.instr with
    | .mldD _ => rows.flatMap fun i => [readRow o (keyA i) o.as 0 i 64, .row i]
    | .mldF _ => ((List.range o.count).map fun t => readRow o (keyB t) o.bs 2 t 64) ++
        (rows.map fun i => readRow o (keyA i) o.as 0 i o.count) ++ [.whole]
    | .mstD _ => rows.map .row
    | .mstF _ => if m.rank = 0 then [] else
        (if w.m.rowp = 0 then (List.range m.rank).map .vrow else []) ++ rows.map .row
    | .mma _ => ((List.range 64).flatMap fun j => (if j < 4 then [] else [readB o j]) ++ readBScale o j) ++
        ((rows.zip (List.range rows.length)).flatMap fun x =>
          (if x.2 < 4 then [] else [readA o x.1]) ++ readAScale o x.1 ++ [.row x.1])
    | .maddf _ => ((List.range o.count).map fun t => readRow o (keyB t) o.bs 2 t 64) ++
        (if m.dense then rows.flatMap fun i => [readRow o (keyA i) o.as 0 i o.count, .row i]
         else (rows.map fun i => readRow o (keyA i) o.as 0 i o.count) ++ [.whole])
    | _ => [.whole]
  body ++ tailActs o

/-- The `i`-th group of `n` bytes as a number. -/
def chunk (bs : List Byte) (n i : Nat) : Nat := leNat ((bs.drop (n * i)).take n)

/-- The elements of a row as FP32 (R303): type 5 unchanged, the others widened. -/
def rowElems (o : MatOp) (bs : List Byte) : List Nat × Nat :=
  let rs := (List.range (bs.length / o.es)).map fun i =>
    if o.ty = 5 then (chunk bs 4 i, 0) else convert (fmtOf o.ty) fmtF32 0 false (chunk bs 2 i)
  (rs.map fun r => r.1, orFlags (rs.map fun r => r.2))

/-- The exact values of an MMA operand row with its headers (R306). -/
def rowVals (ty : Nat) (bs hdr : List Byte) : List Val :=
  (List.range (kOf ty)).map fun k =>
    match ty with
    | 5 => f32Val (chunk bs 4 k)
    | 7 => decodeVal fmtF16 (chunk bs 2 k)
    | 8 => decodeVal fmtBf16 (chunk bs 2 k)
    | 9 => decodeVal fmtE4m3 (chunk bs 1 k)
    | 10 => decodeVal fmtE5m2 (chunk bs 1 k)
    | _ =>
      let p := if ty = 11 then 8 else if ty = 12 then 4 else 2
      let h := chunk hdr 2 (k / 16)
      blockVal (p - 1) k (chunk bs 1 (k * p / 8) / 2 ^ (k * p % 8) % 2 ^ p) (h % 256) (h / 256)

/-- The integers of an MMA operand row of type 14 (R125). -/
def rowInts (sg : Bool) (bs : List Byte) : List Int := (List.range 64).map fun k => ival 8 sg (chunk bs 1 k)

/-! ### One row (R303 to R307) -/

/-- The rows that were read. -/
def MatRun.bytes (r : MatRun) (key : Nat) : List Byte := spGet [] r.got key

/-- A dense row of MMA: D + A × B (R305). -/
def mmaRow (o : MatOp) (r : MatRun) (i : Nat) (d : List Nat) : List Nat × Nat :=
  if o.ty = 14 then
    let a := rowInts (signBit o.f) (r.bytes (keyA i))
    ((d.zip (List.range 64)).map fun x => dotInt x.1 a (rowInts (signBit o.f) (r.bytes (keyB x.2))), 0)
  else
    let a := rowVals o.ty (r.bytes (keyA i)) (r.bytes (keyAScale i))
    let rs := (d.zip (List.range 64)).map fun x =>
      dotVals x.1 a (rowVals o.ty (r.bytes (keyB x.2)) (r.bytes (keyBScale x.2)))
    (rs.map fun r => r.1, orFlags (rs.map fun r => r.2))

/-- The V rows that MLD.f and MADDF loaded, with their flags. -/
def loadedV (o : MatOp) (r : MatRun) : List (List Nat) × Nat :=
  let vs := (List.range o.count).map fun t => rowElems o (r.bytes (keyB t))
  (vs.map fun v => v.1, orFlags (vs.map fun v => v.2))

/-- The context in which an operation's virtual rows are accessed (R296, R209). -/
def matCtx (core : Nat) (w : Warp) : DevCtx :=
  { rd := .l2 (towerOf core), walks := .near core, cslot := w.cslot, ctxid := w.ctxid,
    cls := if w.r.lclass.getLsbD 3 then some (w.r.lclass.toNat % 8) else none, salt := 700 }

/-- The aux field of a row's fault (R390). -/
def rowAux (scr : Bool) (len : Nat) : Nat := (if scr then 1 else 15) + 256 * len

/-- A row written by MST at one logical time (R304): granules of scratchpad become full (R179). A scr row that fails R77
meets 0x03 (R296). -/
def writeRow (s : State) (core : Nat) (w : Warp) (o : MatOp) (scr : Bool) (addr : Nat) (data : List Byte) :
    State × DevRes Unit :=
  let g := (w.r.g[1]?).getD {}
  if scr then
    match segCheck g addr data.length true with
    | some _ => (s, .bad 3 addr)
    | none =>
      if addr % o.es ≠ 0 then (s, .bad 4 addr)
      else if 2 ^ 23 < g.base.toNat + addr + data.length then (s, .bad 3 addr)
      else (s.scrEngineWrite none [.acting core] core (g.base.toNat + addr) data, .ok ())
  else if addr % o.es ≠ 0 then (s, .bad 4 addr) else devWrite s (matCtx core w) addr data

/-- FP32 values as MST stores them (R304), with flags. -/
def storeElems (o : MatOp) (xs : List Nat) : List Byte × Nat :=
  let rs := xs.map fun x => if o.ty = 5 then (x, 0) else roundTo (fmtOf o.ty) (qv o.f % 8) false (f32Val x)
  (rs.flatMap fun r => leBytes o.es r.1, orFlags (rs.map fun r => r.2))

/-- The words of its own register that a row reads. -/
def rowReads (m : MReg) (o : MatOp) (i : Nat) : List CellWord :=
  match o.instr with
  | .mldD _ => []
  | .mstF _ => m.uWords i
  | _ => m.valueWords i

/-- What one action answers: the state, the flags raised, and what comes of it. -/
inductive ActRes where
  /-- the action is done -/
  | ok
  /-- nothing has changed yet: the line must be waited for (R166) -/
  | wait
  /-- it meets a stop or an error -/
  | meets (a : MatAct)

/-- One row performed (R303 to R307). -/
def performRow (s : State) (core : Nat) (w : Warp) (o : MatOp) (r : MatRun) (i : Nat) : State × Nat × ActRes :=
  let m := w.mreg o.dst
  let k := s.core core
  match badCell k (rowReads m o i) with
  | some x => (cellEvent s core w.ctxid.toNat x, 0, .meets (.error 0x15 i))
  | none =>
    let s := correctCells s core (rowReads m o i)
    let put := fun (x : List Nat × Nat) => (s.setCells core (m.rowWords i) x.1, x.2, ActRes.ok)
    let store := fun (x : List Nat × Nat) =>
      let (bs, fl) := storeElems o x.1
      match writeRow s core w o o.as (o.rowAddr 0 i) bs with
      | (s, .ok _) => (s, x.2 ||| fl, ActRes.ok)
      | (s, .bad 5 _) => (s, 0, .meets (.error 5 i))
      | (s, .bad c a) => (s, 0, .meets (.stop c (BitVec.ofNat 64 a) 2 (rowAux o.as bs.length)))
      | (s, .wait) => (s, 0, .wait)
    match o.instr with
    | .mldD _ => put (rowElems o (r.bytes (keyA i)))
    | .mstD _ => store (valueRow k m i)
    | .mstF _ => store (uRow k m i, 0)
    | .mma _ => put (mmaRow o r i (k.cellWords (m.rowWords i)))
    | _ =>
      let (vs, fl'') := loadedV o r
      let (u, fl) := rowElems o (r.bytes (keyA i))
      let (d, fl') := dotRow (k.cellWords (m.rowWords i)) u (columns 64 vs)
      put (d, fl ||| fl' ||| fl'')

/-- A V row written by MST.f (R304). An error there comes before any row of the row set. -/
def performVRow (s : State) (core : Nat) (w : Warp) (o : MatOp) (t first : Nat) : State × Nat × ActRes :=
  let m := w.mreg o.dst
  match badCell (s.core core) (m.vWords t) with
  | some x => (cellEvent s core w.ctxid.toNat x, 0, .meets (.error 0x15 first))
  | none =>
    let (bs, fl) := storeElems o ((s.core core).cellWords (m.vWords t))
    match writeRow (correctCells s core (m.vWords t)) core w o o.bs (o.rowAddr 2 t) bs with
    | (s, .ok _) => (s, fl, .ok)
    | (s, .bad 5 _) => (s, 0, .meets (.error 5 first))
    | (s, .bad c a) => (s, 0, .meets (.stop c (BitVec.ofNat 64 a) 2 (rowAux o.bs bs.length)))
    | (s, .wait) => (s, 0, .wait)

/-! ### What is not made row by row -/

/-- A change of form as an action's answer. -/
def TileRes.act (x : TileRes) (s : State) (d : Nat) (k : State → Nat → State × Nat × ActRes) : State × Nat × ActRes :=
  match x with
  | .ok s fl => k s fl
  | .stop c => (s, 0, .meets (.stop c 0 0 (if c = 0x0C then d else 0)))
  | .error s i fl => (s, fl, .meets (.error 0x15 i))

/-- Dense rows of a register replaced by a function of the row; rows from the first whose words hold an error are not
written (R297). -/
def denseRows (s : State) (core slot ctxid d : Nat) (rows : List Nat) (reads : Nat → List CellWord)
    (g : List Nat → Nat → List Nat × Nat) : State × Nat × ActRes :=
  let m := s.mreg core slot d
  let k := s.core core
  let (good, bad) := goodRows k (fun i => m.rowWords i ++ reads i) rows
  let xs := good.map fun i => (i, g (k.cellWords (m.rowWords i)) i)
  let s := correctCells s core (good.flatMap fun i => m.rowWords i ++ reads i)
  let s := xs.foldl (fun s x => s.setCells core (m.rowWords x.1) x.2.1) s
  (match bad with
    | some (_, x) => cellEvent s core ctxid x
    | none => s, orFlags (xs.map fun x => x.2.2), match bad with
    | some (i, _) => .meets (.error 0x15 i)
    | none => .ok)

/-- Every word that a list of rows of an operand reads: the first in error ends the operation with nothing written. -/
def allGood (s : State) (core ctxid : Nat) (rows : List Nat) (reads : Nat → List CellWord)
    (k : State → State × Nat × ActRes) : State × Nat × ActRes :=
  match (goodRows (s.core core) reads rows).2 with
  | some (i, x) => (cellEvent s core ctxid x, 0, .meets (.error 0x15 i))
  | none => k (correctCells s core (rows.flatMap reads))

/-- The terms (U rows of the row set, V rows) added into a register: appended, or as a dense update (R307); `reads` are
the words of the operands that a row reads. Where the register itself was a factored operand and has become dense, its change of
form has read its former words. -/
def addTerms (s : State) (core slot : Nat) (w : Warp) (o : MatOp) (rows : List Nat) (reads : Nat → List CellWord)
    (us : List (Nat × List Nat)) (vs : List (List Nat)) (fl : Nat) : State × Nat × ActRes :=
  (rankRule s core slot o.dst w.ctxid.toNat vs.length o.auto).act s o.dst fun s fl' =>
    if (s.mreg core slot o.dst).dense then
      let own := w.mreg o.dst
      let reads := fun i => if o.opa = o.dst ∧ !own.dense then (reads i).filter fun x => !(own.valueWords i).contains x else reads i
      let (s, fl'', a) := denseRows s core slot w.ctxid.toNat o.dst rows reads fun d i =>
        dotRow d (((us.find? fun x => x.1 == i).map fun x => x.2).getD []) (columns 64 vs)
      (s, fl ||| fl' ||| fl'', a)
    else allGood s core w.ctxid.toNat rows reads fun s => (appendTerms s core slot o.dst us vs, fl ||| fl', .ok)

/-- MZERO (R301). -/
def runMzero (s : State) (core slot : Nat) (w : Warp) (o : MatOp) (rows : List Nat) : State × Nat × ActRes :=
  let d := o.dst
  let all := decide (laneCount o.active = w.width)
  let zero := fun (s : State) =>
    let m := s.mreg core slot d
    rows.foldl (fun s i =>
      let ws := if m.dense then m.rowWords i else m.uWords i
      s.setCells core ws (ws.map fun _ => 0)) s
  if bitAt (mv o.f) 0 then
    (densify s core slot d w.ctxid.toNat o.auto true).act s d fun s fl => (zero s, fl, .ok)
  else if all then (s.setReg core slot d fun m => { m with dense := false, rank := 0 }, 0, .ok)
  else (zero s, 0, .ok)

/-- The end of MLD.f (R303): the loaded factors become the register's, or their Value under .auto. Only a signalling NaN
of the loaded elements raises a flag. -/
def runMldf (s : State) (core slot : Nat) (o : MatOp) (r : MatRun) (rows : List Nat) : State × Nat × ActRes :=
  let d := o.dst
  let (vs, fl) := loadedV o r
  let us := rows.map fun i => (i, rowElems o (r.bytes (keyA i)))
  let fl := fl ||| orFlags (us.map fun u => u.2.2)
  if o.count ≤ (s.mreg core slot d).res then
    let s := s.setReg core slot d fun m => { m with dense := false, rank := o.count }
    let m := s.mreg core slot d
    let s := (vs.zip (List.range o.count)).foldl (fun s x => s.setCells core (m.vWords x.2) x.1) s
    (us.foldl (fun s u => s.setCells core (m.uWords u.1) u.2.1) s, fl, .ok)
  else match takeCells s core slot d 32 with
  | none => (s, 0, .meets (.stop 0x0C 0 0 d))
  | some s =>
    let s := s.setReg core slot d fun m => { m with dense := true, rank := 0 }
    let m := s.mreg core slot d
    let xs := us.map fun u => (u.1, dotRow (List.replicate 64 0) u.2.1 (columns 64 vs))
    (xs.foldl (fun s x => s.setCells core (m.rowWords x.1) x.2.1) s, fl, .ok)

/-- MADDM (R307). -/
def runMaddm (s : State) (core slot : Nat) (w : Warp) (o : MatOp) (rows : List Nat) : State × Nat × ActRes :=
  let a := w.mreg o.opa
  let k := s.core core
  if a.dense then
    (densify s core slot o.dst w.ctxid.toNat o.auto true).act s o.dst fun s fl =>
      let (s, fl', x) := denseRows s core slot w.ctxid.toNat o.dst rows a.rowWords fun d i =>
        let rs := List.zipWith (fun p q => f32Round ((f32Val p).add false (f32Val q))) d (k.cellWords (a.rowWords i))
        (rs.map fun r => r.1, orFlags (rs.map fun r => r.2))
      (s, fl ||| fl', x)
  else addTerms s core slot w o rows a.valueWords (rows.map fun i => (i, uRow k a i)) (vRows k a) 0

/-- MMULF (R307). -/
def runMmulf (s : State) (core slot : Nat) (w : Warp) (o : MatOp) (rows : List Nat) : State × Nat × ActRes :=
  let a := w.mreg o.opa
  let b := w.mreg o.opb
  let k := s.core core
  if a.dense || !b.dense then (s, 0, .meets (.stop 0x0D 0 0 0))
  else
    let cols := columns 64 ((List.range 64).map fun i => k.cellWords (b.rowWords i))
    let wt := (vRows k a).map fun v => dotRow (List.replicate 64 0) v cols
    addTerms s core slot w o rows (fun i => a.valueWords i ++ (List.range 64).flatMap b.rowWords)
      (rows.map fun i => (i, uRow k a i)) (wt.map fun x => x.1) (orFlags (wt.map fun x => x.2))

/-- MRCMP (R313): all rows, MTOL as it stands. -/
def runMrcmp (s : State) (core slot : Nat) (w : Warp) (o : MatOp) : State × Nat × ActRes :=
  let m := w.mreg o.dst
  let k := s.core core
  if m.dense then (s, 0, .meets (.stop 0x0D 0 0 0))
  else allGood s core w.ctxid.toNat (List.range 64) m.valueWords fun s =>
    let rows := (List.range 64).map fun i => uRow k m i
    match recompress w.r.mtol.toNat (columns m.rank rows) (vRows k m) with
    | none => (s, flInv, .ok)
    | some (us, vs) =>
      let s := s.setReg core slot o.dst fun m => { m with rank := us.length }
      let m := s.mreg core slot o.dst
      let s := (vs.zip (List.range vs.length)).foldl (fun s x => s.setCells core (m.vWords x.2) x.1) s
      let us := columns 64 us
      ((us.zip (List.range 64)).foldl (fun s x => s.setCells core (m.uWords x.2) x.1) s, 0, .ok)

/-- MSCL (R308). -/
def runMscl (s : State) (core slot : Nat) (w : Warp) (o : MatOp) (rows : List Nat) : State × Nat × ActRes :=
  let x := f32Val (if o.f.bimm then iv o.f else ((o.args[0]?).getD 0).toNat % 2 ^ 32)
  let g := fun (d : List Nat) =>
    let rs := d.map fun y => roundTo fmtF32 (qv o.f % 8) false ((f32Val y).mul x)
    (rs.map fun r => r.1, orFlags (rs.map fun r => r.2))
  let m := w.mreg o.dst
  if m.dense then denseRows s core slot w.ctxid.toNat o.dst rows (fun _ => []) fun d _ => g d
  else
    let k := s.core core
    let (good, bad) := goodRows k m.uWords rows
    let xs := good.map fun i => (i, g (uRow k m i))
    let s := xs.foldl (fun s x => s.setCells core (m.uWords x.1) x.2.1) (correctCells s core (good.flatMap m.uWords))
    (match bad with
      | some (_, x) => cellEvent s core w.ctxid.toNat x
      | none => s, orFlags (xs.map fun x => x.2.2), match bad with
      | some (i, _) => .meets (.error 0x15 i)
      | none => .ok)

/-- MMOVM (R309). -/
def runMmovm (s : State) (core slot : Nat) (w : Warp) (o : MatOp) (rows : List Nat) : State × Nat × ActRes :=
  (densify s core slot o.dst w.ctxid.toNat o.auto true).act s o.dst fun s fl =>
    let m := s.mreg core slot o.dst
    let n := 64 / w.width
    let c := iv o.f % 8
    (rows.foldl (fun s i =>
      let L := i / n
      let ws := ((List.range 8).map fun j => (m.rowWords i)[8 * c + j]?).filterMap id
      s.setCells core ws ((List.range 8).map fun j =>
        ((o.words.find? fun x => x.1 == (L, 8 * (i % n) + j)).map fun x => x.2.toNat).getD 0)) s, fl, .ok)

/-- The part of an operation that is not made row by row. -/
def performWhole (s : State) (core slot : Nat) (w : Warp) (o : MatOp) (r : MatRun) : State × Nat × ActRes :=
  let rows := rowsLeft w o
  match o.instr with
  | .mfree _ => (dropCells s core slot o.dst, 0, .ok)
  | .mzero _ => runMzero s core slot w o rows
  | .mldF _ => runMldf s core slot o r rows
  | .maddf _ =>
    let us := rows.map fun i => (i, rowElems o (r.bytes (keyA i)))
    let (vs, fl) := loadedV o r
    (appendTerms s core slot o.dst (us.map fun u => (u.1, u.2.1)) vs, fl ||| orFlags (us.map fun u => u.2.2), .ok)
  | .maddm _ => runMaddm s core slot w o rows
  | .mmulf _ => runMmulf s core slot w o rows
  | .mrcmp _ => runMrcmp s core slot w o
  | .mdns _ => (densify s core slot o.dst w.ctxid.toNat o.auto true).act s o.dst fun s fl => (s, fl, .ok)
  | .mscl _ => runMscl s core slot w o rows
  | _ => runMmovm s core slot w o rows

/-- The checks and changes of form before an operation's rows (R302 to R307). -/
def performPrepare (s : State) (core slot : Nat) (w : Warp) (o : MatOp) : State × Nat × ActRes :=
  let m := w.mreg o.dst
  let ok := fun (s : State) (fl : Nat) => (s, fl, ActRes.ok)
  match o.instr with
  | .mldD _ => (densify s core slot o.dst w.ctxid.toNat o.auto (decide (laneCount o.active ≠ w.width))).act s o.dst
      fun s _ => ok s 0
  | .mldF _ => if o.count ≤ m.res ∨ o.auto then (s, 0, .ok) else (s, 0, .meets (.stop 0x0C 0 0 o.dst))
  | .mstF _ => if m.dense then (s, 0, .meets (.stop 0x0D 0 0 0)) else (s, 0, .ok)
  | .mma _ => (densify s core slot o.dst w.ctxid.toNat o.auto true).act s o.dst ok
  | .maddf _ => (rankRule s core slot o.dst w.ctxid.toNat o.count o.auto).act s o.dst ok
  | _ => (s, 0, .ok)

/-! ### Running -/

/-- The head of a warp's matrix queue replaced in its progress. -/
def State.setRun (s : State) (core slot : Nat) (r : Option MatRun) : State :=
  s.modWarp core slot fun w => { w with m := { w.m with run := r } }

/-- The next granule of an operand row read (R197, R293): what was read, or what it meets. `row` is the row that an
error names. -/
def readNext (s : State) (core : Nat) (w : Warp) (r : MatRun) (key : Nat) (scr : Bool) (addr len align row : Nat) :
    State × MatRun × ActRes :=
  let got := r.bytes key
  let g := (w.r.g[1]?).getD {}
  let stop := fun (c a : Nat) => ActRes.meets (.stop c (BitVec.ofNat 64 a) 1 (rowAux scr len))
  let a := (addr + got.length) % 2 ^ 64
  let n := pieceLenOf (if scr then g.base.toNat + a else a) (len - got.length)
  let keep := fun (bs : List Byte) => { r with got := spSet [] r.got key (got ++ bs) }
  if scr then
    match segCheck g addr len false with
    | some c => (s, r, stop c addr)
    | none =>
      if addr % align ≠ 0 then (s, r, stop 4 addr)
      else if 2 ^ 23 < g.base.toNat + addr + len then (s, r, stop 3 addr)
      else (s, keep (s.scrBytes core (g.base.toNat + a) n), .ok)
  else if addr % align ≠ 0 then (s, r, stop 4 addr)
  else match devRead s (matCtx core w) a n with
    | (s, .ok bs) => (s, keep bs, .ok)
    | (s, .bad 5 _) => (s, r, .meets (.error 5 row))
    | (s, .bad c x) => (s, r, stop c x)
    | (s, .wait) => (s, r, .wait)
where
  /-- Up to the end of the granule that holds the address. -/
  pieceLenOf (a rest : Nat) : Nat := min (16 - a % 16) rest

/-- The row that an error in an operand row names: its own for a row of the row set, else the first not complete. -/
def errorRow (rows : List Nat) (key : Nat) : Nat :=
  if 128 ≤ key then key % 64 else rows.head?.getD 0

/-- What the matrix unit has written is an access of an operation (R293). -/
def State.actsFor (s : State) (core : Nat) (o : MatOp) : State :=
  if s.past.isEmpty then s
  else (s.flow [.acting core] (.operation o.seq)).dropCarriers fun c => c == .acting core

/-- The next action of a warp's head performed. -/
def advance (s : State) (core slot : Nat) (w : Warp) (o : MatOp) (r : MatRun) : State :=
  let rows := rowsLeft w o
  let rest := r.acts.drop 1
  let put := fun (s : State) (r : MatRun) => s.setRun core slot (some r)
  let after := fun (x : State × Nat × ActRes) (done : State → MatRun) =>
    let (s, fl, a) := x
    match a with
    | .ok => let r' := done s; put s { r' with flags := r'.flags ||| fl }
    | .wait => s
    | .meets a => put s { r with acts := [a], flags := r.flags ||| fl }
  match r.acts.head? with
  | some (.read key scr addr len align) =>
    match readNext s core w r key scr addr len align (errorRow rows key) with
    | (s, r, .ok) => put s (if len ≤ (r.bytes key).length then { r with acts := rest } else r)
    | (s, _, .wait) => s
    | (s, r, .meets a) => put s { r with acts := [a] }
  | some .prepare =>
    if rows.isEmpty then put s { r with acts := tailActs o }
    else after (performPrepare s core slot w o) fun s => { r with acts := planRows s core slot w o }
  | some (.row i) => after (performRow s core w o r i) fun _ =>
      { r with acts := rest, row := some ((rows.find? fun j => i < j).getD 64) }
  | some (.vrow t) => after (performVRow s core w o t (rows.head?.getD 0)) fun _ => { r with acts := rest }
  | some .whole => after (performWhole s core slot w o r) fun _ => { r with acts := rest, row := some 64 }
  | _ => s

/-! ### The unit (R315 to R317) -/

/-- The bits in which two rows differ. -/
def toggles (x y : List Byte) : Nat :=
  (List.zipWith (fun (a b : Byte) => ((List.range 8).filter fun i => (a ^^^ b).getLsbD i).length) x y).foldl (· + ·) 0

/-- The cost of a weighed operation (R315). -/
def matCost (w : Warp) (o : MatOp) (r : MatRun) : Nat :=
  let rows := rowsLeft w o
  if o.isMma && !rows.isEmpty then
    let b := (List.range 4).map fun j => r.bytes (keyB j)
    let a := (rows.take 4).map fun i => r.bytes (keyA i)
    let t := fun (xs : List (List Byte)) => (List.zipWith toggles xs (xs.drop 1)).foldl (· + ·) 0
    256 + t b + t a
  else 0

/-- A head of one of a core's matrix queues: its slot, warp, operation and progress. -/
structure MatHead where
  slot : Nat
  w    : Warp
  op   : MatOp
  run  : Option MatRun

/-- The heads of a core's queues that are neither held nor at rest, in rising slot order (R317). -/
def matHeads (s : State) (core : Nat) : List MatHead :=
  (((s.core core).slots.zip (List.range 128)).filterMap fun x => x.1.bind fun w =>
    if w.m.held || w.resting then none else w.m.queue.head?.map fun o => ⟨x.2, w, o, w.m.run⟩)

/-- Has a head something to do before it is weighed? -/
def MatHead.unweighed (h : MatHead) : Bool :=
  match h.run with
  | none => true
  | some r => match r.acts.head? with
    | some (.read _ _ _ _ _) => true
    | _ => false
/-- Has a head been weighed? -/
def MatHead.weighed (h : MatHead) : Bool := (h.run.bind fun r => r.acts.head?) == some .charge

/-- The head that the unit chooses (R317). -/
def chooseHead (now : Nat) (hs : List MatHead) : Option MatHead :=
  let old := hs.filter fun h => decide (h.op.since + 1024 ≤ now + h.op.waited)
  let cost := fun (h : MatHead) => (h.run.map (matCost h.w h.op)).getD 0
  let best := fun (lt : MatHead → MatHead → Bool) (hs : List MatHead) => hs.foldl (fun b h => match b with
    | none => some h
    | some x => if lt h x then some h else b) none
  if old.isEmpty then
    best (fun x y => decide (cost x < cost y) || (cost x == cost y && decide (x.op.seq < y.op.seq))) hs
  else best (fun x y => decide (x.op.seq < y.op.seq)) old

/-- The chosen head starts when the purse holds its cost, which is then taken (R316). -/
def chargeHead (s : State) (core : Nat) (h : MatHead) : State :=
  match h.run with
  | none => s
  | some r =>
    let cost := matCost h.w h.op r
    if (s.core core).purse < cost then s
    else (s.modCore core fun k => { k with purse := k.purse - cost }).setRun core h.slot
      (some { r with acts := r.acts.drop 1 })

/-- An operation begins: the earlier ones of its queue come before it (R293). -/
def MatOp.begins (s : State) (w : Warp) (o : MatOp) : State :=
  (s.flow [.matrix w.ctxid w.tag] (.operation o.seq)).flow [.matrix w.ctxid w.tag] (.operands o.seq)

/-- MATRIX_OP_START (R317): a head not yet weighed reads what its cost counts; else the unit chooses a head, which starts
when the purse allows; once started, the next action of its operation is made. -/
def execMatrixOpStart (core : Nat) (s : State) : Host.Outcome State Fault Refusal :=
  if !s.pkg.powered || !s.running core then .next s
  else
    let hs := matHeads s core
    match (s.core core).unit with
    | some slot =>
      (match hs.find? fun h => h.slot == slot with
       | some h => if h.weighed then .next (chargeHead s core h)
         else .next ((h.run.map fun r => (advance s core slot h.w h.op r).actsFor core h.op).getD s)
       | none => .next s)
    | none =>
      (match hs.find? MatHead.unweighed with
       | some h => .next (match h.run with
         | none => (h.op.begins s h.w).setRun core h.slot (some (beginMat h.w h.op))
         | some r => (advance s core h.slot h.w h.op r).actsFor core h.op)
       | none => match chooseHead (s.tower (towerOf core)).clock (hs.filter MatHead.weighed) with
         | some h => .next (chargeHead (s.modCore core fun k => { k with unit := some h.slot }) core h)
         | none => .next s)

/-- The unit is free of a warp's operation. -/
def freeUnit (s : State) (core slot : Nat) : State :=
  s.modCore core fun k => if k.unit = some slot then { k with unit := none } else k

/-- A head leaves its queue (R292): the next becomes the head now. -/
def popMat (s : State) (core slot : Nat) : State :=
  let now := (s.tower (towerOf core)).clock
  freeUnit (s.modWarp core slot fun w => { w with m := { w.m with
    queue := match w.m.queue.drop 1 with
      | o :: os => { o with since := now, waited := 0 } :: os
      | [] => [], run := none, rowp := 0, resumed := w.m.resumed && decide (1 < w.m.queue.length) } }) core slot

/-- The warp whose head's next action satisfies a test: the unit's first. -/
def headWith (s : State) (core : Nat) (p : MatAct → Bool) : Option (MatHead × MatRun × MatAct) :=
  let hs := matHeads s core
  let hs := (hs.filter fun h => (s.core core).unit == some h.slot) ++ hs
  hs.findSome? fun h => h.run.bind fun r => r.acts.head?.bind fun a => if p a then some (h, r, a) else none

/-- A step on the barrier that an operation names; the operation's reads come before what observes the phase (R203, R293). -/
def matBarrier (s : State) (core : Nat) (w : Warp) (o : MatOp) (g : Nat → Nat) : State :=
  match o.bar with
  | some b => if (segCheck ((w.r.g[1]?).getD ({} : Seg)) b 32 true).isNone then
      let a := ((w.r.g[1]?).getD ({} : Seg)).base.toNat + b
      (s.joinPhase [.operands o.seq] core a).barStep core a g else s
  | none => s

/-- The head's operands-consumed event has been performed: an eviction does not repeat it (R298, R404). -/
def MatState.tellHead (m : MatState) : MatState :=
  { m with queue := match m.queue with
    | o :: os => { o with told := true } :: os
    | [] => [] }

/-- OPERANDS_CONSUMED (R203, R299). -/
def execOperandsConsumed (core : Nat) (s : State) : Host.Outcome State Fault Refusal :=
  match headWith s core fun a => a == .consumed with
  | some (h, r, _) =>
    if s.pkg.powered then
      .next (((matBarrier s core h.w h.op barConsumed).setRun core h.slot (some { r with acts := r.acts.drop 1 })).modWarp
        core h.slot fun w => { w with m := w.m.tellHead })
    else .next s
  | none => .next s

/-- An operation completes: what observes the queue's completed operations comes after it (R293). -/
def MatOp.completes (s : State) (w : Warp) (o : MatOp) : State := s.flow [.operation o.seq] (.matrix w.ctxid w.tag)

/-- MATRIX_OP_COMPLETE (R292, R122). -/
def execMatrixOpComplete (core : Nat) (s : State) : Host.Outcome State Fault Refusal :=
  match headWith s core fun a => a == .finish with
  | some (h, r, _) =>
    if s.pkg.powered then .next (popMat (h.op.completes (raiseFlags s core h.slot r.flags) h.w) core h.slot) else .next s
  | none => .next s

/-- The fragments of a warp stop at their next instruction boundary because of a held operation (R296, R335): the
lowest entry stopped, and the warp. Those arrived, and those that a fault of their own has stopped, stay. -/
def stopFragments (cause : Nat) (w : Warp) : Nat × Warp :=
  let hit := (List.range 8).filter fun i => (w.frag i).issuable
  (hit.head?.getD 0, hit.foldl (fun w i => w.modFrag i fun fr =>
    { fr with byHeld := some fr.st, st := .stopped, run := [], runOver := true, ahead := [], cause := cause }) w)

/-- The flags that the head's completed rows raised stay with it until it completes (R122). -/
def MatState.keepFlags (m : MatState) : MatState :=
  match m.queue, m.run with
  | o :: os, some r => { m with queue := { o with flags := r.flags } :: os }
  | _, _ => m

/-- MATRIX_OP_STOP (R296). -/
def execMatrixOpStop (core : Nat) (s : State) : Host.Outcome State Fault Refusal :=
  match headWith s core fun a => match a with
    | .stop _ _ _ _ => true
    | _ => false with
  | some (h, r, .stop cause va acc aux) =>
    if !s.pkg.powered then .next s
    else
      let rowp := if cause = 0x0C ∨ cause = 0x0D then 0 else r.row.getD 0
      let (entry, w) := stopFragments cause h.w
      let w := { w with m := { w.m.keepFlags with held := true, rowp := rowp, run := none } }
      let t : Trap := { cause := cause, va := va, aux := BitVec.ofNat 32 aux, lanes := h.op.active, acc := acc, unit := 4 }
      let rec_ := recordOf s ⟨core, h.slot, entry⟩ h.w h.op.pc rowp t
      .next ((freeUnit (s.setWarp core h.slot (some w)) core h.slot).modCore core fun k =>
        { k with records := k.records ++ [rec_] })
  | _ => .next s

/-- MATRIX_ERROR_COMPLETION (R297, R122). -/
def execMatrixErrorCompletion (core : Nat) (s : State) : Host.Outcome State Fault Refusal :=
  match headWith s core fun a => match a with
    | .error _ _ => true
    | _ => false with
  | some (h, r, .error cause row) =>
    if !s.pkg.powered then .next s
    else
      let s := matBarrier s core h.w h.op fun b => settle (barPoison b)
      let s := h.op.completes (raiseFlags s core h.slot r.flags) h.w
      .next ((popMat s core h.slot).modWarp core h.slot fun w =>
        { w with m := { w.m with err := some (w.m.err.getD (cause, row)) } })
  | _ => .next s

/-- The queue of a warp comes to rest at a row boundary for an eviction (R298): its head begins again at ROWP. -/
def restMatrix (s : State) (core slot : Nat) : State :=
  (freeUnit s core slot).modWarp core slot fun w =>
    { w with m := { w.m.keepFlags with run := none, rowp := if w.m.held then w.m.rowp else
        (w.m.run.bind fun r => r.row).getD w.m.rowp } }

end Sys2Proof.Machine
end

