-- ==== Sys2Proof/Machine/Registers.lean ====
section
/-!
DEFINITION. The register window (spec/22 R411 to R414, R426, spec/02 R50, R51): which register an offset names, its value,
what a write does to it, and CFGRD and CFGWR.
-/
namespace Sys2Proof.Machine

/-! ### Launch queues (R364) -/

/-- May the scheduler place work of a context slot now (R364, R406, R421, R423, R166)? -/
def State.placing (s : State) (cslot : Nat) : Bool :=
  s.pkg.powered && s.pkg.bootStep == 0xFF && s.pkg.lcstate != 4 && !s.tableHeld && s.ctxValid cslot && !(s.ctx cslot).halted

/-- The ring's capacity in records (R364). -/
def Queue.capacity (q : Queue) : Nat := 16 * 2 ^ q.size.toNat
/-- Records written and not yet taken. -/
def Queue.fill (q : Queue) : Nat := (q.tail - q.head).toNat

/-- A queue that the scheduler finds to hold more than its capacity is disabled, with its event (R364, R425). -/
def checkOverrun (s : State) (cslot queue : Nat) : State :=
  let q := (s.ctx cslot).queue queue
  if s.placing cslot && q.en && decide (queue < 16) && decide (q.capacity < q.fill) then
    (s.modQueue cslot queue fun q => { q with en := false, err := true }).bbEvent 7 0xFF (s.ctxId cslot)
      (cslot + 64 * queue + 1024 * 3)
  else s

/-! ### The registers (R411) -/

/-- A listed register of the window. -/
inductive MmioReg where
  | gtime
  | bootst
  | lcstate
  | linkid
  | cdtbase
  | bbseq
  | trole (tower : Nat)
  | mcoinr (tower : Nat)
  | llen (tower cls : Nat)
  | qctl (cslot queue : Nat)
  | qtail (cslot queue : Nat)
  | qhead (cslot queue : Nat)
  | svbase (cslot : Nat)
  | svsize (cslot : Nat)
  | ecbase (comb : Nat)
  | ecsize (comb : Nat)
  | ecdone (comb : Nat)
  | xplim (core : Nat)
  | monCtl (m : Nat)
  | monMin (m : Nat)
  | monMax (m : Nat)
  | monBin (m b : Nat)
  deriving DecidableEq, Repr

/-- The registers of 64 bits. -/
def MmioReg.wide : MmioReg → Bool
  | .gtime => true
  | .cdtbase => true
  | .qctl _ _ => true
  | .svbase _ => true
  | .ecbase _ => true
  | _ => false

/-- The register whose first byte lies at an offset of the window (R411, R426). -/
def mmioReg (x : Nat) : Option MmioReg :=
  if x < 0x1000 then
    if x = 0 then some .gtime else if x = 8 then some .bootst else if x = 0x10 then some .lcstate
    else if x = 0x18 then some .linkid else if x = 0x20 then some .cdtbase else if x = 0x28 then some .bbseq else none
  else if x < 0x3000 then
    let t := x / 0x1000 - 1
    let o := x % 0x1000
    if o = 0 then some (.trole t) else if o = 8 then some (.mcoinr t)
    else if 0x40 ≤ o ∧ o < 0x60 ∧ o % 4 = 0 then some (.llen t ((o - 0x40) / 4)) else none
  else if 0x10000 ≤ x ∧ x < 0x50000 then
    let i := (x - 0x10000) / 0x1000
    let o := x % 0x1000
    let q := o / 0x20
    if o < 0x200 then
      (if o % 0x20 = 0 then some (.qctl i q) else if o % 0x20 = 8 then some (.qtail i q)
        else if o % 0x20 = 0xC then some (.qhead i q) else none)
    else if o = 0x200 then some (.svbase i) else if o = 0x208 then some (.svsize i) else none
  else if 0x50000 ≤ x ∧ x < 0x52000 then
    let c := (x - 0x50000) / 0x100
    let o := x % 0x100
    if o = 0 then some (.ecbase c) else if o = 8 then some (.ecsize c) else if o = 0xC then some (.ecdone c) else none
  else if 0x60000 ≤ x ∧ x < 0x61000 then (if x % 0x10 = 0 then some (.xplim ((x - 0x60000) / 0x10)) else none)
  else if 0x70000 ≤ x ∧ x < 0x74000 then
    let m := (x - 0x70000) / 0x100
    let o := x % 0x100
    if o = 0 then some (.monCtl m) else if o = 8 then some (.monMin m) else if o = 0xC then some (.monMax m)
    else if 0x10 ≤ o ∧ o < 0x50 ∧ o % 4 = 0 then some (.monBin m ((o - 0x10) / 4)) else none
  else none

/-- The part of a register that an access takes (R412). -/
inductive MmioPart where
  | whole
  | low
  | high
  deriving DecidableEq, Repr

/-- What an access of a size at an offset names: a listed register of that size, or a half of one of 64 bits (R412). -/
def mmioPart (x size : Nat) : Option (MmioReg × MmioPart) :=
  match mmioReg x with
  | some r =>
    if r.wide then (if size = 8 then some (r, .whole) else if size = 4 then some (r, .low) else none)
    else if size = 4 then some (r, .whole) else none
  | none =>
    if size = 4 ∧ x % 8 = 4 then
      match mmioReg (x - 4) with
      | some r => if r.wide then some (r, .high) else none
      | none => none
    else none

/-! ### Reading -/

/-- The compute-layer count that the gating of a tower shows now: once a change has reached its last step, the new one
(R50, R53). -/
def Tower.gated (t : Tower) : Nat :=
  match t.changing with
  | some (_, new) => if t.step = 3 then new else t.k
  | none => t.k

/-- TROLE (R50). -/
def Tower.trole (t : Tower) : Nat :=
  let cmask := (List.range 4).foldl (fun m j => if 4 ≤ j + t.gated then m + 2 ^ j else m) 0
  (match t.changing with
    | some (_, new) => 2 ^ 31 + new
    | none => t.k) + t.step.toNat * 2 ^ 29 + b2n t.err * 2 ^ 28 + t.dmask.toNat * 2 ^ 20 + cmask * 2 ^ 16

/-- QCTL (R364). -/
def Queue.qctl (q : Queue) : Nat :=
  q.base.toNat * 2 ^ 12 + q.size.toNat * 2 ^ 8 + b2n q.err * 8 + q.pri.toNat * 2 + b2n q.en

/-- A monitor's control word (R426). -/
def Monitor.ctl (m : Monitor) : Nat :=
  b2n m.en * 2 ^ 31 + m.src.toNat * 2 ^ 16 + m.scope.toNat * 2 ^ 8 + m.sub.toNat * 2 ^ 4

def State.monitor (s : State) (m : Nat) : Monitor := (s.monitors[m]?).getD {}
def State.modMonitor (s : State) (m : Nat) (f : Monitor → Monitor) : State := { s with monitors := modAt f m s.monitors }

/-- The value of a whole register (R411). -/
def mmioValue (s : State) : MmioReg → Nat
  | .gtime => s.pkg.gtime % 2 ^ 64
  | .bootst => s.pkg.bootStep.toNat * 2 ^ 24 + b2n s.pkg.bootWarm * 2 ^ 16
  | .lcstate => s.pkg.lcstate.toNat
  | .linkid => s.pkg.linkid.toNat
  | .cdtbase => s.pkg.cdtbase.toNat
  | .bbseq => s.pkg.bbseq.toNat
  | .trole t => (s.tower t).trole
  | .mcoinr t => (s.tower t).mcoinr.toNat
  | .llen t c => (((s.tower t).llen[c]?).getD 0).toNat
  | .qctl i q => ((s.ctx i).queue q).qctl
  | .qtail i q => ((s.ctx i).queue q).tail.toNat
  | .qhead i q => ((s.ctx i).queue q).head.toNat
  | .svbase i => (s.ctx i).svbase.toNat
  | .svsize i => (s.ctx i).svsize.toNat
  | .ecbase c => (s.comb c).ecbase.toNat
  | .ecsize c => (s.comb c).ecsize.toNat
  | .ecdone c => (s.comb c).ecdone.toNat
  | .xplim p => (s.core p).xplim.toNat
  | .monCtl m => (s.monitor m).ctl
  | .monMin m => (s.monitor m).mmin.toNat
  | .monMax m => (s.monitor m).mmax.toNat
  | .monBin m b => (((s.monitor m).bins[b]?).getD 0).toNat

/-- What a read of a register or of a half of one returns (R412). -/
def mmioRead (s : State) (r : MmioReg) : MmioPart → Nat
  | .whole => mmioValue s r
  | .low => mmioValue s r % 2 ^ 32
  | .high => mmioValue s r / 2 ^ 32

/-! ### Writing the role register (R50 to R52) -/

/-- The cores whose storage one end of a command's rows names: its own scratchpad, or windows of the map. -/
def EngCmd.ends (c : EngCmd) (space a n : Nat) : List Nat :=
  if space = 1 then [c.core]
  else if space = 2 then [a, a + (n - 1)].filterMap fun x => (mapWindow c.core x).map fun y => y.1
  else []

/-- The core whose storage row `j` of a gathered copy reads: its index as it stands in memory (R196). -/
def EngCmd.gathered (s : State) (c : EngCmd) (j : Nat) : List Nat :=
  let at_ := wrapInt 64 ((c.wd 7 : Int) + 4 * j)
  let index := if c.ssp = 1 then leNat (s.scrBytes c.core (c.g1.base.toNat + at_) 4)
    else match mapWindow c.core at_ with
      | some (p, o) => leNat (mapBytes s p o 4)
      | none => 0
  c.ends c.ssp at_ 4 ++ c.ends c.ssp (wrapInt 64 ((c.wd 2 : Int) + index * sval 32 (bits (c.wd 5) 31 0))) c.n0

/-- The cores whose storage a command reads or writes (R51). -/
def EngCmd.touched (s : State) (c : EngCmd) : List Nat :=
  let rows := (List.range c.n2).flatMap fun p => (List.range c.n1).map fun j => (p, j)
  let src := if c.kind = 1 then [] else if c.kind = 2 then rows.flatMap fun x => c.gathered s x.2
    else rows.flatMap fun x => c.ends c.ssp (c.srcRow x.1 x.2) c.n0
  let dst := rows.flatMap fun x => c.ends c.dsp (c.dstRow x.1 x.2) c.rowBytes
  (if c.bv then [c.core] else []) ++ (if c.bad then [] else src ++ dst)

/-- May a layer be gated: no resident workgroup, and no engine operation in flight that reads or writes its cores'
storage (R51)? -/
def layerIdle (s : State) (t j : Nat) : Bool :=
  let on := fun (p : Nat) => decide (p / 32 = 4 * t + j)
  !(s.groups.any fun g => !g.saved && on g.core) &&
    !(s.combs.any fun (c : Comb) => c.chain.any fun x => (x.touched s).any on)

/-- The layer that a change of a tower's count concerns: the lowest compute layer when it falls, the one below it when it
rises (R51). -/
def changingLayer (k new : Nat) : Nat := if new < k then 4 - k else 3 - k

/-- Is a new ktarget accepted (R51)? -/
def targetAccepted (s : State) (t new : Nat) : Bool :=
  let w := s.tower t
  w.changing.isNone && decide (new ≤ 3) && decide (new + 1 = w.k ∨ new = w.k + 1) &&
    (decide (w.k < new) || layerIdle s t (changingLayer w.k new))

/-- The ktarget of a write: nothing for the value that the register reads, a change begun, or a refusal (R51, R53). -/
def putTarget (s : State) (t new : Nat) : State :=
  let w := s.tower t
  if new = (match w.changing with
    | some (_, n) => n
    | none => w.k) then s
  else if targetAccepted s t new then s.modTower t fun w => { w with changing := some (changingLayer w.k new, new), step := 1 }
  else s.modTower t fun w => { w with err := true }

/-- The clear of err (R50): it acts on the value before the write. -/
def clearErr (s : State) (t : Nat) : State := s.modTower t fun w => { w with err := false }
/-- The dmask of a write (R50). -/
def putDmask (s : State) (t : Nat) (m : BitVec 4) : State := s.modTower t fun w => { w with dmask := m }

/-- A write of TROLE (R50, R51): the clear, then dmask, then ktarget. -/
def putTrole (s : State) (t v : Nat) : State :=
  let s := if v.testBit 28 then clearErr s t else s
  putTarget (putDmask s t (BitVec.ofNat 4 (bits v 23 20))) t (bits v 2 0)

/-! ### Writing the other registers -/

/-- MCOINR (R316): a rate of 0 is ignored. -/
def putMcoinr (s : State) (t v : Nat) : State :=
  if bits v 11 0 = 0 then s else s.modTower t fun w => { w with mcoinr := BitVec.ofNat 12 v }

/-- LLEN (R163): entry 0 ignores writes; 0 and values above 2^20 are refused. -/
def putLlen (s : State) (t c v : Nat) : State :=
  if c = 0 ∨ v = 0 ∨ 2 ^ 20 < v then s
  else s.modTower t fun w => { w with llen := modAt (fun _ => BitVec.ofNat 32 v) c w.llen }

/-- QCTL (R364): a write with size 13 to 15 or a reserved bit is ignored whole; err is cleared by 1. -/
def putQctl (s : State) (i q v : Nat) : State :=
  if 13 ≤ bits v 11 8 ∨ bits v 7 4 ≠ 0 then s
  else checkOverrun (s.modQueue i q fun x =>
    { x with base := BitVec.ofNat 52 (bits v 63 12), size := BitVec.ofNat 4 (bits v 11 8), err := x.err && !v.testBit 3,
             pri := BitVec.ofNat 2 (bits v 2 1), en := v.testBit 0 }) i q

/-- QTAIL (R364). -/
def putQtail (s : State) (i q v : Nat) : State :=
  checkOverrun (s.modQueue i q fun x => { x with tail := BitVec.ofNat 32 v }) i q

/-- ECBASE (R411): ignored while a command of the comb is in flight, or with bits [11:0] not zero. -/
def putEcbase (s : State) (c v : Nat) : State :=
  if bits v 11 0 ≠ 0 ∨ !(s.comb c).chain.isEmpty then s
  else s.modComb c fun x => { x with ecbase := BitVec.ofNat 64 v, gos := 0 }

/-- ECSIZE (R411): ignored while a command of the comb is in flight, with n above 10 or with a bit of [31:4] set. -/
def putEcsize (s : State) (c v : Nat) : State :=
  if 10 < v ∨ !(s.comb c).chain.isEmpty then s else s.modComb c fun x => { x with ecsize := BitVec.ofNat 32 v }

/-- XPLIM (R233): a limit above 768 is ignored. -/
def putXplim (s : State) (p v : Nat) : State :=
  if 768 < bits v 9 0 then s else s.modCore p fun k => { k with xplim := BitVec.ofNat 10 v }

/-- A monitor cleared in one step (R427). -/
def Monitor.cleared (m : Monitor) : Monitor := { m with mmin := 0xFFFFFFFF, mmax := 0, bins := List.replicate 16 0 }

/-- A monitor's control word written (R426). A value that it has still to count is dropped when it no longer counts what it
counted (log 61). -/
def putMonitor (s : State) (m v : Nat) : State :=
  s.modMonitor m fun x =>
    let new := { x with en := v.testBit 31, src := BitVec.ofNat 8 (bits v 23 16), scope := BitVec.ofNat 8 (bits v 15 8),
                        sub := BitVec.ofNat 4 (bits v 7 4) }
    let x := { new with seen := if new = { x with en := true } then x.seen else [] }
    if v.testBit 30 then x.cleared else x

/-- A write of 1 to BOOTST[0], by the management cluster, begins a warm start (R421). -/
def putBootst (s : State) (management : Bool) (v : Nat) : State :=
  if management && v.testBit 0 then { s with pkg := { s.pkg with bootStep := 1 } } else s

/-- A whole register written; a write to a read-only register or field is ignored (R412). -/
def mmioPut (s : State) (management : Bool) (r : MmioReg) (v : Nat) : State :=
  match r with
  | .gtime => s
  | .bootst => putBootst s management v
  | .lcstate => s
  | .linkid => { s with pkg := { s.pkg with linkid := BitVec.ofNat 6 v } }
  | .cdtbase => State.dropEnded { s with pkg := { s.pkg with cdtbase := BitVec.ofNat 64 (v / 4096 * 4096) } } s
  | .bbseq => s
  | .trole t => putTrole s t v
  | .mcoinr t => putMcoinr s t v
  | .llen t c => putLlen s t c v
  | .qctl i q => putQctl s i q v
  | .qtail i q => putQtail s i q v
  | .qhead _ _ => s
  | .svbase i => s.modCtx i fun x => { x with svbase := BitVec.ofNat 64 (v / 65536 * 65536) }
  | .svsize i => s.modCtx i fun x => { x with svsize := BitVec.ofNat 32 (v % 65536) }
  | .ecbase c => putEcbase s c v
  | .ecsize c => putEcsize s c v
  | .ecdone _ => s
  | .xplim p => putXplim s p v
  | .monCtl m => putMonitor s m v
  | .monMin m => s.modMonitor m fun x => { x with mmin := BitVec.ofNat 32 v }
  | .monMax m => s.modMonitor m fun x => { x with mmax := BitVec.ofNat 32 v }
  | .monBin m b => s.modMonitor m fun x => { x with bins := modAt (fun _ => BitVec.ofNat 32 v) b x.bins }

/-- The bits of a register that a write of 1 clears: a write of the other half carries 0 there. -/
def MmioReg.oneClears : MmioReg → Nat
  | .qctl _ _ => 8
  | _ => 0

/-- A register or a half of one written (R412); the other half keeps its value. -/
def mmioWrite (s : State) (management : Bool) (r : MmioReg) (p : MmioPart) (v : Nat) : State :=
  let old := mmioValue s r &&& (2 ^ 64 - 1 - r.oneClears)
  match p with
  | .whole => mmioPut s management r v
  | .low => mmioPut s management r (old / 2 ^ 32 * 2 ^ 32 + v % 2 ^ 32)
  | .high => mmioPut s management r (v % 2 ^ 32 * 2 ^ 32 + old % 2 ^ 32)

/-! ### CFGRD and CFGWR (R413, R414) -/

/-- A pending CFGWR takes effect at its register. -/
def performCfg (s : State) (x : CfgStore) : State :=
  match mmioPart x.offset x.size with
  | some (r, p) => mmioWrite s false r p x.val.toNat
  | none => s

/-- The first `n` pending CFGWRs of a warp take effect, in program order (R414). -/
def performCfgsUpTo (s : State) (core slot n : Nat) : State :=
  match s.warp core slot with
  | none => s
  | some w => ((w.cfgs.take n).foldl performCfg s).modWarp core slot fun w => { w with cfgs := w.cfgs.drop n }

/-- Every pending CFGWR of a warp takes effect (R225). -/
def performCfgs (s : State) (core slot : Nat) : State :=
  match s.warp core slot with
  | none => s
  | some w => performCfgsUpTo s core slot w.cfgs.length

/-- What a warp has on its way is performed before what follows can be seen: its non-temporal stores, its CFGWRs and, where
`maps` says so, its map stores (R374, R401, R409); none while a line is held (R166). -/
def settleWarp (s : State) (core slot : Nat) (maps : Bool) : Option State :=
  (drainStores s core slot).map fun s =>
    let s := performCfgs s core slot
    if maps then performMaps s core slot else s

/-- The checks of an access to the window, in their order (R413): what it names, or a cause. -/
def cfgTarget (o size : Nat) : Except Nat (MmioReg × MmioPart) :=
  if 2 ^ 32 ≤ o then .error 3
  else if o % size ≠ 0 then .error 4
  else match mmioPart o size with
    | some x => .ok x
    | none => .error 2

/-- The fault of an access to the window (R413, R390). -/
def cfgTrap (e : Env) (major cause size acc : Nat) : Trap :=
  { cause := cause, va := BitVec.ofNat 64 e.offset, aux := BitVec.ofNat 32 (15 + 256 * size), lanes := e.active,
    acc := acc, unit := unitOf major }

/-- CFGRD (R413, R414): the warp's earlier CFGWRs have taken effect. -/
def execCfgrd (f : Fields) (s : State) : Host.Outcome State Fault Refusal :=
  issue (.cfgrd f) f .lanes (fun e s =>
    let size := if mv f = 1 then 8 else 4
    match cfgTarget e.offset size with
    | .error c => .trap s [cfgTrap e 0xF6 c size 1]
    | .ok (r, p) => e.guardS s 0xF6 [e.dst] fun _ =>
      let s := performCfgs s e.ref.core e.ref.slot
      .done (e.setS s e.dst (BitVec.ofNat 64 (mmioRead s r p)))) s

/-- CFGWR (R413, R414): the write takes effect at its register later, in the warp's program order. -/
def execCfgwr (f : Fields) (s : State) : Host.Outcome State Fault Refusal :=
  issue (.cfgwr f) f .lanes (fun e s =>
    let size := if mv f = 1 then 8 else 4
    match cfgTarget e.offset size with
    | .error c => .trap s [cfgTrap e 0xF7 c size 2]
    | .ok _ =>
      let x : CfgStore := ⟨e.offset, size, BitVec.ofNat 64 ((e.s e.opb 2).toNat % 2 ^ (8 * size))⟩
      .done (s.modWarp e.ref.core e.ref.slot fun w => { w with cfgs := w.cfgs ++ [x] })) s

end Sys2Proof.Machine
end

