-- ==== Sys2Proof/Machine/Tasks.lean ====
section
/-!
DEFINITION. Tasks, watches, record queues and ITER as instructions (spec/18 R371 to R382, spec/16 R330).
-/
namespace Sys2Proof.Machine

/-! ### The launch of a warp -/

/-- A launch with no resources at a width: what a warp that no launch started stands for (log 9). -/
def noLaunch (w : Warp) : Launch :=
  { id := w.launch, cslot := w.cslot, queue := 0, entry := 0, home := 0, hstr := 0, grid := 0, nw := 1, width := w.width,
    pers := false, pri := 0, kk := 0, tiles := 0, segs := [], sregs := [], hwm := 0, scr := 0, regs := 0, cells := [],
    groups := [], places := [], next := 0, time := 0 }
/-- The launch of a warp. -/
def launchOf (s : State) (w : Warp) : Launch := (s.launch w.launch).getD (noLaunch w)

/-- Bytes of a workgroup's area: .scratch rounded up to 4 KiB (R178). -/
def Launch.area (l : Launch) : Nat := (l.scr + 4095) / 4096 * 4096
/-- Cells of one warp (R290). -/
def Launch.warpCells (l : Launch) : Nat := l.cells.foldl (· + ·) 0
/-- Units of extended storage of one warp (R233). -/
def Launch.units (l : Launch) : Nat := l.regs * (l.width / 16)
/-- Could an empty core hold a workgroup of `nw` warps (R373)? -/
def Launch.fitsEmpty (l : Launch) (nw : Nat) : Bool :=
  decide (nw * l.width ≤ 2048) && decide (l.area ≤ 2 ^ 23) && decide (nw * l.warpCells ≤ 2048) && decide (nw * l.units ≤ 768)

/-! ### Task records (R372) -/

/-- The n-th 64-bit word of a block. -/
def wordAt (bs : List Byte) (n : Nat) : Nat := leNat ((bs.drop (8 * n)).take 8)

/-- A range word's first byte and length (R372). -/
def rangeOf (w : W64) : Nat × Nat := (bits w.toNat 47 0 * 256, bits w.toNat 63 48 * 256)

/-- The task record of 64 bytes; none when a reserved bit is set or a range is malformed (R372). -/
def taskRec (bs : List Byte) : Option TaskRec :=
  let w := fun n => BitVec.ofNat 64 (wordAt bs n)
  let badRange := fun n => let r := rangeOf (w n); r.2 != 0 && decide (2 ^ 56 < r.1 + r.2)
  if bits (w 3).toNat 63 7 ≠ 0 || badRange 4 || badRange 5 || badRange 6 || badRange 7 then none
  else some { entry := w 0, arg := w 1, home := w 2, nw := bits (w 3).toNat 6 2 + 1, pri := bits (w 3).toNat 1 0,
              rd := [w 4, w 5], wr := [w 6, w 7] }

/-- The block that SPAWN and WATCH read as one access (R373, R376). -/
def readBlock (e : Env) (s : State) (major size : Nat) (k : State → List Byte → Res) : Res :=
  match scalarAccess s e major (e.opc % 8) e.offset size .rd with
  | (s, .bad t) => .trap s [t]
  | (s, .wait) => .park s (.other 166)
  | (s, .ok ps) =>
    if ps.any (Piece.held s (.near e.ref.core) false) then parkLines s (.near e.ref.core) false ps
    else
      let s := touchLoads s (.near e.ref.core) ps
      k s (loadBytes s (towerOf e.ref.core) e.w ps)

/-- SPAWN (R373). A full pool parks the fragment. What the warp has on its way is performed, and the task's accesses follow its
logical time (R374). -/
def execSpawn (f : Fields) (s : State) : Host.Outcome State Fault Refusal :=
  issue (.spawn f) f .lanes (fun e s =>
    readBlock e s 0xB8 64 fun s bs =>
      match taskRec bs with
      | none => .trap s [regTrap e 0xB8]
      | some t =>
        if !(launchOf s e.w).fitsEmpty t.nw then .trap s [regTrap e 0xB8]
        else e.guardS s 0xB8 [e.dst] fun _ =>
          if poolSize ≤ (s.ctx e.w.cslot).tasks.length then .park s (.other 373)
          else match settleWarp s e.ref.core e.ref.slot true with
          | none => e.parkPends s
          | some s =>
            let (s, n) := s.pushTask e.w.cslot e.w.launch t e.w.r.g (s.tower (towerOf e.ref.core)).pts
            .done (e.setS (s.flow e.w.allBefore (.task e.w.cslot n)) e.dst (BitVec.ofNat 64 n))) s

/-! ### Watches (R376 to R378) -/

/-- The entries of a slice's watch table in use: one for each watch with a line there, one for each header bound there. -/
def sliceEntries (s : State) (slice : Nat) : Nat :=
  (s.watches.filter fun w => w.live && (linesOf w.lo (w.hi - w.lo)).any fun ln => sliceOf (ln * 128) == slice).length +
    (s.binds.filter fun b => sliceOf b.pa == slice).length

/-- The lowest free handle of a context's watch table. -/
def freeHandle (s : State) (cslot : Nat) : Option Nat :=
  (List.range 256).find? fun h => !(s.watches.any fun w => w.cslot == cslot && w.handle == h)

/-- WATCH (R376). -/
def execWatch (f : Fields) (s : State) : Host.Outcome State Fault Refusal :=
  issue (.watch f) f .lanes (fun e s =>
    readBlock e s 0xB9 96 fun s bs =>
      let wva := wordAt bs 0
      let w1 := wordAt bs 1
      let len := bits w1 12 0
      let cmp := bits w1 18 16
      let bad := decide (wva % 4 ≠ 0) || decide (len < 4 ∨ 4096 < len ∨ len % 4 ≠ 0) || decide (4 < cmp) ||
        bits w1 63 19 != 0 || bits w1 15 13 != 0 || wordAt bs 3 != 0
      match (if bad then none else taskRec (bs.drop 32)) with
      | none => .trap s [regTrap e 0xB9]
      | some t =>
        if wva / 65536 ≠ (wva + len - 1) / 65536 then .trap s [regTrap e 0xB9]
        else
          let stop := fun (s : State) (c : Nat) => Res.trap s
            [{ cause := c, va := BitVec.ofNat 64 wva, aux := BitVec.ofNat 32 (15 + 256 * len), acc := 1,
               lanes := e.active, unit := unitOf 0xB9 }]
          match translate s (.near e.ref.core) e.w.cslot e.w.ctxid 400 wva .rd false with
          | (s, .held) => .park s (.other 166)
          | (s, .bad c) => stop s c
          | (s, .notResident) => stop s 1
          | (s, .ok key _ _ _) =>
            if isRemote key then stop s 2
            else e.guardS s 0xB9 [e.dst] fun _ =>
              let room := (linesOf key len).all fun ln => decide (sliceEntries s (sliceOf (ln * 128)) < 64)
              match (if room then freeHandle s e.w.cslot else none) with
              | none => .done (e.setS s e.dst (BitVec.ofNat 64 (2 ^ 64 - 1)))
              | some h =>
                .done (e.setS { s with watches := s.watches ++
                  [⟨h, e.w.cslot, e.w.launch, key, key + len, cmp, BitVec.ofNat 32 (bits (wordAt bs 2) 31 0),
                    BitVec.ofNat 32 (bits (wordAt bs 2) 63 32), mv f = 1, t, e.w.r.g, true, 0⟩] } e.dst
                  (BitVec.ofNat 64 h))) s

/-- UNWATCH (R378). -/
def execUnwatch (f : Fields) (s : State) : Host.Outcome State Fault Refusal :=
  issue (.unwatch f) f .lanes (fun e s =>
    let h := (e.s e.opa 1).toNat
    if 256 ≤ h then .trap s [regTrap e 0xBA]
    else if s.watches.any fun w => w.cslot == e.w.cslot && w.handle == h && w.live then
      .done ({ s with watches := s.watches.filter fun w => !(w.cslot == e.w.cslot && w.handle == h && w.live) }.modCtx e.w.cslot
        fun x => { x with pushes := x.pushes.filter fun p => p.1 != h })
    else .done s) s

/-! ### ITER (R371) -/

/-- ITER (R371): the next piece of the workgroup's share of the launch's range. -/
def execIter (f : Fields) (s : State) : Host.Outcome State Fault Refusal :=
  issue (.iter f) f .lanes (fun e s =>
    let l := launchOf s e.w
    match (s.wgroup e.w.wg).map Workgroup.kind with
    | some (.grid w) =>
      if l.kk = 0 then .trap s [regTrap e 0xBB]
      else e.guardS s 0xBB [e.dst, e.dst + 1] fun _ =>
        let c := e.w.r.iter
        let hi := (w + 1) * (l.tiles * l.kk) / l.grid
        if hi ≤ c then .done (e.setS (e.setS s e.dst 0) (e.dst + 1) (BitVec.ofNat 64 (2 ^ 63)))
        else
          let t := c / l.kk
          let k0 := c % l.kk
          let n := min hi ((t + 1) * l.kk)
          let head := k0 == 0
          let tl := n == (t + 1) * l.kk
          let s := e.setS s e.dst (BitVec.ofNat 64 ((n - c) * 2 ^ 32 + k0))
          let s := e.setS s (e.dst + 1)
            (BitVec.ofNat 64 (b2n head * 2 ^ 62 + b2n tl * 2 ^ 61 + b2n (!(head && tl)) * 2 ^ 60 + t))
          .done (e.modRegs s fun r => { r with iter := n })
    | _ => .trap s [regTrap e 0xBB]) s

/-! ### Record queues (R330, R380 to R382) -/

/-- A record queue's header (R330, R380). -/
structure QueueHdr where
  cap   : Nat
  tail  : Nat
  head  : Nat
  cpc   : W64
  carg  : W64
  disp  : Nat
  opened : Nat
  batch : Nat
  pri   : Nat
  nw    : Nat
  /-- a reserved bit below bind is set, or cap is outside its range (R330) -/
  bad   : Bool
  /-- a reserved bit of bind is set -/
  badBind : Bool
  deriving DecidableEq, Repr

def queueHdr (x : Nat) : QueueHdr :=
  { cap := bits x 31 0, tail := bits x 95 64, head := bits x 127 96, cpc := BitVec.ofNat 64 (bits x 191 128),
    carg := BitVec.ofNat 64 (bits x 255 192), disp := bits x 287 256, opened := bits x 319 288, batch := bits x 335 320,
    pri := bits x 337 336, nw := bits x 342 338 + 1,
    bad := bits x 63 32 != 0 || bits x 31 0 == 0 || decide (2 ^ 24 < bits x 31 0), badBind := bits x 511 343 != 0 }

/-- May no append go to the queue (R330, R381): the header, or its binding for a launch, is malformed. -/
def QueueHdr.malformed (h : QueueHdr) (l : Launch) : Bool :=
  h.bad || (h.cpc != 0 && (h.batch == 0 || h.badBind || !l.fitsEmpty h.nw))

/-- The records for which the queue has room. -/
def QueueHdr.room (h : QueueHdr) : Nat := h.cap - (h.tail + 2 ^ 32 - h.head) % 2 ^ 32
/-- The offset of record `n` of a queue (R330). -/
def QueueHdr.slot (h : QueueHdr) (q n : Nat) : Nat := q + 64 + 16 * (n % 2 ^ 32 % h.cap)

/-- An append binds the header at a physical address to a launch, unless it is bound (R381); none when its slice's
table has no entry for it. -/
def bindQueue (s : State) (cslot launch : Nat) (pa : Nat) (q : W64) (h : QueueHdr) : Option State :=
  if h.cpc = 0 then some s
  else if s.binds.any fun b => b.pa == pa then
    some { s with binds := s.binds.map fun b => if b.pa = pa then { b with armed := true } else b }
  else if 64 ≤ sliceEntries s (sliceOf pa) then none
  else some { s with binds := s.binds ++ [⟨pa, q, launch, cslot, true⟩] }

/-- RQPUSH (R382): one record for each of the lowest lanes of Active while the queue has room, in one step. A queue that would be
bound and finds its slice's watch table full acts as full (R381). -/
def execRqpush (f : Fields) (s : State) : Host.Outcome State Fault Refusal :=
  issue (.rqpush f) f .lanes (fun e s =>
    let q := (e.s e.opb 2).toNat
    match scalarAccess s e 0xBC 5 q 64 .wr with
    | (s, .bad t) => .trap s [t]
    | (s, .wait) => .park s (.other 166)
    | (s, .ok hp) =>
      let h := queueHdr (leNat (homeBytes s e.w hp))
      if h.malformed (launchOf s e.w) then .trap s [regTrap e 0xBC]
      else
        let pa := (hp.head?.map fun p => p.addr).getD 0
        let bound := fun (s : State) => bindQueue s e.w.cslot e.w.launch pa (BitVec.ofNat 64 q) h
        let room := if (bound s).isNone then 0 else h.room
        let take := (e.lanes.zip (List.range 64)).filter fun x => x.2 < room
        let (s, outs) := accessLanes s e 5 16 .wr false (take.map fun x => (x.1, h.slot q (h.tail + x.2)))
        let outs := outs.map fun x => (x.1, withPoison s .wr x.2)
        onLanes e.ref.core 0xBC 5 16 .wr s outs fun s xs =>
          if hp.any (Piece.storeHeld s (.near e.ref.core) e.ref.core e.ref.slot) then parkLines s (.near e.ref.core) true hp
          else e.guardS s 0xBC [e.dst] fun _ =>
            let s := e.publish ((bound s).getD s) (.queue pa)
            let s := claimStores s e.ref.core e.ref.slot (hp ++ xs.flatMap fun x => x.2)
            let s := xs.foldl (fun s x => storeBytes s e.ref.core e.ref.slot x.2 (e.regBytes e.opa 16 x.1)) s
            let s := if xs.isEmpty then s else
              storeBytes s e.ref.core e.ref.slot (hp.map fun p => { p with addr := p.addr + 8, len := 4 })
                (leBytes 4 (h.tail + xs.length))
            .done (e.setS s e.dst (BitVec.ofNat 64 xs.length))) s

end Sys2Proof.Machine
end

