-- ==== Sys2Proof/Machine/Walks.lean ====
section
/-!
DEFINITION. Walks: what a lane of HLD (spec/06 R143) or TRACE (spec/16 R326) does between its accesses, and the accesses made
one at a time, of any lane whose walk goes on (R147, R329, R430).
-/
namespace Sys2Proof.Machine

/-- What is left of a walk: a result, a fault, or an access that it asks for, with what follows its answer; the answer is
none for a page not resident. -/
inductive Walking (ρ α : Type) where
  | done (x : α)
  | fail (f : WalkFail)
  | ask (r : ρ) (k : Option (List Nat) → Walking ρ α)

/-- A walk followed by another. -/
def Walking.bind {ρ α β : Type} : Walking ρ α → (α → Walking ρ β) → Walking ρ β
  | .done x, k => k x
  | .fail f, _ => .fail f
  | .ask r a, k => .ask r fun x => (a x).bind k

/-- A walk over each of a list in turn. -/
def Walking.each {ρ α β : Type} (step : β → α → Walking ρ β) : List α → β → Walking ρ β
  | [], b => .done b
  | x :: xs, b => (step b x).bind (Walking.each step xs)

/-- An access that answers one number. -/
def Walking.read {ρ : Type} (r : ρ) : Walking ρ Nat := .ask r fun x => .done ((x.bind List.head?).getD 0)

/-- A walk when its accesses have been answered. -/
def Walking.feed {ρ α : Type} : List WalkAns → Walking ρ α → Walking ρ α
  | a :: as, .ask _ k => match a with
    | .data xs => (k (some xs)).feed as
    | .absent => (k none).feed as
    | .bad f => .fail f
  | _, w => w

/-- The access that a walk asks for. -/
def Walking.asks {ρ α : Type} : Walking ρ α → Option ρ
  | .ask r _ => some r
  | _ => none

/-- How a walk has ended. -/
def Walking.ended {ρ α : Type} : Walking ρ α → Option (Except WalkFail α)
  | .done x => some (.ok x)
  | .fail f => some (.error f)
  | .ask _ _ => none

/-- A lane's walk as its answers have brought it on. -/
def LaneWalk.now {ρ α : Type} (prog : LaneWalk → Walking ρ α) (w : LaneWalk) : Walking ρ α := (prog w).feed w.got

/-- One access of one lane whose walk goes on, of any (R147, R329); `answer` is none where that access must wait. -/
def stepWalks {ρ α : Type} (prog : LaneWalk → Walking ρ α) (answer : State → Nat → ρ → State × Option WalkAns) (s : State)
    (ws : List LaneWalk) : State × List LaneWalk :=
  let todo := ws.filterMap fun w => (w.now prog).asks.map fun r => (w.lane, r)
  match todo[choose s.tick 700 todo.length]? with
  | none => (s, ws)
  | some (L, r) => match answer s L r with
    | (_, none) => (s, ws)
    | (s, some a) => (s, ws.map fun w => if w.lane = L then { w with got := w.got ++ [a] } else w)

/-- The lanes' results once every walk has ended (R146). -/
def walkEnds {ρ α : Type} (prog : LaneWalk → Walking ρ α) (ws : List LaneWalk) : Option (List (Nat × Except WalkFail α)) :=
  ws.mapM fun w => (w.now prog).ended.map fun x => (w.lane, x)

/-- The trap of the lanes' walks (R146, R329): the cause that the lowest failing lane met, and every lane that met it. -/
def walkTrap {α : Type} (unit : Nat) (xs : List (Nat × Except WalkFail α)) : Option Trap :=
  let bad := xs.filterMap fun x => match x.2 with
    | .error f => some (x.1, f)
    | .ok _ => none
  bad.head?.map fun x =>
    { cause := x.2.cause, va := BitVec.ofNat 64 x.2.va, aux := BitVec.ofNat 32 x.2.aux, acc := x.2.acc, unit := unit,
      lanes := maskOf ((bad.filter fun y => y.2.cause == x.2.cause).map fun y => y.1) }

/-- An instruction whose lanes walk: one more access, then the end when every walk has one, else it stays parked with the
walks. A walk begins with what `start` gives its lane. -/
def withWalks {ρ α : Type} (e : Env) (s : State) (major : Nat) (root : W64) (start : Nat → List W32)
    (prog : W64 → LaneWalk → Walking ρ α) (answer : State → Nat → ρ → State × Option WalkAns)
    (k : State → List (Nat × α) → Res) : Res :=
  let (root, ws) := match e.fr.wait with
    | some (.walks r ws) => (r, ws)
    | _ => (root, e.lanes.map fun L => ⟨L, start L, []⟩)
  let (s, ws) := stepWalks (prog root) answer s ws
  match walkEnds (prog root) ws with
  | none => .park s (.walks root ws)
  | some xs => match walkTrap (unitOf major) xs with
    | some t => .trap s [t]
    | none => k s (xs.filterMap fun x => match x.2 with
      | .ok y => some (x.1, y)
      | .error _ => none)

end Sys2Proof.Machine
end

