-- ==== Sys2Proof/Machine/Traverse.lean ====
section
/-!
DEFINITION. Hierarchies in memory (spec/16 R319 to R324) as the traversal unit reads them, and TRACE (spec/16 R325 to
R329).
-/
namespace Sys2Proof.Machine

/-! ### Structures (R319 to R323) -/

/-- A child of a node (R320): its kind, its six quantised bounds and its address. -/
structure BvhChild where
  kind : Nat
  q    : List Nat
  addr : Nat
  deriving DecidableEq, Repr

/-- A node (R320): its box, and its non-empty children in rising order. -/
structure BvhNode where
  lo   : List Nat
  hi   : List Nat
  kids : List BvhChild
  deriving DecidableEq, Repr

/-- The header of a primitive block (R322). -/
structure BvhBlock where
  leaf  : Nat
  pbase : Nat
  cnt   : Nat
  lo    : List Nat
  hi    : List Nat
  deriving DecidableEq, Repr

/-- An instance record (R323). -/
structure BvhInst where
  otw  : List Nat
  wto  : List Nat
  root : Nat
  iid  : Nat
  deriving DecidableEq, Repr

/-- `n` little-endian bytes of a block from an offset. -/
def fieldAt (bs : List Byte) (off n : Nat) : Nat := leNat ((bs.drop off).take n)
/-- `n` FP32 encodings from an offset. -/
def f32sAt (bs : List Byte) (off n : Nat) : List Nat := (List.range n).map fun i => fieldAt bs (off + 4 * i) 4
/-- The value of an FP32 encoding. -/
def f32Of (x : Nat) : Val := decodeVal fmtF32 x
/-- Is a value finite? -/
def Val.isFin : Val → Bool
  | .fin _ _ _ => true
  | _ => false
/-- Is a box one that R324 allows: finite, with lo ≤ hi on each axis? -/
def boxOk (lo hi : List Nat) : Bool :=
  (lo ++ hi).all (fun x => (f32Of x).isFin) && (lo.zip hi).all fun x => !(f32Of x.2).lt (f32Of x.1)

/-- The children of a node with their places. -/
def nodeChildren (a : Nat) (bs : List Byte) : List BvhChild :=
  (List.range 8).map fun c =>
    ⟨bits (fieldAt bs 104 2) (2 * c + 1) (2 * c), (List.range 6).map fun i => fieldAt bs (24 + 6 * c + i) 1,
      wrapInt 64 ((a : Int) + 64 * sval 32 (fieldAt bs (72 + 4 * c) 4))⟩

/-- Is a child one that R324 allows? `a` is its node's address. -/
def childOk (a : Nat) (c : BvhChild) : Bool :=
  if c.kind = 0 then c.q.all (· == 0) && c.addr == a else ((c.q.take 3).zip (c.q.drop 3)).all fun x => decide (x.1 ≤ x.2)

/-- The node in 128 bytes; none when it is malformed (R324). -/
def parseNode (a : Nat) (bs : List Byte) : Option BvhNode :=
  let lo := f32sAt bs 0 3
  let hi := f32sAt bs 12 3
  let cs := nodeChildren a bs
  if fieldAt bs 106 22 = 0 && boxOk lo hi && cs.all (childOk a) then some ⟨lo, hi, cs.filter fun c => c.kind != 0⟩ else none

/-- The block header in 64 bytes; none when it is malformed (R324). -/
def parseBvhBlock (bs : List Byte) : Option BvhBlock :=
  let lo := f32sAt bs 12 3
  let hi := f32sAt bs 24 3
  let cnt := fieldAt bs 8 1
  if fieldAt bs 9 3 = 0 && fieldAt bs 36 28 = 0 && boxOk lo hi && decide (1 ≤ cnt ∧ cnt ≤ 16) then
    some ⟨fieldAt bs 0 4, fieldAt bs 4 4, cnt, lo, hi⟩
  else none

/-- The instance record in 128 bytes; none when it is malformed (R324). -/
def parseInst (bs : List Byte) : Option BvhInst :=
  if fieldAt bs 112 16 = 0 && fieldAt bs 104 4 != 0xFFFFFFFF then
    some ⟨f32sAt bs 0 12, f32sAt bs 48 12, fieldAt bs 96 8, fieldAt bs 104 4⟩
  else none

/-- Does a reference break R319? -/
def badRef (a al : Nat) : Bool := decide (a % al ≠ 0 ∨ 2 ^ 56 ≤ a)

/-- An access that the traversal unit makes: `n` bytes of a structure. -/
structure TraceAsk where
  va : Nat
  n  : Nat
  deriving DecidableEq, Repr

/-- A structure read as one access, malformed where its reference breaks R319 or its bytes break R324. -/
def readStruct {α : Type} (a al n : Nat) (parse : List Byte → Option α) : Walking TraceAsk α :=
  if badRef a al then .fail { cause := 0x0D }
  else .ask ⟨a, n⟩ fun x => match x.bind fun xs => parse (leBytes n ((xs[0]?).getD 0)) with
    | some y => .done y
    | none => .fail { cause := 0x0D }

def readNode (a : Nat) : Walking TraceAsk BvhNode := readStruct a 128 128 (parseNode a)
def readBvhBlock (a : Nat) : Walking TraceAsk BvhBlock := readStruct a 64 64 parseBvhBlock
def readInst (a : Nat) : Walking TraceAsk BvhInst := readStruct a 128 128 parseInst

/-! ### Rays and boxes (R321, R326) -/

/-- A child's box, dequantised from its node's (R321): the encodings of its low and high corner. -/
def childBox (nd : BvhNode) (c : BvhChild) : List Nat × List Nat :=
  let at_ := fun (mode : Nat) (x : (Nat × Nat) × Nat) =>
    let lo := f32Of x.1.1
    let span := ((f32Of x.1.2).add false lo.neg).mul (.fin false x.2 255)
    (roundTo fmtF32 mode false (lo.add false span)).1
  (((nd.lo.zip nd.hi).zip (c.q.take 3)).map (at_ 3), ((nd.lo.zip nd.hi).zip (c.q.drop 3)).map (at_ 2))

/-- A ray (R325): origin, direction, tmin and tmax as FP32 encodings. -/
structure Ray where
  o    : List Nat
  d    : List Nat
  tmin : Nat
  tmax : Nat
  deriving DecidableEq, Repr

def Ray.words (r : Ray) : List Nat := r.o ++ r.d ++ [r.tmin, r.tmax]
/-- Has the ray a NaN component? -/
def Ray.isNan (r : Ray) : Bool := r.words.any fun x => (f32Of x).isNan
/-- Are origin and direction finite? -/
def Ray.isFin (r : Ray) : Bool := (r.o ++ r.d).all fun x => (f32Of x).isFin
/-- Does the ray hit nothing by R326: a NaN component, a zero direction, or tmin > tmax? -/
def Ray.hitsNothing (r : Ray) : Bool :=
  r.isNan || r.d.all (fun x => (f32Of x).eq (.fin false 0 1)) || (f32Of r.tmax).lt (f32Of r.tmin)

/-- An interval of exact t; none is unbounded. -/
structure Span where
  lo    : Option Frac
  hi    : Option Frac
  empty : Bool
  deriving DecidableEq, Repr

/-- The interval of a ray: the real t with tmin ≤ t ≤ tmax. -/
def Ray.span (r : Ray) : Span :=
  let a := f32Of r.tmin
  let b := f32Of r.tmax
  { lo := if a.isFin then some a.toFrac else none, hi := if b.isFin then some b.toFrac else none,
    empty := a.eq (.inf false) || b.eq (.inf true) }

/-- The part of an interval from `x` to `y`. -/
def Span.cut (p : Span) (x y : Frac) : Span :=
  { p with lo := some (match p.lo with
             | some l => if l.lt x then x else l
             | none => x),
           hi := some (match p.hi with
             | some h => if y.lt h then y else h
             | none => y) }
/-- Does the interval hold a point? -/
def Span.holds (p : Span) : Bool :=
  !p.empty && (match p.lo, p.hi with
    | some l, some h => l.le h
    | _, _ => true)
/-- Does the interval hold `t`? -/
def Span.mem (p : Span) (t : Frac) : Bool := (p.cut t t).holds

/-- An interval cut by one axis of a box: origin, direction, low and high bound. -/
def Span.axis (p : Span) (o d lo hi : Frac) : Span :=
  if d.isZero then (if lo.le o && o.le hi then p else { p with empty := true })
  else
    let x := (lo.sub o).div d
    let y := (hi.sub o).div d
    if x.lt y then p.cut x y else p.cut y x

/-- Does the ray's segment meet a closed box (R326)? -/
def Ray.meets (r : Ray) (box : List Nat × List Nat) : Bool :=
  if r.isNan || (f32Of r.tmax).lt (f32Of r.tmin) then false
  else if r.isFin then
    let f := fun (x : Nat) => (f32Of x).toFrac
    (((r.o.zip r.d).zip (box.1.zip box.2)).foldl (fun p x => p.axis (f x.1.1) (f x.1.2) (f x.2.1) (f x.2.2)) r.span).holds
  else Config.infiniteBox r.words (box.1 ++ box.2)

/-- The ray inside an instance (R326), with the flags of its rounding (R116, R121). -/
def Ray.inside (r : Ray) (wto : List Nat) : Ray × Nat :=
  let m := wto.map f32Of
  let at_ := fun (i j : Nat) => (m[4 * i + j]?).getD (.fin false 0 1)
  let dot := fun (v : List Nat) (i : Nat) => (v.zip (List.range 3)).foldl (fun (a : Val) x =>
    a.add false ((at_ i x.2).mul (f32Of x.1))) (.fin false 0 1)
  let o := (List.range 3).map fun i => roundTo fmtF32 0 false ((dot r.o i).add false (at_ i 3))
  let d := (List.range 3).map fun i => roundTo fmtF32 0 false (dot r.d i)
  ({ r with o := o.map Prod.fst, d := d.map Prod.fst }, orFlags ((o ++ d).map Prod.snd))

/-! ### Triangles (R326, R327) -/

/-- A hit: its exact t, its primitive and instance, whether it is from the back, t and the weights in FP32, and the flags of
their rounding (R327). -/
structure TraceHit where
  t    : Val
  prim : Nat
  iid  : Nat
  back : Bool
  out  : List Nat
  flags : Nat
  deriving DecidableEq, Repr

/-- A point or a vector of exact coordinates. -/
structure Vec3 where
  x : Frac
  y : Frac
  z : Frac
  deriving DecidableEq, Repr

def vec3 (xs : List Nat) : Vec3 :=
  let f := fun (i : Nat) => (f32Of ((xs[i]?).getD 0)).toFrac
  ⟨f 0, f 1, f 2⟩
def Vec3.sub (a b : Vec3) : Vec3 := ⟨(a.x.sub b.x).norm, (a.y.sub b.y).norm, (a.z.sub b.z).norm⟩
def Vec3.cross (a b : Vec3) : Vec3 :=
  ⟨((a.y.mul b.z).sub (a.z.mul b.y)).norm, ((a.z.mul b.x).sub (a.x.mul b.z)).norm, ((a.x.mul b.y).sub (a.y.mul b.x)).norm⟩
def Vec3.dot (a b : Vec3) : Frac := (((a.x.mul b.x).add (a.y.mul b.y)).add (a.z.mul b.z)).norm

/-- The exact t, b1 and b2 at which a finite ray's line meets a finite triangle's plane, with the determinant D; none when
D is 0. -/
def planeHit (o d v0 v1 v2 : Vec3) : Option (Frac × Frac × Frac × Frac) :=
  let e1 := v1.sub v0
  let e2 := v2.sub v0
  let n := e1.cross e2
  let det := n.dot d
  if det.isZero then none
  else
    let r := o.sub v0
    some (det, ((n.dot (v0.sub o)).div det).norm, (((r.cross e2).dot d).div det).norm, (((e1.cross r).dot d).div det).norm)

/-- The flags that rounding to FP32 can raise (R116, R120). -/
def roundFlags : Nat := flInv + flOvf + flUnf + flInx

/-- The hit of a ray on a triangle, if any (R326). -/
def triangleHit (r : Ray) (tri : List Nat) (prim iid : Nat) : Option TraceHit :=
  if r.hitsNothing || tri.any (fun x => (f32Of x).isNan) then none
  else if r.isFin && tri.all fun x => (f32Of x).isFin then
    match planeHit (vec3 r.o) (vec3 r.d) (vec3 tri) (vec3 (tri.drop 3)) (vec3 (tri.drop 6)) with
    | none => none
    | some (det, t, b1, b2) =>
      let zero : Frac := ⟨0, 1⟩
      if zero.le b1 && zero.le b2 && (b1.add b2).le ⟨1, 1⟩ && r.span.mem t then
        let out := [t, b1, b2].map fun x => roundTo fmtF32 0 false x.toVal
        some ⟨t.toVal, prim, iid, zero.lt det, out.map Prod.fst, orFlags (out.map Prod.snd)⟩
      else none
  else (Config.infiniteHit r.words tri).map fun h =>
    ⟨f32Of h.2.1, prim, iid, h.1, [h.2.1, h.2.2.1, h.2.2.2.1], h.2.2.2.2 &&& roundFlags⟩

/-- Is a hit to be reported before another (R326)? -/
def TraceHit.before (x y : TraceHit) : Bool :=
  x.t.lt y.t || (x.t.eq y.t && (decide (x.prim < y.prim) || (x.prim == y.prim && decide (x.iid < y.iid))))

/-! ### The walk of a lane (R326, R328) -/

abbrev TraceWalking := Walking TraceAsk

/-- How far a lane's walk has come: the hit to report, whether it has skipped a page not resident, and the flags raised. -/
structure TraceEnd where
  hit     : Option TraceHit := none
  skipped : Bool := false
  flags   : Nat := 0
  deriving DecidableEq, Repr

/-- A structure read by the walk: what follows it, its subtree skipped (R328), or the end of the walk (R329). -/
def TraceEnd.after {α : Type} (k : TraceEnd) (a al n : Nat) (parse : List Byte → Option α) (f : α → TraceWalking TraceEnd) :
    TraceWalking TraceEnd :=
  if badRef a al then .fail { cause := 0x0D }
  else .ask ⟨a, n⟩ fun x => match x with
    | none => .done { k with skipped := true }
    | some xs => match parse (leBytes n ((xs[0]?).getD 0)) with
      | some y => f y
      | none => .fail { cause := 0x0D }

/-- A hit met by the walk: under .first the first one stays. -/
def TraceEnd.meet (k : TraceEnd) (first : Bool) (h : Option TraceHit) : TraceEnd :=
  match h, k.hit with
  | none, _ => k
  | some h, none => { k with hit := some h }
  | some h, some g => if !first && h.before g then { k with hit := some h } else k

/-- The triangles of a block, in order (R322, R326). -/
def visitBlock (first : Bool) (iid : Nat) (ray : Ray) (a : Nat) (k : TraceEnd) : TraceWalking TraceEnd :=
  k.after a 64 64 parseBvhBlock fun b => Walking.each (fun k t =>
    k.after (a + 64 + 36 * t) 1 36 (fun bs => some (f32sAt bs 0 9)) fun tri =>
      .done (k.meet first (triangleHit ray tri ((b.pbase + t) % 2 ^ 32) iid))) (List.range b.cnt) k

/-- Visit (R326) of a node with `fuel` levels left; a node at depth 17 is malformed (R324). `inst` is none outside an
instance. -/
def visitNode (first : Bool) : Nat → Option Nat → Ray → Nat → TraceEnd → TraceWalking TraceEnd
  | 0, _, _, _, _ => .fail { cause := 0x0D }
  | fuel + 1, inst, ray, a, k =>
    k.after a 128 128 (parseNode a) fun nd => Walking.each (fun k c =>
      if !ray.meets (childBox nd c) then .done k
      else if c.kind = 1 then visitNode first fuel inst ray c.addr k
      else if c.kind = 2 then visitBlock first (inst.getD 0xFFFFFFFF) ray c.addr k
      else if inst.isSome then .fail { cause := 0x0D }
      else k.after c.addr 128 128 parseInst fun i =>
        let (r, fl) := ray.inside i.wto
        visitNode first fuel (some i.iid) r i.root { k with flags := k.flags ||| fl }) nd.kids k

/-! ### TRACE (R325 to R329) -/

/-- A lane's ray, from its eight words. -/
def rayOf (ws : List W32) : Ray :=
  let x := ws.map fun w => w.toNat
  ⟨x.take 3, (x.drop 3).take 3, (x[6]?).getD 0, (x[7]?).getD 0⟩

/-- A lane's walk from the root. -/
def traceWalk (first : Bool) (root : W64) (w : LaneWalk) : TraceWalking TraceEnd :=
  visitNode first 16 none (rayOf w.args) root.toNat {}

/-- The answer of one read of a lane's walk (R328, R329), after the warp's own pending stores (R223); none where it must wait.
A page not resident is reported when it is met (R40, R82). -/
def traceAnswer (e : Env) (s : State) (L : Nat) (a : TraceAsk) : State × Option WalkAns :=
  let rd : Reader := .l2 (towerOf e.ref.core)
  let (s, x) := translateParts s rd e.w (700 + L) .rd true none none (splitPages a.va a.n)
  match withPoison s .rd x with
  | .bad c va => (s, some (.bad ⟨c, va, 15 + 256 * a.n, Acc.rd.code⟩))
  | .absent va => (s.reportFeedback e.ref.core e.ref.slot va (iv e.f % 16), some .absent)
  | .held => (s, none)
  | .ok ps =>
    if ps.any (Piece.held s rd false) then (s, none)
    else
      let s := touchLoads s rd ps
      (s, some (.data [leNat (loadBytes s (towerOf e.ref.core) e.w ps)]))

/-- The six words of a lane's hit record (R327). -/
def hitRecord (k : TraceEnd) : List Nat :=
  let inc := if k.skipped then 256 else 0
  match k.hit with
  | some h => [(if h.back then 2 else 1) + inc, h.prim, h.iid] ++ h.out
  | none => [(if k.skipped then 3 else 0) + inc, 0xFFFFFFFF, 0xFFFFFFFF, 0x7F800000, 0, 0]

/-- The flags of a lane's walk (R121): of the rays inside instances, and of the hit that it reports. -/
def TraceEnd.raised (k : TraceEnd) : Nat := k.flags ||| ((k.hit.map TraceHit.flags).getD 0)

/-- TRACE (R325 to R329). -/
def execTrace (f : Fields) (s : State) : Host.Outcome State Fault Refusal :=
  issue (.trace f) f .lanes (fun e s =>
    withWalks e s 0xD8 (e.s e.opb 2) (fun L => (List.range 8).map fun j => e.v (e.opa + j) L 1) (traceWalk (bitAt (qv f) 0))
      (traceAnswer e) fun s ks =>
        let s := ks.foldl (fun s x => ((hitRecord x.2).zip (List.range 6)).foldl (fun s y =>
          e.setV s (e.dst + y.2) x.1 (BitVec.ofNat 32 y.1)) s) s
        .done (e.raise s (orFlags (ks.map fun x => x.2.raised)))) s

end Sys2Proof.Machine
end

