-- ==== Sys2Proof/Machine/Pair.lean ====
section
/-!
DEFINITION. Pair traversal (spec/16 R330 to R336): PAIR and PAIRX, and the steps of their operations.
-/
namespace Sys2Proof.Machine

/-! ### Accesses of an operation -/

/-- The context of an operation's accesses that no segment names. -/
def pairCtx (core : Nat) (w : Warp) : DevCtx := { matCtx core w with salt := 710 }
/-- The context of an operation's accesses through the rcq segment (R75), whose lines a near cache holds (R150). -/
def rcqCtx (core : Nat) (w : Warp) : DevCtx :=
  let g := (w.r.g[5]?).getD ({} : Seg)
  { matCtx core w with
    rd := .near core
    salt := 711
    cls := if w.r.lclass.getLsbD 3 then some (w.r.lclass.toNat % 8) else if g.lcov then some g.lclass.toNat else none }

/-- The answer of one read of an operation, which is not feedback-capable (R83); none where it must wait. -/
def pairAnswer (s : State) (core : Nat) (w : Warp) (a : TraceAsk) : State × Option WalkAns :=
  match devRead s (pairCtx core w) a.va a.n with
  | (s, .ok bs) => (s, some (.data [leNat bs]))
  | (s, .bad c va) => (s, some (.bad ⟨c, va, 15 + 256 * a.n, Acc.rd.code⟩))
  | (s, .wait) => (s, none)

/-! ### Members and their boxes (R332) -/

/-- A member of an entry: a node or block with its depth, and its instance record or 0. -/
structure Member where
  addr  : Nat
  block : Bool
  depth : Nat
  inst  : Nat
  deriving DecidableEq, Repr

def PairEntry.mx (e : PairEntry) : Member := ⟨e.x, e.xBlock, e.xDepth, e.xInst⟩
def PairEntry.my (e : PairEntry) : Member := ⟨e.y, e.yBlock, e.yDepth, e.yInst⟩

/-- A box in world space; none when its image holds a NaN. -/
abbrev WorldBox := Option (List Val × List Val)

/-- The least of some values, and the greatest. -/
def valMin (xs : List Val) : Val := xs.tail.foldl (fun a x => if x.lt a then x else a) (xs.headD (.nan false))
def valMax (xs : List Val) : Val := xs.tail.foldl (fun a x => if a.lt x then x else a) (xs.headD (.nan false))

/-- A bound of an image rounded to FP32; one that overflows is an infinity (R332). The rounding raises no flag: R332 does not
speak of flags (DESIGN CHOICE, log 91). -/
def boundVal (mode : Nat) (x : Val) : Val :=
  let r := roundTo fmtF32 mode false x
  match x with
  | .fin neg _ _ => if r.2 &&& flOvf = 0 then f32Of r.1 else .inf neg
  | _ => f32Of r.1

/-- The image of a box under an object-to-world matrix, rounded outward (R332). -/
def worldBox (otw lo hi : List Nat) : WorldBox :=
  let m := otw.map f32Of
  let l := lo.map f32Of
  let h := hi.map f32Of
  let at_ := fun (xs : List Val) (i : Nat) => (xs[i]?).getD (.fin false 0 1)
  let corner := fun (r c : Nat) => (List.range 3).foldl (fun (a : Val) k =>
    a.add false ((at_ m (4 * r + k)).mul (at_ (if c.testBit k then h else l) k))) (at_ m (4 * r + 3))
  let rows := (List.range 3).map fun r => (List.range 8).map (corner r)
  if rows.any fun r => r.any Val.isNan then none
  else
    some (rows.map fun r => boundVal 3 (valMin r), rows.map fun r => boundVal 2 (valMax r))

/-- Do two closed boxes overlap (R332)? -/
def boxesMeet (a b : WorldBox) : Bool :=
  match a, b with
  | some (al, ah), some (bl, bh) => (al.zip bh).all (fun x => !x.2.lt x.1) && (bl.zip ah).all fun x => !x.2.lt x.1
  | _, _ => false

/-- A member's node; one at depth 17 is malformed (R324). -/
def memberNode (m : Member) : TraceWalking BvhNode := if 16 < m.depth then .fail { cause := 0x0D } else readNode m.addr

/-- The box stored in a member itself, in world space. -/
def memberBox (m : Member) : TraceWalking WorldBox :=
  (if m.block then (readBvhBlock m.addr).bind fun b => .done (b.lo, b.hi)
    else (memberNode m).bind fun n => .done (n.lo, n.hi)).bind fun b =>
  if m.inst = 0 then .done (some (b.1.map f32Of, b.2.map f32Of)) else (readInst m.inst).bind fun i => .done (worldBox i.otw b.1 b.2)

/-- A member with its box. -/
abbrev Boxed := Member × WorldBox

/-- The member that a child of a node stands for, with its box. An instance child stands for the instanced root; the depth of a
block is kept at most 16 (R334). -/
def childMember (x : Member) (c : BvhChild) : TraceWalking Boxed :=
  (if c.kind = 3 then
      (if x.inst ≠ 0 then .fail { cause := 0x0D }
       else (readInst c.addr).bind fun i => .done (⟨i.root, false, x.depth + 1, c.addr⟩ : Member))
    else .done ⟨c.addr, c.kind == 2, if c.kind = 2 then min 16 (x.depth + 1) else x.depth + 1, x.inst⟩).bind fun m =>
  (memberBox m).bind fun b => .done (m, b)

/-- The children of a node, as members with their boxes. -/
def membersOf (x : Member) : TraceWalking (List Boxed) :=
  (memberNode x).bind fun n => Walking.each (fun ms c => (childMember x c).bind fun m => .done (ms ++ [m])) n.kids []

/-- An entry of two members that came from another entry. -/
def pairOf (e : PairEntry) (x y : Member) (self : Bool) : PairEntry :=
  { x := x.addr, y := y.addr, xBlock := x.block, yBlock := y.block, xDepth := x.depth, yDepth := y.depth, xInst := x.inst,
    yInst := y.inst, lane := e.lane, self := self, descSelf := e.descSelf }

/-- The entries of a self entry of a node, in the order of R332. -/
def selfPairs (e : PairEntry) : List Boxed → List PairEntry
  | [] => []
  | (m, b) :: ms =>
    (if m.block then [] else [pairOf e m m true]) ++
      (ms.filterMap fun y => if boxesMeet b y.2 then some (pairOf e m y.1 false) else none) ++ selfPairs e ms

/-! ### The queue (R330, R333) -/

/-- How an append ends. -/
inductive Appended where
  | ok
  | full
  | bad (cause va acc aux : Nat)
  | wait
  deriving DecidableEq, Repr

/-- One record appended to an operation's queue (R330): one atomic step, refused when the queue is full, or when its header
would be bound and finds its slice's watch table full (R381). -/
def appendRecord (s : State) (core : Nat) (w : Warp) (q : W64) (data : List Byte) : State × Appended :=
  let g := (w.r.g[5]?).getD ({} : Seg)
  let d := rcqCtx core w
  let at_ := fun (o : Nat) => (g.base.toNat + o) % 2 ^ 64
  let stop := fun (s : State) (c va acc n : Nat) =>
    (s, if c = 0x0D then Appended.bad c 0 0 0 else Appended.bad c va acc (5 + 256 * n))
  match segCheck g q.toNat 64 true with
  | some c => stop s c (at_ q.toNat) 2 64
  | none => match devResolve s d .rw (at_ q.toNat) 64 with
  | (s, .bad c va) => stop s c va 3 64
  | (s, .wait) => (s, .wait)
  | (s, .ok hp) =>
    let h := queueHdr (leNat (hp.flatMap fun p => s.bytes p.addr p.len))
    if h.malformed (launchOf s w) then stop s 0x0D (at_ q.toNat) 0 64
    else
      let bound := fun (s : State) => bindQueue s w.cslot w.launch ((hp.head?.map fun p => p.addr).getD 0) q h
      if h.room = 0 || (bound s).isNone then ((bound s).getD s, .full)
      else
        let o := h.slot q.toNat h.tail
        match segCheck g o 16 true with
        | some c => stop s c (at_ o) 2 16
        | none => match devResolve s d .wr (at_ o) 16 with
        | (s, .bad c va) => stop s c va 2 16
        | (s, .wait) => (s, .wait)
        | (s, .ok ps) =>
          let tail := hp.map fun p => { p with addr := p.addr + 8, len := 4 }
          let s := s.flow [.pairs w.ctxid w.tag] (.queue ((hp.head?.map fun p => p.addr).getD 0))
          (devStoreParts ((bound s).getD s) d.rd (ps ++ tail) (data ++ leBytes 4 ((h.tail + 1) % 2 ^ 32)), .ok)

/-- The reference of a block member (R333): its leaf and its instance identifier. -/
def memberRef (m : Member) : TraceWalking (Nat × Nat) :=
  (readBvhBlock m.addr).bind fun b =>
    if m.inst = 0 then .done (b.leaf, 0xFFFFFFFF) else (readInst m.inst).bind fun i => .done (b.leaf, i.iid)

/-- The record of a pair (R333). -/
def pairRecord (self : Bool) (a b : Nat × Nat) : List Byte :=
  let key := fun (r : Nat × Nat) => r.1 * 2 ^ 32 + r.2
  let (a, b) := if self && decide (key b < key a) then (b, a) else (a, b)
  [a.1, a.2, b.1, b.2].flatMap (leBytes 4)

/-! ### The continuation record (R334) -/

/-- The four words of an entry. -/
def PairEntry.words (e : PairEntry) : List Nat :=
  [e.x / 64 * 64 + b2n e.xBlock + 2 * (e.xDepth % 32), e.y / 64 * 64 + b2n e.yBlock + 2 * (e.yDepth % 32),
    e.xInst / 128 * 128 + e.lane % 64 + 64 * b2n e.self, e.yInst / 128 * 128 + b2n e.descSelf]

/-- A piece of a continuation record, one access: its header, then the entries from the bottom of the stack (log 96). None is
left when all are written. -/
def contPiece (cont : Nat) (stack : List PairEntry) (i : Nat) : Option (Nat × List Byte) :=
  if i = 0 then some (cont, leBytes 64 stack.length)
  else (stack.reverse[i - 1]?).map fun e => (cont + 32 + 32 * i, e.words.flatMap (leBytes 8))

/-- The entry in four words; none when it is malformed (R334). -/
def parseEntry (bs : List Byte) : Option PairEntry :=
  let w := fun (i : Nat) => wordAt bs i
  let e : PairEntry :=
    { x := w 0 / 64 * 64, y := w 1 / 64 * 64, xBlock := (w 0).testBit 0, yBlock := (w 1).testBit 0,
      xDepth := bits (w 0) 5 1, yDepth := bits (w 1) 5 1, xInst := w 2 / 128 * 128, yInst := w 3 / 128 * 128,
      lane := w 2 % 64, self := (w 2).testBit 6, descSelf := (w 3).testBit 0 }
  let bad := fun (m : Member) => decide (m.addr % (if m.block then 64 else 128) ≠ 0) || decide (2 ^ 56 ≤ m.addr) ||
    decide (2 ^ 56 ≤ m.inst) || decide (m.depth = 0) || decide (16 < m.depth)
  if bits (w 3) 6 1 ≠ 0 || bad e.mx || bad e.my || (e.self && !e.descSelf) then none else some e

/-- The stack that a continuation record holds (R334), top first, each piece read as one access (log 96). -/
def loadStack (c : Nat) : TraceWalking (List PairEntry) :=
  .ask ⟨c, 64⟩ fun x =>
    let h := ((x.bind List.head?).getD 0)
    if 2 ^ 32 ≤ h ∨ 2048 < h then .fail { cause := 0x0D }
    else Walking.each (fun es i => .ask ⟨c + 64 + 32 * i, 32⟩ fun x =>
      match parseEntry (leBytes 32 ((x.bind List.head?).getD 0)) with
      | some e => .done (e :: es)
      | none => .fail { cause := 0x0D }) (List.range h) []

/-! ### PAIR and PAIRX (R331) -/

/-- The checks at issue (R331), in order: the trap of the first that fails, or a wait of a page walk. -/
def pairChecks (e : Env) (s : State) (q c : Nat) : State × ScalarOut :=
  let t := fun (seg n cause va : Nat) =>
    ScalarOut.bad { cause := cause, va := BitVec.ofNat 64 va, aux := BitVec.ofNat 32 (seg + 256 * n), acc := 2,
                    lanes := e.active, unit := 5 }
  let qva := (e.seg 5).base.toNat + q
  match segCheck (e.seg 5) q 64 true with
  | some x => (s, t 5 64 x qva)
  | none =>
    if q % 64 ≠ 0 then (s, t 5 64 4 qva)
    else if 2 ^ 56 ≤ c then (s, t 15 65600 3 c)
    else if c % 64 ≠ 0 then (s, t 15 65600 4 c)
    else match devParts s (pairCtx e.ref.core e.w) .wr (splitPages c 65600) with
    | (s, .bad x va) => (s, t 15 65600 x va)
    | (s, .wait) => (s, .wait)
    | (s, .ok _) => (s, .ok [])

/-- The operation issued (R331), with the warp's stores before it performed (R336), or its status with an empty Active. -/
def issuePair (e : Env) (s : State) (major : Nat) (stack : Option (List PairEntry)) : Res :=
  if e.active = 0 then e.guardS s major [e.dst] fun _ => .done (e.setS s e.dst 0)
  else if 255 ≤ e.w.trv.length then .park s (.other 252)
  else
    let q := e.s e.opb 2
    let c := e.s e.opc 3
    match pairChecks e s q.toNat c.toNat with
    | (s, .bad t) => .trap s [t]
    | (s, .wait) => .park s (.other 166)
    | (s, .ok _) => match settleStores s e.ref.core e.ref.slot with
    | none => e.parkPends s
    | some s =>
      .done ((s.flow e.w.allBefore (.pairs e.w.ctxid e.w.tag)).modWarp e.ref.core e.ref.slot fun w =>
        { w with trv := w.trv ++ [⟨e.fr.pc, e.active, e.dst, q, c, if stack.isSome then .run else .load, stack, 0, [], 0⟩] })

/-- A lane's first entry (R332). -/
def rootEntry (e : Env) (L : Nat) : PairEntry :=
  let a := (e.v64 e.opa L 1).toNat
  let b := (e.v64 (e.opa + 2) L 1).toNat
  { x := a, y := b, xBlock := false, yBlock := false, xDepth := 1, yDepth := 1, xInst := 0, yInst := 0, lane := L,
    self := a == b, descSelf := a == b }

/-- PAIR (R331, R332). -/
def execPair (f : Fields) (s : State) : Host.Outcome State Fault Refusal :=
  issue (.pair f) f .always (fun e s => issuePair e s 0xD9 (some (e.lanes.map (rootEntry e)))) s

/-- PAIRX (R331, R332). -/
def execPairx (f : Fields) (s : State) : Host.Outcome State Fault Refusal :=
  issue (.pairx f) f .always (fun e s => issuePair e s 0xDA none) s

/-! ### The operation's steps (R332 to R336) -/

/-- An operation of a warp that may go on: at rest, it only writes the continuation for which its warp waits (R402). -/
def State.pairOp (s : State) (core slot idx : Nat) : Option (Warp × PairOp) :=
  (s.warp core slot).bind fun w => (w.trv[idx]?).bind fun o => if w.resting && o.phase != .rewrite then none else some (w, o)
/-- An operation of a warp changed. -/
def State.modPair (s : State) (core slot idx : Nat) (f : PairOp → PairOp) : State :=
  s.modWarp core slot fun w => { w with trv := modAt f idx w.trv }

/-- What an entry becomes (R332): the entries that take its place, in order, or a pair to emit. -/
inductive Expanded where
  | entries (es : List PairEntry)
  | emit (data : List Byte)
  deriving DecidableEq, Repr

/-- One entry worked on, its reads in order (R332). -/
def expandEntry (e : PairEntry) : TraceWalking Expanded :=
  let x := e.mx
  let y := e.my
  if e.self then
    if x.block then .done (.entries []) else (membersOf x).bind fun ms => .done (.entries (selfPairs e ms))
  else
    let go : TraceWalking Expanded :=
      if !x.block then (memberBox y).bind fun yb => (membersOf x).bind fun ms =>
        .done (.entries (ms.filterMap fun m => if boxesMeet m.2 yb then some (pairOf e m.1 y false) else none))
      else if !y.block then (memberBox x).bind fun xb => (membersOf y).bind fun ms =>
        .done (.entries (ms.filterMap fun m => if boxesMeet xb m.2 then some (pairOf e x m.1 false) else none))
      else (memberRef x).bind fun a => (memberRef y).bind fun b => .done (.emit (pairRecord e.descSelf a b))
    -- the entry of two roots is used only if their boxes overlap
    if x.depth = 1 ∧ y.depth = 1 then
      (memberBox x).bind fun xb => (memberBox y).bind fun yb => if boxesMeet xb yb then go else .done (.entries [])
    else go

/-- The phase of an operation that met a fault. -/
def WalkFail.phase (f : WalkFail) : PairPhase := .stopping f.cause (BitVec.ofNat 64 f.va) f.acc f.aux

/-- The operation goes on with a walk (R332, R334): its next read, made alone (R336, R430), or what follows its end. -/
def walkPair {α : Type} (core slot idx : Nat) (w : Warp) (o : PairOp) (p : TraceWalking α) (k : State → α → State) (s : State) :
    State :=
  match p.feed o.got with
  | .done x => k s x
  | .fail f => s.modPair core slot idx fun o => { o with phase := f.phase, got := [] }
  | .ask a _ => match pairAnswer s core w a with
    | (s, some x) => s.modPair core slot idx fun o => { o with got := o.got ++ [x] }
    | (s, none) => s

/-- The next piece of an operation's continuation is written (R334), or all are and `k` follows. `bad` takes the address and the
size of a write that faults. -/
def putCont (core slot idx : Nat) (w : Warp) (o : PairOp) (k : State → State) (bad : State → WalkFail → State) (s : State) :
    State :=
  match contPiece o.cont.toNat (o.stack.getD []) o.put with
  | none => k s
  | some (va, data) => match devWrite s (pairCtx core w) va data with
    | (s, .ok _) => s.modPair core slot idx fun o => { o with put := o.put + 1 }
    | (s, .bad c a) => bad (s.modPair core slot idx fun o => { o with put := 0 }) ⟨c, a, 15 + 256 * data.length, Acc.wr.code⟩
    | (s, .wait) => s

/-- PAIR_OPERATION_RUN (R332 to R336): one access of the operation: a read for the entry on top of its stack, the append of a
pair, or a piece of the continuation loaded or written again. -/
def execPairOperationRun (core slot idx : Nat) (s : State) : Host.Outcome State Fault Refusal :=
  match (if s.pkg.powered then s.pairOp core slot idx else none) with
  | none => .next s
  | some (w, o) =>
    let put := fun (s : State) (f : PairOp → PairOp) => s.modPair core slot idx f
    match o.phase with
    | .load => .next (walkPair core slot idx w o (loadStack o.cont.toNat) (fun s es =>
        put s fun o => { o with stack := some es, phase := .run, got := [] }) s)
    | .rewrite => .next (putCont core slot idx w o (fun s => put s fun o => { o with phase := .load, stack := none, put := 0 })
        (fun s f => put s fun o => { o with phase := f.phase }) s)
    | .run => .next (match o.stack.getD [] with
      | [] => put s fun o => { o with phase := .finish false }
      | e :: rest => walkPair core slot idx w o (expandEntry e) (fun s x => match x with
        | .entries es => put s fun o => { o with stack := some (es ++ rest), got := [] }
        | .emit data => match appendRecord s core w o.queue data with
          | (s, .ok) => put s fun o => { o with stack := some rest, appended := o.appended + 1, got := [] }
          | (s, .full) => put s fun o => { o with phase := .finish true, got := [] }
          | (s, .bad c va acc aux) => put s fun o => { o with phase := .stopping c (BitVec.ofNat 64 va) acc aux, got := [] }
          | (s, .wait) => s) s)
    | _ => .next s

/-- PAIR_OPERATION_COMPLETE (R334, R336, R353): the continuation, piece by piece, then the status in the warp's own register. -/
def execPairOperationComplete (core slot idx : Nat) (s : State) : Host.Outcome State Fault Refusal :=
  match (if s.pkg.powered then s.pairOp core slot idx else none) with
  | none => .next s
  | some (w, o) => match o.phase with
    | .finish part => .next (putCont core slot idx w o (fun s =>
        let x := BitVec.ofNat 64 (o.appended * 2 ^ 32 + b2n part)
        let s := s.modWarp core slot fun w =>
          { w with trv := dropAt idx w.trv, r := { w.r with s := spSet 0 w.r.s o.dst x } }
        (s.clearBad core (.sca slot o.dst 0)).clearBad core (.sca slot o.dst 1))
      (fun s f => s.modPair core slot idx fun o => { o with phase := f.phase }) s)
    | _ => .next s

/-- The operation is held and the warp's fragments stop, with one record (R335); `written` tells whether its continuation is. -/
def holdPair (core slot idx : Nat) (w : Warp) (o : PairOp) (written : Bool) (t : Trap) (s : State) : State :=
  let (entry, w') := stopFragments t.cause ((s.warp core slot).getD w)
  let t := { t with unit := 5, lanes := match o.stack with
    | some (e :: _) => laneBit e.lane
    | _ => o.active }
  ((s.setWarp core slot (some w')).modPair core slot idx fun o => { o with phase := .held written, put := 0 }).modCore core
    fun k => { k with records := k.records ++ [recordOf s ⟨core, slot, entry⟩ w o.pc 0 t] }

/-- PAIR_OPERATION_STOP (R335): the continuation is written, piece by piece, and the operation is held with its record. When
the continuation write itself faults, the record names its address. -/
def execPairOperationStop (core slot idx : Nat) (s : State) : Host.Outcome State Fault Refusal :=
  match (if s.pkg.powered then s.pairOp core slot idx else none) with
  | none => .next s
  | some (w, o) => match o.phase with
    | .stopping cause va acc aux =>
      let t : Trap := { cause := cause, va := va, acc := acc, aux := BitVec.ofNat 32 aux }
      .next (if o.stack.isNone then holdPair core slot idx w o true t s
        else putCont core slot idx w o (holdPair core slot idx w o true t) (fun s f => holdPair core slot idx w o false
          { cause := f.cause, va := BitVec.ofNat 64 f.va, acc := f.acc, aux := BitVec.ofNat 32 f.aux } s) s)
    | _ => .next s

/-- An operation begins to come to rest for an eviction (R335, R402): between two entries, it is to write its continuation, from
which it then goes on; one that is loading it begins again. -/
def PairOp.rest (o : PairOp) : PairOp :=
  match o.phase with
  | .run => { o with phase := .rewrite, got := [], put := 0 }
  | .load => { o with got := [] }
  | _ => o
/-- Has an operation come to rest? -/
def PairOp.rested (o : PairOp) : Bool := o.phase != .run && o.phase != .rewrite

end Sys2Proof.Machine
end

