-- ==== Sys2Proof/Machine/Raster.lean ====
section
/-!
DEFINITION. The tile raster (spec/16 R337 to R341): the tile directory, TLACQ, TLREL and ORDW, coverage and depth tests.
-/
namespace Sys2Proof.Machine

/-! ### The tile directory (R337) -/

/-- The directory slice of a key, over both towers: slice h[5:0] of layer h[7:6] of tower (ctxid mod 2). -/
def tileSlice (ctxid : BitVec 16) (key : Nat) : Nat :=
  ctxid.toNat % 2 * 256 + (bits key 7 0 ^^^ bits key 15 8 ^^^ bits key 23 16 ^^^ bits key 31 24)
/-- The entry of a key in a context. -/
def State.tile (s : State) (ctxid : BitVec 16) (key : Nat) : Option Tile :=
  s.tiles.find? fun t => t.ctxid == ctxid && t.key == key
/-- The entries of a slice in use. -/
def tilesIn (s : State) (slice : Nat) : Nat := (s.tiles.filter fun t => t.slice == slice).length
/-- Bytes of tile memory, and the offset of its colour plane. -/
def tileBytes : Nat := 32768

/-- The oldest waiter for a key of a context, by its fragment. -/
def oldestWaiter (s : State) (ctxid : BitVec 16) (key : Nat) : Option Waiter :=
  s.tileWait.find? fun w => w.key == key && (s.warp w.ref.core w.ref.slot).any fun x => x.ctxid == ctxid && x.tag == w.wtag

/-- The logical time of the last release of a key of a context (R341). -/
def State.releasedAt (s : State) (ctxid : BitVec 16) (key : Nat) : Nat :=
  ((s.released.find? fun x => x.ctxid == ctxid && x.key == key).map fun x => x.time).getD 0
/-- A key of a context is released by a workgroup of a tower, at its logical time (R341). -/
def State.noteRelease (s : State) (tower : Nat) (ctxid : BitVec 16) (key : Nat) : State :=
  { s with released := (⟨ctxid, key, (s.tower tower).pts⟩ : TileTime) :: s.released.filter fun x => !(x.ctxid == ctxid && x.key == key) }

/-- The check of the tile memory that TLACQ and ZTST name (R337, R340): under R77, then its alignment. -/
def tileCheck (e : Env) (major off len : Nat) (store : Bool) : Option Trap :=
  let t := fun (c : Nat) => some { cause := c, va := BitVec.ofNat 64 off, aux := BitVec.ofNat 32 (1 + 256 * len),
                                   acc := if store then 2 else 1, lanes := e.active, unit := unitOf major : Trap }
  match segCheck (e.seg 1) off len store with
  | some c => t c
  | none => if off % 4096 ≠ 0 then t 4 else none

/-- TLACQ (R337). A fragment that waits stands in the key's arrival order; when it is tried again it goes on from its
wait, past the checks it has made. The logical time rises to that of the key's last release (R341). -/
def execTlacq (f : Fields) (s : State) : Host.Outcome State Fault Refusal :=
  issue (.tlacq f) f .lanes (fun e s =>
    let key := (e.s e.opa 1).toNat
    let off := (e.s e.opb 2).toNat
    let me := fun (w : Waiter) => w.ref == e.ref && w.wtag == e.w.tag
    let leave := fun (s : State) => { s with tileWait := s.tileWait.filter fun w => !me w }
    let waits := e.fr.wait == some (.other 337) && s.tileWait.any fun w => me w && w.key == key
    if 2 ^ 32 ≤ key then .trap (leave s) [regTrap e 0xDE]
    else match tileCheck e 0xDE off tileBytes true with
    | some t => .trap (leave s) [t]
    | none => e.guardS (leave s) 0xDE [e.dst] fun _ =>
      let own := s.tile e.w.ctxid key
      let slice := tileSlice e.w.ctxid key
      if own.any fun t => t.wg == e.w.wg then .done (e.setS (leave s) e.dst 1)
      else if !waits && decide (8 ≤ (s.tiles.filter fun t => t.wg == e.w.wg).length) then .trap (leave s) [regTrap e 0xDE]
      else if own.isSome || decide (64 ≤ tilesIn s slice) || (oldestWaiter s e.w.ctxid key).any fun w => !me w then
        if bitAt (mv f) 0 then .done (e.setS s e.dst 0)
        else .park (if waits then s
          else let s := leave s; { s with tileWait := s.tileWait ++ [⟨e.ref, e.w.tag, e.w.wg, key⟩] }) (.other 337)
      else
        let s := leave s
        let base := (e.seg 1).base.toNat + off
        let s := { s with tiles := s.tiles ++ [(⟨e.w.cslot, e.w.ctxid, key, slice, e.w.wg, base, 0⟩ : Tile)] }
        let depth := leBytes 4 ((e.s e.opc 3).toNat % 2 ^ 32)
        let s := if bitAt (mv f) 1 then
            (s.scrWrite e.ref.core base (List.replicate 4096 depth).flatten).scrWrite e.ref.core (base + 16384)
              (List.replicate 16384 0)
          else s
        let s := (s.raisePts (towerOf e.ref.core) (s.releasedAt e.w.ctxid key)).dropCarriers fun c => match c with
          | .counter i k _ => i == e.w.ctxid && k == key
          | _ => false
        .done (e.observe (e.setS s e.dst 1) [.tile e.w.ctxid key])) s

/-- TLREL (R337): the entry is freed, and the oldest waiter may take it. -/
def execTlrel (f : Fields) (s : State) : Host.Outcome State Fault Refusal :=
  issue (.tlrel f) f .lanes (fun e s =>
    let key := (e.s e.opa 1).toNat
    if 2 ^ 32 ≤ key then .trap s [regTrap e 0xDF]
    else
      let mine := fun (t : Tile) => t.ctxid == e.w.ctxid && t.key == key && t.wg == e.w.wg
      let s := if s.tiles.any mine then s.noteRelease (towerOf e.ref.core) e.w.ctxid key else s
      let s := if s.tiles.any mine then e.publish s (.tile e.w.ctxid key) else s
      .done { s with tiles := s.tiles.filter fun t => !mine t }) s

/-- The tile that an ORDW names, owned by the issuing workgroup (R338). -/
def withTile (e : Env) (s : State) (k : Tile → Res) : Res :=
  match s.tile e.w.ctxid (e.s e.opa 1).toNat with
  | some t => if t.wg = e.w.wg then k t else .trap s [{ cause := 2, aux := 15, lanes := e.active, unit := unitOf 0xDD }]
  | none => .trap s [{ cause := 2, aux := 15, lanes := e.active, unit := unitOf 0xDD }]

/-- ORDW.wait (R338). -/
def execOrdwWait (f : Fields) (s : State) : Host.Outcome State Fault Refusal :=
  issue (.ordwWait f) f .lanes (fun e s =>
    withTile e s fun t =>
      let n := (e.s e.opb 2).toNat % 2 ^ 32
      if t.ctr.toNat = n || e.fr.wait == some (.order t.key n true) then .done (e.observe s [.counter e.w.ctxid t.key n])
      else .park s (.order t.key n false)) s

/-- A fragment waiting for a tile's counter sees it take a value (R338). -/
def meetOrder (key n : Nat) (fr : Frag) : Frag :=
  if fr.wait = some (.order key n false) then { fr with wait := some (.order key n true) } else fr

/-- ORDW.adv (R338). -/
def execOrdwAdv (f : Fields) (s : State) : Host.Outcome State Fault Refusal :=
  issue (.ordwAdv f) f .lanes (fun e s =>
    withTile e s fun t =>
      let n := t.ctr + 1
      let s := s.flow (.counter e.w.ctxid t.key t.ctr.toNat :: e.w.before) (.counter e.w.ctxid t.key n.toNat)
      let s := { s with tiles := s.tiles.map fun (x : Tile) => if x.ctxid = t.ctxid ∧ x.key = t.key then { x with ctr := n } else x }
      .done (s.modCore e.ref.core fun k => { k with slots := k.slots.map fun (x : Option Warp) => x.map fun w =>
        if w.wg = e.w.wg then { w with frags := w.frags.map (meetOrder t.key n.toNat) } else w })) s

/-! ### COVER (R339) -/

/-- Does a sample lie inside an edge, by the top-left rule? -/
def edgeIn (a b p : Int × Int) : Bool :=
  let x := (b.1 - a.1) * (p.2 - a.2) - (b.2 - a.2) * (p.1 - a.1)
  decide (0 < x) || (x == 0 && ((a.2 == b.2 && decide (a.1 < b.1)) || decide (b.2 < a.2)))

/-- The coverage mask of a triangle over the 8×8 pixels from (bx, by). -/
def coverMask (v0 v1 v2 : Int × Int) (bx by_ : Nat) : Nat :=
  let d := (v1.1 - v0.1) * (v2.2 - v0.2) - (v1.2 - v0.2) * (v2.1 - v0.1)
  if d = 0 then 0
  else
    let (v1, v2) := if d < 0 then (v2, v1) else (v1, v2)
    (List.range 64).foldl (fun m i =>
      let p : Int × Int := ((256 * (bx + i % 8) + 128 : Nat), (256 * (by_ + i / 8) + 128 : Nat))
      if edgeIn v0 v1 p && edgeIn v1 v2 p && edgeIn v2 v0 p then m + 2 ^ i else m) 0

/-- COVER (R339). -/
def execCover (f : Fields) (s : State) : Host.Outcome State Fault Refusal :=
  issue (.cover f) f .lanes (fun e s =>
    let at_ := fun (L n : Nat) => sval 32 (e.v (e.opa + n) L 1).toNat
    .done ((e.lanes.map fun L =>
      let b := e.operand f.bscl e.opb 2 false L
      (L, coverMask (at_ L 0, at_ L 1) (at_ L 2, at_ L 3) (at_ L 4, at_ L 5) (bits b 15 0) (bits b 31 16))).foldl
        (fun s x => e.setV64 s e.dst x.1 (BitVec.ofNat 64 x.2)) s)) s

/-! ### ZTST (R340) -/

/-- The test of a depth against the stored one. -/
def depthTest (c : Nat) (z d : Nat) : Bool :=
  let x := decodeVal fmtF32 z
  let y := decodeVal fmtF32 d
  if c = 4 then true
  else !x.isNan && !y.isNan && (match c with
    | 0 => x.lt y
    | 1 => !y.lt x
    | 2 => y.lt x
    | _ => !x.lt y)

/-- The lanes of a ZTST one after another: a lane sees the writes of lower lanes. The passing lanes come second. -/
def depthLanes (c : Nat) (test : Bool) (core base : Nat) : State → List (Nat × Nat × Nat) → List Nat → State × List Nat
  | s, [], out => (s, out)
  | s, (L, i, z) :: rest, out =>
    if depthTest c z (leNat (s.scrBytes core (base + 4 * i) 4)) then
      depthLanes c test core base (if test then s else s.scrWrite core (base + 4 * i) (leBytes 4 z)) rest (out ++ [L])
    else depthLanes c test core base s rest out

/-- ZTST (R340). -/
def execZtst (f : Fields) (s : State) : Host.Outcome State Fault Refusal :=
  issue (.ztst f) f .lanes (fun e s =>
    let test := bitAt (mv f) 3
    let off := (e.s e.opc 3).toNat
    match tileCheck e 0xDC off 16384 (!test) with
    | some t => .trap s [t]
    | none =>
      let xs := e.lanes.map fun L => (L, e.operand f.bscl e.opb 2 false L, e.operand f.ascl e.opa 1 false L)
      match xs.filter fun x => decide (4096 ≤ x.2.1) with
      | x :: bad =>
        .trap s [{ cause := 3, va := BitVec.ofNat 64 (off + 4 * x.2.1), aux := BitVec.ofNat 32 (1 + 256 * 4),
                   acc := if test then 1 else 3, lanes := maskOf ((x :: bad).map fun y => y.1), unit := unitOf 0xDC }]
      | [] =>
        let (s, pass) := depthLanes (mv f % 8) test e.ref.core ((e.seg 1).base.toNat + off) s xs []
        .done (e.setKBits s e.dst e.active (maskOf pass))) s

end Sys2Proof.Machine
end

