-- ==== Sys2Proof/Machine/Fetch.lean ====
section
/-!
DEFINITION. Instruction fetch (spec/01 R22 to R28, spec/20 R407, R408): a line brought into a quarter's instruction
cache with its checks, the line a fragment issues from, the check of a control transfer, and the transfer itself.
-/
namespace Sys2Proof.Machine

/-- Are two entries of the log pieces of one instruction's store, whose lanes make one access (R210, R430)? -/
def CodeLag.sameStore (x y : CodeLag) : Bool := x.wtag == y.wtag && x.ctxid == y.ctxid && x.tick == y.tick

/-- The versions of a line that a fetch may read, the present one first: fetch stands outside the order, and a line may read
as before a store that its warp has not yet published by FENCE.code (R408). The log has the latest store first, and the
pieces of one instruction's store are undone together: half of it makes no version, but a torn line (R430). -/
def lineVersions (key : Nat) (bs : List Byte) (lag : List CodeLag) : List (List Byte) := bs :: earlier bs bs lag
where
  /-- The versions before `shown`, from the line as it is with some pieces undone. -/
  earlier (shown bs : List Byte) : List CodeLag → List (List Byte)
    | [] => []
    | x :: xs =>
      let old := if meets x.addr x.old.length key bs.length then undoBytes key bs x.addr x.old else bs
      if xs.head?.any x.sameStore || old == shown then earlier shown old xs else old :: earlier old old xs

/-- What a fetch of a line finds: its bytes, a cause, or a wait for its line or for its page walk (R157, R166). -/
inductive Fetched where
  | ok (line : List Byte)
  | bad (cause : Nat)
  | wait
  deriving DecidableEq, Repr

/-- A line is read from its home and checked in the order of R25, with its poison mark before its CRC (R346). A line that is
being rewritten is read whole in one of its versions, or torn between them, which its CRC tells (R408). A line whose
reserved bits are set passes its CRC but is refused all the same. -/
def readLine (s : State) (core cslot : Nat) (ctxid : BitVec 16) (va : Nat) : State × Nat × Fetched :=
  match translate s (.near core) cslot ctxid 100 va .ex false with
  | (s, .bad c) => (s, 0, .bad c)
  | (s, .notResident) => (s, 0, .bad 1)
  | (s, .held) => (s, 0, .wait)
  | (s, .ok key _ _ _) =>
    if s.lineHeld (.l2 (towerOf core)) false (lineOf key) then (s, key, .wait)
    else if s.poisoned key 64 then (s, key, .bad 5)
    else
      let vs := lineVersions key (s.bytes key 64) s.lag
      match vs[choose s.tick 1000 (if vs.length = 1 then 1 else vs.length + 1)]? with
      | none => (s, key, .bad 0x0E)
      | some bs => match lineFault bs with
        | some c => (s, key, .bad c)
        | none => (s, key, .ok bs)

/-- The line of a quarter's instruction cache (R25). -/
def Core.cached (k : Core) (quarter : Nat) (ctxid : BitVec 16) (va : Nat) : Option ICLine :=
  k.icache.find? fun x => x.quarter == quarter && x.ctxid == ctxid && x.va == va

/-- A fragment whose next line has come becomes ready now (R369), unless it had fetched the line ahead. -/
def lineCome (t va : Nat) (fr : Frag) : Frag :=
  if fr.st == .ready && pcLine fr.pc == va && !fr.ahead.any fun x => x.1 == va then
    { fr with since := t, aged := false } else fr

/-- Is a ready fragment's next line in its quarter's instruction cache, or fetched ahead (R369)? -/
def hasLine (s : State) (core slot : Nat) (w : Warp) (fr : Frag) : Bool :=
  ((s.core core).cached (slot % 4) w.ctxid (pcLine fr.pc)).isSome || fr.ahead.any fun x => x.1 == pcLine fr.pc

/-- The warps of a quarter, of one context, with a change of their fragments. -/
def mapQuarter (quarter : Nat) (ctxid : BitVec 16) (f : Frag → Frag) (xs : List (Option Warp)) : List (Option Warp) :=
  (xs.zip (List.range xs.length)).map fun (x : Option Warp × Nat) =>
    if x.2 % 4 = quarter then x.1.map fun w => if w.ctxid = ctxid then { w with frags := w.frags.map f } else w else x.1

/-- A line is fetched into a quarter's instruction cache, in place of one held there for the same address. -/
def fetchInto (s : State) (core quarter cslot : Nat) (ctxid : BitVec 16) (va : Nat) : State × Fetched :=
  match readLine s core cslot ctxid va with
  | (s, pa, .ok line) =>
    (s.modCore core fun k =>
      { k with icache := (k.icache.filter fun x => !(x.quarter == quarter && x.ctxid == ctxid && x.va == va)) ++
                           [⟨quarter, ctxid, va, pa, line⟩],
               slots := if (k.cached quarter ctxid va).isSome then k.slots
                        else mapQuarter quarter ctxid (lineCome s.tick va) k.slots }, .ok line)
  | (s, _, x) => (s, x)

/-- The line a warp's fragment enters: from its quarter's instruction cache, else fetched into it. -/
def enterLine (s : State) (core slot cslot : Nat) (ctxid : BitVec 16) (va : Nat) : State × Fetched :=
  match (s.core core).cached (slot % 4) ctxid va with
  | some x => (s, .ok x.line)
  | none => fetchInto s core (slot % 4) cslot ctxid va

/-- The line a fragment issues from: one it has fetched ahead (R176, R408), or its quarter's. -/
def issueLine (s : State) (r : FragRef) (w : Warp) (fr : Frag) : State × Fetched :=
  let va := pcLine fr.pc
  let ahead := (fr.ahead.filter fun x => x.1 == va).map fun x => x.2
  match ahead[choose s.tick 2000 (ahead.length + 1) - 1]? with
  | some line =>
    if choose s.tick 2000 (ahead.length + 1) = 0 then enterLine s r.core r.slot w.cslot w.ctxid va else (s, .ok line)
  | none => enterLine s r.core r.slot w.cslot w.ctxid va

/-- The trap of a line entered sequentially (R25, R390). The fault names no instruction: its lanes are exm. -/
def fetchTrap (fr : Frag) (cause : Nat) : Trap :=
  { cause := cause, va := BitVec.ofNat 64 (pcLine fr.pc), lanes := fr.exm, unit := 6, acc := 4,
    aux := if cause = 5 then BitVec.ofNat 32 (15 + 256 * 64) else 0 }

/-- Why a transfer is not made: a fault, or its target's line must be waited for. -/
inductive TargetFail where
  | trap (t : Trap)
  | wait
  deriving DecidableEq, Repr

/-- How the transferring instruction ends. -/
def TargetFail.res (s : State) : TargetFail → Res
  | .trap t => .trap s [t]
  | .wait => .park s (.other 166)

/-- The check of a transfer's target (R25, R28): the target line is fetched when the quarter does not hold it, and
the target slot must be one that a transfer may enter. -/
def checkTarget (s : State) (e : Env) (pc : W64) : State × Option TargetFail :=
  let t16 : Trap := { cause := 0x16, va := pc, lanes := e.active }
  if !pcValid pc then (s, some (.trap t16))
  else match enterLine s e.ref.core e.ref.slot e.w.cslot e.w.ctxid (pcLine pc) with
    | (s, .bad c) => (s, some (.trap { cause := c, va := pc, lanes := e.active, unit := 6, acc := 4,
                                       aux := if c = 5 then BitVec.ofNat 32 (15 + 256 * 64) else 0 }))
    | (s, .wait) => (s, some .wait)
    | (s, .ok line) => if lineTgt line (pcSlot pc) then (s, none) else (s, some (.trap t16))

/-- Transfer(t) of R246: check the target, then the effect `k` and the jump. -/
def transfer (s : State) (e : Env) (pc : W64) (k : State → State := id) : Res :=
  match checkTarget s e pc with
  | (s, some t) => t.res s
  | (s, none) => .jump (k s) pc

end Sys2Proof.Machine
end

