-- ==== Sys2Proof/Machine/Schedule.lean ====
section
/-!
DEFINITION. From launch to core (spec/18 R364 to R368, R374, R375, R379, R381, spec/17 R345, R346): what fits where, a
workgroup's start, and the scheduler's steps.
-/
namespace Sys2Proof.Machine

/-! ### What fits on a core (R367) -/

/-- The units of extended storage that a core's warps hold (R233). -/
def unitsHeld (k : Core) : Nat :=
  k.slots.foldl (fun n x => match x with
    | some w => n + w.r.xgrant * (w.width / 16)
    | none => n) 0
/-- The number of a core's resident warps. -/
def residents (k : Core) : Nat := (k.slots.filter Option.isSome).length
/-- A core's free lanes. -/
def freeLanes (s : State) (c : Nat) : Nat := 2048 - residents (s.core c) * (s.coreWidth c).getD 0

/-- The areas of a core's scratchpad that its workgroups hold: base and size. -/
def areasOf (s : State) (c : Nat) : List (Nat × Nat) :=
  (s.groups.filter fun g => g.core == c && !g.saved && g.size != 0).map fun g => (g.base, g.size)
/-- A free area of a size, the lowest offset first. -/
def findArea (s : State) (c size : Nat) : Option Nat :=
  if size = 0 then some 0
  else
    let used := areasOf s c
    let ends := 0 :: used.map fun a => a.1 + a.2
    let ok := fun b => decide (b + size ≤ 2 ^ 23) && used.all fun a => decide (b + size ≤ a.1 ∨ a.1 + a.2 ≤ b)
    (ends.filter ok).foldl (fun m b => match m with
      | none => some b
      | some x => some (min x b)) none

/-- What a workgroup asks of a core: warps, width, area, cells and units of all its warps. `launch` is its launch, whose
tiles it may stand beside; none for a warp that returns to its workgroup's core. -/
structure Need where
  launch : Option Nat
  nw    : Nat
  width : Nat
  area  : Nat
  cells : Nat
  units : Nat
  deriving DecidableEq, Repr

/-- What a workgroup of a launch needs. -/
def Launch.need (l : Launch) (nw : Nat) : Need := ⟨some l.id, nw, l.width, l.area, nw * l.warpCells, nw * l.units⟩

/-- Does a core take work at all: compute role, not draining, not changing role (R48, R52, R53)? -/
def coreOpen (s : State) (c : Nat) : Bool := decide (c < 256) && !s.mapClosed c

/-- Does a core hold tiles that are not the launch's own (R341)? A workgroup is a raster workgroup, and not a compute
workgroup, of the launch whose workgroups own tiles (log 78). -/
def tilesOfOthers (s : State) (c launch : Nat) : Bool :=
  s.tiles.any fun t => (s.wgroup t.wg).any fun g => g.core == c && !g.saved && g.launch != launch

/-- Does a core fit a need (R367, R341)? -/
def fits (s : State) (n : Need) (c : Nat) : Bool :=
  let k := s.core c
  coreOpen s c && ((s.coreWidth c).getD n.width == n.width) && decide (n.nw + residents k ≤ 2048 / n.width) &&
    decide (k.used.length + n.cells ≤ 2048) && (n.units == 0 || decide (unitsHeld k + n.units ≤ k.xplim.toNat)) &&
    (findArea s c n.area).isSome && !(n.launch.any (tilesOfOthers s c))

/-- Where a home address takes work (R55, R56, R85): which cores come first, none while its page walk must wait (R166). -/
def homeCores (s : State) (cslot : Nat) (home : Option Nat) : Option (List Nat) :=
  match home with
  | none => some []
  | some home => match (translate s (.l2 0) cslot (BitVec.ofNat 16 (s.ctxId cslot)) 500 home .rd false).2 with
  | .held => none
  | .ok key _ _ _ =>
    if isRemote key then some []
    else
      let t := (homeTower key).getD 0
      let cores := List.range 256
      if inHbm key then
        let u := if (s.tower t).k = 0 then 1 - t else t
        let n := 4 * (s.tower u).k
        some (if n = 0 then []
          else cores.filter fun c => s.running c && s.coreNumber c / 8 == s.firstCore u / 8 + quadOf key % n)
      else some (cores.filter fun c => s.running c && towerOf c == t)
  | _ => some []

/-- The core that R367 chooses among candidates that fit: the most free lanes, then the lowest core number. -/
def bestCore (s : State) (cs : List Nat) : Option Nat :=
  cs.foldl (fun b c => match b with
    | none => some c
    | some d =>
      if freeLanes s d < freeLanes s c ∨ (freeLanes s d = freeLanes s c ∧ s.coreNumber c < s.coreNumber d) then some c
      else b) none

/-- The core for a need with a home address (R367). -/
def chooseCore (s : State) (n : Need) (cslot : Nat) (home : Option Nat) : Option Nat :=
  (homeCores s cslot home).bind fun home =>
    let fit := (List.range 256).filter (fits s n)
    let near := home.filter fit.contains
    bestCore s (if near.isEmpty then fit else near)

/-- The position of a core number (R48). -/
def positionOf (s : State) (number : Nat) : Option Nat :=
  (List.range 256).find? fun c => s.running c && s.coreNumber c == number

/-- A home address as a record names it: 0 means none (R365, R372). -/
def namedHome (home : W64) : Option Nat := if home = 0 then none else some home.toNat
/-- The home address of a launch's workgroup, modulo 2^64 (R365). -/
def Launch.homeOf (l : Launch) (i : Nat) : Option Nat :=
  (namedHome l.home).map fun h => (h + i * l.hstr.toNat) % 2 ^ 64

/-- The core for workgroup `i` of a launch: the listed core with place, else by R367 (R436). -/
def coreFor (s : State) (l : Launch) (i : Nat) : Option Nat :=
  if l.places.isEmpty then chooseCore s (l.need l.nw) l.cslot (l.homeOf i)
  else ((l.places[i % l.places.length]?).bind (positionOf s)).bind fun c => if fits s (l.need l.nw) c then some c else none

/-! ### The start of a workgroup -/

/-- A warp tag that no live warp of the context has (R391). -/
def freshTag (s : State) (cslot : Nat) : Nat → Nat → W32
  | 0, t => BitVec.ofNat 32 t
  | n + 1, t =>
    let tag := BitVec.ofNat 32 t
    let live := (s.warps.any fun x => x.2.2.cslot == cslot && x.2.2.tag == tag) ||
      s.images.any fun i => i.cslot == cslot && i.warps.any fun x => x.2.tag == tag
    if live then freshTag s cslot n (t + 1) else tag

/-- The matrix registers at the start of a warp (R290): factored, rank 0, with the cells of .matcells. -/
def startRegs : List Nat → List Nat → List MReg
  | [], _ => []
  | n :: ns, pool => { cells := pool.take n } :: startRegs ns (pool.drop n)
/-- Sixteen numbers of cells. -/
def cellCounts (l : Launch) : List Nat := (l.cells ++ List.replicate 16 0).take 16

/-- The segment that names a workgroup's own area (R178). -/
def areaSeg (base size : Nat) : Seg :=
  { base := BitVec.ofNat 64 base, lim := BitVec.ofNat 48 (size / 256), wr := true, v := decide (size ≠ 0) }

/-- What a workgroup starts with (R345, R374, R381). -/
structure Start where
  kind  : WorkKind
  pri   : Nat
  nw    : Nat
  entry : W64
  segs  : List Seg
  sregs : List (Nat × W64)
  iter  : Nat
  /-- the logical time that its accesses follow beside its launch's (R374, R375, R377, R381) -/
  time  : Nat := 0
  /-- what its accesses come after beside that (R374, R375, R377, R381, R428) -/
  after : List Carrier := []
  deriving DecidableEq, Repr

/-- The first check of a warp's entry (R346), made before any instruction issues; it is made again when the fragment is
resumed there, and while its line must be waited for. -/
def checkEntry (s : State) (r : FragRef) : State :=
  match s.warp r.core r.slot with
  | none => s
  | some w =>
    let pc := (w.frag r.entry).pc
    let stop := fun (s : State) (c : Nat) => takeTraps r s
      [{ cause := c, va := pc, lanes := fullMask w.width, unit := 6, acc := 4 }]
    if !pcValid pc then stop s 0x16
    else match enterLine s r.core r.slot w.cslot w.ctxid (pcLine pc) with
    | (s, .bad c) => stop s c
    | (s, .wait) => s
    | (s, .ok line) =>
      if lineTgt line (pcSlot pc) then s.modFrag r fun fr => { fr with entering := false } else stop s 0x16

/-- What the units of a warp's registers and cells held before it came to its slot is not to be seen by a map load
(R429). -/
def forgetSlot (s : State) (core slot : Nat) (cells : List Nat) : State :=
  s.forget core fun u => mapSlot s core u == some slot || (mapRegion u == .cells && cells.contains ((u - 0xA00000) / 512))

/-- A warp with a tag begins: nothing is ordered before its accesses yet (log 13). -/
def State.newWarp (s : State) (w : Warp) : State :=
  s.dropCarriers fun c => c == .warp w.ctxid w.tag || c == .made w.ctxid w.tag || c == .maps w.ctxid w.tag ||
    c == .matrix w.ctxid w.tag || c == .pairs w.ctxid w.tag

/-- One warp of a workgroup placed in the lowest free slot of its core (R345, R242). -/
def startWarp (s : State) (l : Launch) (x : Start) (wg core base idx : Nat) : State :=
  match findIdxFrom Option.isNone 0 (s.core core).slots with
  | none => s
  | some slot =>
    let tag := freshTag s l.cslot 65536 (s.ctx l.cslot).nextTag.toNat
    let cells := freeCells (s.core core) l.warpCells
    let frag : Frag := { st := .ready, pc := x.entry, mem := fullMask l.width, exm := fullMask l.width, pri := x.pri,
                         basePri := x.pri, since := s.tick, entering := true }
    let w : Warp :=
      { tag := tag, cslot := l.cslot, ctxid := BitVec.ofNat 16 (s.ctxId l.cslot), launch := l.id, wg := wg, idx := idx,
        width := l.width, ended := 0,
        r := { g := modAt (fun _ => areaSeg base l.area) 1 x.segs,
               s := x.sregs.foldl (fun sp y => spSet 0 sp y.1 y.2) [], hwm := l.hwm, xgrant := l.regs, iter := x.iter },
        m := { regs := startRegs (cellCounts l) cells }, stg := {},
        frags := frag :: List.replicate 7 {}, joins := List.replicate 32 none, part := [], stnt := [], latch := none,
        trv := [], maps := [], fbs := [], cfgs := [], grp := [], resting := false }
    let s := (s.newWarp w).flow x.after (.warp w.ctxid w.tag)
    let s := s.modCtx l.cslot fun y => { y with nextTag := tag + 1 }
    let s := s.modCore core fun k =>
      { k.cleared (fun y => wordOfSlot slot l.width y || wordOfCells cells y) with
        slots := modAt (fun _ => some w) slot k.slots, used := cells.foldl (fun u c => setInsert c u) k.used }
    checkEntry (forgetSlot s core slot cells) ⟨core, slot, 0⟩

/-- An area with every byte zero and every granule empty (R178). -/
def clearArea (s : State) (core base size : Nat) : State :=
  let out := fun (g : Nat) => !(decide (base / 16 ≤ g) && decide (g < (base + size) / 16))
  let s := s.dropCarriers fun c => match c with
    | .phase p a _ => p == core && decide (base ≤ a) && decide (a < base + size)
    | _ => false
  (s.modCore core fun k =>
    { k with scr := spClear base (base + size) k.scr, full := k.full.filter out, orphan := k.orphan.filter out,
             prod := spClear (base / 16) ((base + size) / 16) k.prod,
             regEnd := spClear (base / 16) ((base + size) / 16) k.regEnd,
             filled := spClear (base / 16) ((base + size) / 16) k.filled }).forget core fun u =>
    decide (base ≤ u) && decide (u < base + size)

/-- A workgroup starts on a core (R345, R178, R290, R374), at a logical time that follows what precedes its accesses (R285,
R374, R381). -/
def startGroup (s : State) (l : Launch) (x : Start) (core : Nat) : State :=
  let base := (findArea s core l.area).getD 0
  let (s, id) := s.fresh
  let s := clearArea (s.raisePts (towerOf core) (max l.time x.time)) core base l.area
  let s := { s with groups := s.groups ++
    [⟨id, l.id, l.cslot, x.kind, x.pri, core, base, l.area, x.nw, id, 0, false, [], [], []⟩] }
  (List.range x.nw).foldl (fun s i => startWarp s l x id core base i) s

/-! ### What may start -/

/-- Do two ranges of words overlap? -/
def rangesMeet (a b : W64) : Bool :=
  let x := rangeOf a
  let y := rangeOf b
  x.2 != 0 && y.2 != 0 && meets x.1 x.2 y.1 y.2
/-- Do two tasks conflict (R375)? -/
def conflict (a b : TaskRec) : Bool :=
  a.wr.any (fun x => (b.rd ++ b.wr).any (rangesMeet x)) || b.wr.any fun x => a.rd.any (rangesMeet x)

/-- May a task start: has every earlier task of its context that conflicts with it ended (R375)? -/
def mayStart (s : State) (t : PoolTask) : Bool :=
  !((s.ctx t.cslot).tasks.any fun u => decide (u.serial < t.serial) && conflict u.work t.work) &&
    !(s.groups.any fun g => g.cslot == t.cslot && match g.kind with
      | .task n w => decide (n < t.serial) && conflict w t.work
      | _ => false)

/-- The logical time that a task's accesses follow: that of its push, and the ends of earlier tasks in conflict with it (R374,
R375, R377). -/
def PoolTask.follows (s : State) (t : PoolTask) : Nat :=
  ((s.ctx t.cslot).ended.filter fun x => decide (x.serial < t.serial) && conflict x.work t.work).foldl
    (fun m x => max m x.time) t.time

/-- What a task's accesses come after: its push, and earlier tasks in conflict with it (R374, R375, R377). -/
def PoolTask.after (s : State) (t : PoolTask) : List Carrier :=
  .task t.cslot t.serial :: ((s.ctx t.cslot).ended.filter fun x => decide (x.serial < t.serial) && conflict x.work t.work).map
    fun x => .ended t.cslot x.serial

/-- An entry of queue 16 (R368): a task or a consumer batch, with its place among them. -/
inductive PoolEntry where
  | task (t : PoolTask)
  | batch (b : Batch)
  deriving DecidableEq, Repr

def PoolEntry.order : PoolEntry → Nat
  | .task t => t.order
  | .batch b => b.order
def PoolEntry.pri : PoolEntry → Nat
  | .task t => t.work.pri
  | .batch b => b.pri

/-- A context's tasks, then its consumer batches. -/
def poolOf (s : State) (cslot : Nat) : List PoolEntry :=
  (s.ctx cslot).tasks.map .task ++ (s.ctx cslot).batches.map .batch

/-- The launch, the start and the core of an entry, when it may start and some core fits it. -/
def entryStart (s : State) (x : PoolEntry) : Option (Launch × Start × Nat) :=
  match x with
  | .task t =>
    if !mayStart s t then none
    else (s.launch t.launch).bind fun l =>
      (chooseCore s (l.need t.work.nw) t.cslot (namedHome t.work.home)).map fun c =>
        (l, ⟨.task t.serial t.work, t.work.pri, t.work.nw, t.work.entry, t.segs,
          [(0, t.work.arg), (1, BitVec.ofNat 64 t.serial)], 0, t.follows s, t.after s⟩, c)
  | .batch b =>
    (s.launch b.launch).bind fun l =>
      (chooseCore s (l.need b.nw) b.cslot none).map fun c =>
        (l, ⟨.batch, b.pri, b.nw, b.entry, l.segs,
          [(0, b.carg), (1, b.queue), (2, b.first.setWidth 64), (3, BitVec.ofNat 64 b.count)], 0, b.time, [.batch b.order]⟩, c)

/-- May an entry start (R375)? -/
def PoolEntry.mayStart (s : State) : PoolEntry → Bool
  | .task t => Sys2Proof.Machine.mayStart s t
  | .batch _ => true

/-- The oldest entry of a priority that may start, by its place in the pool (R368): no younger one passes it where no core
fits it. -/
def poolNext (s : State) (cslot pri : Nat) : Option Nat :=
  let xs := ((poolOf s cslot).zip (List.range (poolOf s cslot).length)).filter fun x =>
    x.1.pri == pri && x.1.mayStart s
  (xs.foldl (fun (b : Option (PoolEntry × Nat)) x => match b with
    | none => some x
    | some y => if x.1.order < y.1.order then some x else b) none).map fun x => x.2

/-- How many workgroups of a launch a core can hold at once, counted up to `n`. -/
def coreCapacity (s : State) (l : Launch) (c : Nat) : Nat → Nat
  | 0 => 0
  | n + 1 =>
    let need := l.need l.nw
    let k := n + 1
    let areas := freeAreas (areasOf s c) l.area
    if fits s need c && fits s { need with nw := k * need.nw, cells := k * need.cells, units := k * need.units, area := 0 } c &&
        (l.area == 0 || decide (k ≤ areas)) then k
    else coreCapacity s l c n
where
  /-- Areas of a size that fit side by side in the gaps between used areas. -/
  freeAreas (used : List (Nat × Nat)) (size : Nat) : Nat :=
    if size = 0 then 0
    else
      let starts := 0 :: used.map fun a => a.1 + a.2
      starts.foldl (fun n b =>
        let next := used.foldl (fun m a => if b ≤ a.1 then min m a.1 else m) (2 ^ 23)
        if used.any fun a => decide (a.1 < b ∧ b < a.1 + a.2) then n else n + (next - b) / size) 0

/-- Do all workgroups of a persistent launch fit together (R367)? -/
def fitsAll (s : State) (l : Launch) : Bool :=
  if l.places.isEmpty then
    decide (l.grid ≤ (List.range 256).foldl (fun n c => n + coreCapacity s l c 128) 0)
  else (List.range (min l.grid 32769)).all fun i =>
    let n := l.places[i % l.places.length]?
    let asked := ((List.range (min l.grid 32769)).filter fun j => l.places[j % l.places.length]? == n).length
    match n.bind (positionOf s) with
    | some c => decide (asked ≤ coreCapacity s l c 128)
    | none => false

/-- Can the launch that a queue is placing give a workgroup now? -/
def queueReady (s : State) (l : Launch) : Bool :=
  if l.pers && l.next == 0 then fitsAll s l else (coreFor s l l.next).isSome

/-- The launch that a queue is placing. -/
def queueLaunch (s : State) (cslot q : Nat) : Option Launch := (((s.ctx cslot).queue q).current).bind s.launch

/-! ### Priority and turns (R368) -/

/-- Has the pair (context slot, queue) a workgroup of a priority waiting? Queue 16 is the pool. -/
def pairWaits (s : State) (pri cslot q : Nat) : Bool :=
  s.placing cslot &&
    if q < 16 then (queueLaunch s cslot q).any fun l => l.pri == pri else (poolNext s cslot pri).isSome

/-- Does a core fit the workgroup that a pair has waiting? -/
def pairFits (s : State) (pri cslot q : Nat) : Bool :=
  if q < 16 then (queueLaunch s cslot q).any (queueReady s)
  else (((poolNext s cslot pri).bind fun n => (poolOf s cslot)[n]?).bind (entryStart s)).isSome

/-- The pairs that have a workgroup of a priority waiting, in rising order, as 17 × slot + queue. -/
def waitingPairs (s : State) (pri : Nat) : List Nat :=
  (List.range (64 * 17)).filter fun i => pairWaits s pri (i / 17) (i % 17)

/-- The pair whose turn it is among those of a priority: the next after the one that gave last. The round-robin is strict:
the turn does not pass over a pair whose workgroup no core fits (log 78). -/
def turnOf (s : State) (pri : Nat) : Option Nat :=
  let ps := waitingPairs s pri
  let last := (s.turns[pri]?).getD 0
  match ps.find? fun i => last ≤ i with
  | some i => some i
  | none => ps.head?

/-- The room that an image needs on a core (R404). -/
def imageNeed (s : State) (i : Image) : Need :=
  let warps := i.warps.map fun x => x.2
  { launch := if i.whole then (s.wgroup i.wg).map fun g => g.launch else none
    nw := warps.length, width := (warps.head?.map fun w => w.width).getD 16,
    area := if i.whole then ((s.wgroup i.wg).map fun g => g.size).getD 0 else 0,
    cells := if i.whole then (warps.flatMap fun w => w.m.regs.map fun r => r.cells.length).foldl (· + ·) 0 else 0,
    units := (warps.map fun w => w.r.xgrant * (w.width / 16)).foldl (· + ·) 0 }

/-- May an image be restored on a core now (R404, R406)? None is restored on a core that drains, not even a single warp of
a workgroup that is still resident there: R52 bars placing workgroups and says nothing of such a warp (log 51). -/
def canRestore (s : State) (i : Image) (c : Nat) : Bool :=
  s.placing i.cslot && fits s (imageNeed s i) c && (i.whole || i.core == c)

/-- Evicted work of a priority that resources allow to be restored (R368). -/
def restoreWaits (s : State) (pri : Nat) : Bool :=
  s.images.any fun i => i.pri == pri && (List.range 256).any (canRestore s i)

/-- The pair whose workgroup the scheduler serves next, with its priority: the highest priority that has one; evicted work
of that priority or a higher one that can be restored goes first (R368). -/
def nextTurn (s : State) : Option (Nat × Nat) := go [3, 2, 1, 0]
where
  go : List Nat → Option (Nat × Nat)
    | [] => none
    | p :: ps =>
      if restoreWaits s p then none
      else match turnOf s p with
      | some i => some (p, i)
      | none => go ps

/-- The pair whose workgroup is placed next: the one to be served, when a core fits its workgroup. -/
def nextWork (s : State) : Option (Nat × Nat) := (nextTurn s).filter fun x => pairFits s x.1 (x.2 / 17) (x.2 % 17)

/-- The turn passes. -/
def State.giveTurn (s : State) (pri i : Nat) : State := { s with turns := modAt (fun _ => i + 1) pri s.turns }

/-! ### Placement -/

/-- A launch's next workgroup is placed on a core (R366, R371, R374). -/
def placeNext (s : State) (l : Launch) (core : Nat) : State :=
  let i := l.next
  let s := startGroup s l ⟨.grid i, l.pri, l.nw, l.entry, l.segs, l.sregs, i * (l.tiles * l.kk) / l.grid, 0, []⟩ core
  let s := s.modLaunch l.id fun l => { l with next := i + 1 }
  if i + 1 = l.grid then s.modQueue l.cslot l.queue fun q => { q with current := none } else s

/-- Every workgroup of a persistent launch placed, one after another. -/
def placeAll (id : Nat) : Nat → State → State
  | 0, s => s
  | n + 1, s => match s.launch id with
    | none => s
    | some l => match coreFor s l l.next with
      | some c => placeAll id n (placeNext s l c)
      | none => s

/-- WORKGROUP_PLACEMENT (R366 to R368): the pair whose turn it is gives a workgroup; a persistent launch gives all. -/
def execWorkgroupPlacement (cslot queue : Nat) (s : State) : Host.Outcome State Fault Refusal :=
  match nextWork s with
  | none => .next s
  | some (pri, i) =>
    if queue < 16 && i == cslot * 17 + queue then
      match queueLaunch s cslot queue with
      | none => .next s
      | some l =>
        let s := s.giveTurn pri i
        if l.pers then .next (placeAll l.id (l.grid - l.next) s)
        else match coreFor s l l.next with
          | some c => .next (placeNext s l c)
          | none => .next s
    else .next s

/-- TASK_START (R368, R374, R375): the oldest task or consumer batch of the context that may start. A task that leaves
the pool makes room for a held push (R377). -/
def execTaskStart (cslot idx : Nat) (s : State) : Host.Outcome State Fault Refusal :=
  match nextWork s with
  | none => .next s
  | some (pri, i) =>
    if i == cslot * 17 + 16 && poolNext s cslot pri == some idx then
      match ((poolOf s cslot)[idx]?).bind fun x => (entryStart s x).map fun y => (x, y) with
      | none => .next s
      | some (x, l, st, c) =>
        let s := (s.giveTurn pri i).modCtx cslot fun y => match x with
          | .task t => { y with tasks := y.tasks.filter fun u => u.serial != t.serial }
          | .batch b => { y with batches := y.batches.filter fun u => u.order != b.order }
        .next ((startGroup s l st c).drainPushes cslot poolSize)
    else .next s

/-! ### Taking a launch (R364, R365, R437) -/

/-- A launch block as read, or why it is refused: 1 malformed. -/
structure Block where
  segs   : List Seg
  scr    : Nat
  regs   : Nat
  hwm    : Nat
  cells  : List Nat
  sregs  : List (Nat × W64)
  ranges : List (Nat × Nat × Nat)
  places : List Nat
  deriving DecidableEq, Repr

/-- A segment register of the launch block: bits [63:0] of R75, then base. -/
def blockSeg (lo hi : Nat) : Seg :=
  { base := BitVec.ofNat 64 hi, lim := BitVec.ofNat 48 (bits lo 63 16), lclass := BitVec.ofNat 3 (bits lo 11 9),
    lcov := lo.testBit 8, wr := lo.testBit 1, v := lo.testBit 0 }

/-- The bound of R76 on base + lim × 256 of a segment register, with the lane layout of prv (R79). -/
def segBound (n width : Nat) (g : Seg) : Bool :=
  let top := g.base.toNat + g.lim.toNat * 256 * (if n = 2 then width else 1)
  if n = 1 then decide (top ≤ 2 ^ 23) else if n = 4 then decide (top ≤ 0x101000000) else decide (top ≤ 2 ^ 56)

/-- The launch block's words (R437): none when it is malformed. A segment register past the bound of R76 makes it malformed when
it is valid, and is taken as it is when it is not (DESIGN CHOICE, log 98). -/
def parseBlock (bs : List Byte) (width : Nat) : Option Block :=
  let w := wordAt bs
  let segs := (List.range 8).map fun n => blockSeg (w (2 * n)) (w (2 * n + 1))
  let ns := bits (w 16) 47 40
  let ng := bits (w 16) 63 48
  let nc := bits (w 17) 63 32
  let cells := (List.range 16).map fun i => w (18 + i / 8) / 256 ^ (i % 8) % 256
  let sregs := (List.range ns).map fun i => (w (20 + 2 * i), BitVec.ofNat 64 (w (21 + 2 * i)))
  let p := 20 + 2 * ns
  let ranges := (List.range ng).map fun i =>
    (w (p + 2 * i), bits (w (p + 2 * i + 1)) 31 0, bits (w (p + 2 * i + 1)) 63 32)
  let bad := (List.range 8).any (fun n => bits (w (2 * n)) 15 12 != 0 || bits (w (2 * n)) 7 2 != 0) ||
    (List.range 8).any (fun n => match segs[n]? with
      | some g => n != 1 && (g.v || n == 2) && !segBound n width g
      | none => true) ||
    bits (w 16) 39 35 != 0 || decide (128 < ns) || decide (6 < bits (w 16) 34 32) || cells.any (fun c => decide (32 < c)) ||
    sregs.any (fun x => decide (127 < x.1)) || ranges.any (fun r => decide (255 < r.1)) || decide (bits (w 17) 31 0 % 256 ≠ 0)
  if bad then none
  else some
    { segs := segs, scr := bits (w 16) 31 0, regs := bits (w 16) 34 32, hwm := bits (w 17) 31 0, cells := cells,
      sregs := sregs, ranges := ranges, places := (List.range nc).map fun i => w (p + 2 * ng + i) }

/-- The bytes of a launch block, known once its first twenty words are. -/
def blockLen (bs : List Byte) : Nat :=
  8 * (20 + 2 * bits (wordAt bs 16) 47 40 + 2 * bits (wordAt bs 16) 63 48 + bits (wordAt bs 17) 63 32)

/-- Index ranges, one in another or side by side made one, in rising order. -/
def mergeRanges (rs : List (Nat × Nat)) : List (Nat × Nat) := rs.foldl add []
where
  add (out : List (Nat × Nat)) (r : Nat × Nat) : List (Nat × Nat) :=
    let (meet, rest) := out.partition fun x => decide (x.1 ≤ r.2 + 1 ∧ r.1 ≤ x.2 + 1)
    let m := meet.foldl (fun (a : Nat × Nat) x => (min a.1 x.1, max a.2 x.2)) r
    (rest.filter fun x => decide (x.1 < m.1)) ++ m :: rest.filter fun x => decide (m.1 < x.1)

/-- The 256 groups of a launch (R356). -/
def groupTable (b : Block) (grid nw : Nat) : List LaunchGroup :=
  (List.range 256).map fun g =>
    let ms := mergeRanges ((b.ranges.filter fun r => r.1 == g && decide (r.2.1 ≤ r.2.2) && decide (r.2.1 < grid)).map fun r =>
      (r.2.1, min r.2.2 (grid - 1)))
    { members := ms, exp := (ms.map fun m => (m.2 - m.1 + 1) * nw).foldl (· + ·) 0 }

/-- Does a block break R345, R356 or R233: a scratchpad area, cells or registers that no core holds, a group of too many
warps, or a workgroup in more than four groups? The groups of an index change only where a range begins. -/
def blockRefused (gs : List LaunchGroup) (l : Launch) : Bool :=
  gs.any (fun g => decide (2 ^ 24 - 1 < g.exp)) ||
    (gs.flatMap fun g => g.members.map fun m => m.1).any (fun i => decide (4 < (gs.filter fun g => g.has i).length)) ||
    !l.fitsEmpty l.nw

/-- A refused record is skipped, with its event (R365, R425). -/
def refuseLaunch (s : State) (cslot queue reason : Nat) : State :=
  (s.modQueue cslot queue fun q => { q with head := q.head + 1, err := true }).bbEvent 7 0xFF (s.ctxId cslot)
    (cslot + 64 * queue + 1024 * reason)

/-- The launch of a record and its block. -/
def launchFrom (s : State) (cslot queue : Nat) (w : Nat → Nat) (b : Block) : Launch :=
  { id := 0, cslot := cslot, queue := queue, entry := BitVec.ofNat 64 (w 0), home := BitVec.ofNat 64 (w 2),
    hstr := BitVec.ofNat 64 (w 3), grid := bits (w 4) 31 0, nw := bits (w 4) 36 32 + 1, width := 16 * 2 ^ bits (w 4) 38 37,
    pers := (w 4).testBit 40, pri := ((s.ctx cslot).queue queue).pri.toNat, kk := bits (w 5) 31 0, tiles := bits (w 6) 39 0,
    segs := b.segs, sregs := b.sregs, hwm := BitVec.ofNat 64 b.hwm, scr := b.scr, regs := b.regs, cells := b.cells,
    groups := groupTable b (bits (w 4) 31 0) (bits (w 4) 36 32 + 1), places := b.places, next := 0, time := 0 }

/-- The context in which a launch block is read. -/
def blockCtx (s : State) (cslot : Nat) : DevCtx :=
  { rd := .l2 0, walks := .l2 0, cslot := cslot, ctxid := BitVec.ofNat 16 (s.ctxId cslot), salt := 600 }

/-- The record at a queue's head taken or refused (R365), read at the L2 with its time (R162); nothing is done while its line or
the block's must be waited for (R166). The launch's accesses follow every store made by now, its data image among them (R285,
log 93). -/
def takeRecord (s : State) (cslot queue : Nat) : State :=
  let q := (s.ctx cslot).queue queue
  let pos := q.base.toNat * 4096 + 64 * (q.head.toNat % q.capacity)
  let bs := s.bytes pos 64
  let w := wordAt bs
  let ser := (w 4).testBit 39
  let t := (linesOf pos 64).foldl (fun s ln => s.touch (.l2 0) 0 ln) s
  if (linesOf pos 64).any s.readHeld || ser && (q.last.any fun id => (s.launch id).isSome) then s
  else if bits (w 4) 63 41 ≠ 0 ∨ bits (w 5) 63 32 ≠ 0 ∨ bits (w 6) 63 40 ≠ 0 ∨ w 7 ≠ 0 ∨ bits (w 4) 31 0 = 0 ∨
      bits (w 4) 38 37 = 3 ∨ (bits (w 5) 31 0 = 0 ∧ bits (w 6) 39 0 ≠ 0) then refuseLaunch t cslot queue 0
  else
    let d := blockCtx s cslot
    match devRead t d (w 1) 160 with
    | (_, .wait) => s
    | (s, .bad _ _) => refuseLaunch s cslot queue 2
    | (s, .ok head) =>
      match devRead s d (w 1) (blockLen head) with
      | (_, .wait) => s
      | (s, .bad _ _) => refuseLaunch s cslot queue 2
      | (s, .ok blk) =>
        match parseBlock blk (16 * 2 ^ bits (w 4) 38 37) with
        | none => refuseLaunch s cslot queue 1
        | some b =>
          let l := launchFrom s cslot queue w b
          if blockRefused l.groups l then refuseLaunch s cslot queue 1
          else
            let (s, id) := s.fresh
            { s with launches := s.launches ++ [{ l with id := id, time := s.latestWrite }] }.modQueue cslot queue fun q =>
              { q with head := q.head + 1, current := some id, last := some id }

/-- LAUNCH_TAKE (R364 to R366). A queue whose fill exceeds its capacity is disabled instead. -/
def execLaunchTake (cslot queue : Nat) (s : State) : Host.Outcome State Fault Refusal :=
  let q := (s.ctx cslot).queue queue
  if !s.placing cslot || !q.en || decide (16 ≤ queue) then .next s
  else if q.capacity < q.fill then .next (checkOverrun s cslot queue)
  else if q.fill = 0 || q.current.isSome then .next s
  else .next (takeRecord s cslot queue)

/-- LAUNCH_END (R379): every workgroup, task, watch and consumer batch of the launch has ended, and no dispatch step of a
header bound to it is due (R381). -/
def execLaunchEnd (launch : Nat) (s : State) : Host.Outcome State Fault Refusal :=
  match s.launch launch with
  | none => .next s
  | some l =>
    let c := s.ctx l.cslot
    if s.pkg.powered && l.next == l.grid && !(s.groups.any fun g => g.launch == launch) &&
        !(c.tasks.any fun t => t.launch == launch) && !(c.batches.any fun b => b.launch == launch) &&
        !(s.watches.any fun w => w.launch == launch) && !(s.binds.any fun b => b.launch == launch && b.armed) then
      .next { s with launches := s.launches.filter fun l => l.id != launch,
                     binds := s.binds.filter fun b => b.launch != launch }
    else .next s

/-- Consumer batches that a context holds (R373). -/
def batchLimit : Nat := 4096

/-- CONSUMER_DISPATCH (R381): one dispatch step at a bound header's home slice, of a logical time that the consumer's accesses
follow; none while an outside agent owns the header's line (R166). -/
def execConsumerDispatch (idx : Nat) (s : State) : Host.Outcome State Fault Refusal :=
  match s.binds[idx]? with
  | none => .next s
  | some b =>
    let h := queueHdr (s.num b.pa 64)
    let rest := fun (s : State) => { s with binds := modAt (fun b => { b with armed := false }) idx s.binds }
    if !s.pkg.powered || !b.armed || s.readHeld (lineOf b.pa) then .next s
    else match s.launch b.launch with
    | none => .next (rest s)
    | some l =>
      let a := (h.tail + 2 ^ 32 - h.disp) % 2 ^ 32
      if h.cpc = 0 then .next { s with binds := dropAt idx s.binds }
      else if h.malformed l || s.poisoned b.pa 64 || !(decide (h.batch ≤ a) || (h.opened == 0 && decide (0 < a))) then
        .next (rest s)
      else if decide (batchLimit ≤ (s.ctx b.cslot).batches.length) || s.storeHeld (b.pa + 32) 4 then .next s
      else
        let n := min h.batch a
        let (s, ord) := s.fresh
        let s := s.flow [.queue b.pa] (.batch ord)
        let s := s.devStore .device ((homeTower b.pa).getD 0) (some false) (b.pa + 32) (leBytes 4 ((h.disp + n) % 2 ^ 32))
        .next (s.modCtx b.cslot fun x => { x with batches := x.batches ++
          [⟨b.cslot, b.launch, h.cpc, h.carg, b.queue, BitVec.ofNat 32 h.disp, n, h.nw, h.pri, ord, s.writtenAt b.pa 64⟩] })

end Sys2Proof.Machine
end

