-- ==== Sys2Proof/Machine/Ending.lean ====
section
/-!
DEFINITION. Ending and killing (spec/17 R360, R361, spec/20 R397): the end of a warp and of a workgroup, and the kill of
a workgroup.
-/
namespace Sys2Proof.Machine

/-! ### Leaving a slot -/

/-- The warp of a slot leaves every order in which its fragments wait. -/
def withdrawWaits (s : State) (core slot : Nat) : State :=
  let out := fun (w : Waiter) => !(w.ref.core == core && w.ref.slot == slot)
  let s := s.modCore core fun k =>
    { k with xqueue := k.xqueue.filter fun x => x.1 != slot, mrsv := k.mrsv.filter fun x => x.1 != slot }
  { s with tileWait := s.tileWait.filter out, lockWait := s.lockWait.filter out }

/-- The cells that a warp's registers hold. -/
def Warp.cells (w : Warp) : List Nat := w.m.regs.flatMap fun m => m.cells

/-- A slot becomes empty while its warp's cells stay reserved: map stores on their way to its registers have landed (R398),
and its grant and its place in the matrix unit are free (R236, R298, R402). -/
def leaveSlot (s : State) (core slot : Nat) : State :=
  (freeUnit (withdrawWaits (landMaps s core slot) core slot) core slot).modCore core fun k =>
    { k with slots := modAt (fun _ => none) slot k.slots }

/-- Cells return to a core's pool (R290). -/
def releaseCells (s : State) (core : Nat) (cells : List Nat) : State :=
  s.modCore core fun k => { k with used := k.used.filter fun c => !cells.contains c }

/-- A slot becomes empty and its warp's cells return to the pool. -/
def emptySlot (s : State) (core slot : Nat) : State :=
  match s.warp core slot with
  | none => s
  | some w => releaseCells (leaveSlot s core slot) core w.cells

/-- The resident warps of a workgroup: core and slot. -/
def State.members (s : State) (wg : Nat) : List (Nat × Nat × Warp) := s.warps.filter fun x => x.2.2.wg == wg

/-- A change of each group of its launch that a workgroup of a grid belongs to (R356). -/
def State.modMemberships (s : State) (g : Workgroup) (f : LaunchGroup → LaunchGroup) : State :=
  match g.kind with
  | .grid i => s.modLaunch g.launch fun l => { l with groups := l.groups.map fun x => if x.has i then f x else x }
  | _ => s

/-! ### The end of a warp (R360) -/

/-- The barrier objects that a warp takes part in (R360), as scratchpad addresses. -/
def Warp.objects (w : Warp) : List Nat :=
  let g := (w.r.g[1]?).getD ({} : Seg)
  (w.part.filter fun o => (segCheck g o 32 true).isNone).map fun o => g.base.toNat + o

/-- An implicit BDROP on each of the objects (R360). -/
def dropObjects (s : State) (core : Nat) (objs : List Nat) : State := objs.foldl (fun s a => s.barStep core a barDrop) s

/-- Has a warp ended: every lane, and every asynchronous operation of it (R250, R298)? -/
def Warp.done (w : Warp) : Bool := w.ended == fullMask w.width && w.m.queue.isEmpty && w.trv.isEmpty

/-- What a warp of a task has done comes before later tasks in conflict with it (R375). -/
def endsWith (s : State) (w : Warp) : State :=
  match (s.wgroup w.wg).map Workgroup.kind with
  | some (.task n _) => s.flow w.allBefore (.ended w.cslot n)
  | _ => s

/-- WARP_END (R360). The last warp of a workgroup leaves its part in barriers and its cells to the workgroup's end, which
waits for the workgroup's engine commands (R204, R360 steps 1 and 4). It waits while a report of the warp must (R166). -/
def execWarpEnd (core slot : Nat) (s : State) : Host.Outcome State Fault Refusal :=
  match s.warp core slot with
  | none => .next s
  | some w =>
    if !s.pkg.powered || !w.done || reportsHeld s w then .next s
    else
      let s := performReports (performMaps (performCfgs s core slot) core slot) core slot
      let s := endsWith s w
      match s.wgroup w.wg with
      | none => .next (emptySlot (dropObjects s core w.objects) core slot)
      | some g =>
        let last := g.ended + 1 == g.nw
        let s := if last then s else dropObjects s core w.objects
        let s := s.modMemberships g LaunchGroup.dropWarp
        .next ((if last then leaveSlot s core slot else emptySlot s core slot).modWgroup w.wg fun g =>
          { g with ended := g.ended + 1, drops := if last then w.objects else [], cells := if last then w.cells else [] })

/-! ### The end of a workgroup (R360) -/

/-- Every tile of a workgroup is released, after zero is written to all of its memory (R337, R360). -/
def releaseTiles (s : State) (core wg : Nat) : State :=
  let mine := s.tiles.filter fun t => t.wg == wg
  let s := mine.foldl (fun s t => s.noteRelease (towerOf core) t.ctxid t.key) s
  let s := s.modCore core fun k => { k with scr := mine.foldl (fun m t => spClear t.off (t.off + tileBytes) m) k.scr }
  { s with tiles := s.tiles.filter fun t => t.wg != wg, tileWait := s.tileWait.filter fun w => w.wg != wg }

/-- Has a task a range that is not empty? -/
def TaskRec.ranged (w : TaskRec) : Bool := (w.rd ++ w.wr).any fun x => (rangeOf x).2 != 0
/-- A task with ranges ends with its workgroup, at its tower's logical time (R375). -/
def endTask (s : State) (g : Workgroup) : State :=
  match g.kind with
  | .task n w => if w.ranged then s.modCtx g.cslot fun x => { x with ended := x.ended ++ [⟨n, w, (s.tower (towerOf g.core)).pts⟩] }
    else s
  | _ => s

/-- The workgroup is gone: its tiles and line locks are released, then its cells and its area are free (R360). -/
def removeGroup (s : State) (g : Workgroup) : State :=
  let s := endTask s g
  let s := releaseCells (releaseLocks (releaseTiles s g.core g.id) (towerOf g.core) g.id) g.core g.cells
  { s with groups := s.groups.filter fun x => x.id != g.id }

/-- Has a workgroup an engine command that has not completed (R204)? -/
def commandsOf (s : State) (wg : Nat) : Bool := s.combs.any fun (c : Comb) => c.chain.any fun x => x.wg == wg

/-- WORKGROUP_END (R360): with its engine commands complete, the barrier participation of its last warp ends (R204), and
the workgroup is gone. -/
def execWorkgroupEnd (wg : Nat) (s : State) : Host.Outcome State Fault Refusal :=
  match s.wgroup wg with
  | none => .next s
  | some g =>
    if s.pkg.powered && g.ended == g.nw && !commandsOf s wg then .next (removeGroup (dropObjects s g.core g.drops) g)
    else .next s

/-! ### Killing a workgroup (R361, R397) -/

/-- The engine commands of a workgroup are cancelled: they write nothing more, and their unwritten granules are orphaned
(R204). Each leaves the chain at its turn. -/
def cancelCommands (s : State) (wg : Nat) : State :=
  let s := ((List.range 32).flatMap fun c => ((s.comb c).chain.filter fun x => x.wg == wg).map fun x => (c, x)).foldl
    (fun s x => endProducer s x.1 x.2) s
  { s with combs := s.combs.map fun (c : Comb) =>
      { c with chain := c.chain.map fun x => if x.wg = wg then { x with cancel := true } else x } }

/-- The pending stores of a killed warp: each is performed or discarded (R223). -/
def killStores (s : State) (core slot : Nat) (w : Warp) : State :=
  ((w.stnt.zip (List.range w.stnt.length)).foldl (fun s x =>
    if choose s.tick (5000 + x.2) 2 = 1 && !pendHeld s core x.1 then
      performPend s core slot x.1 else s) s)

/-- A warp of a killed workgroup: what it stored on chip is performed, its reports too unless they must wait (R166), its
records that are not posted are discarded, and its slot is empty. -/
def killWarp (s : State) (x : Nat × Nat × Warp) : State :=
  let (core, slot, w) := x
  let s := performMaps (performCfgs (killStores s core slot w) core slot) core slot
  let s := if reportsHeld s w then s else performReports s core slot
  (emptySlot s core slot).modCore core fun k =>
    { k with records := k.records.filter fun r => !(r.wtag == w.tag && r.ctxid == w.ctxid) }

/-- Every barrier object of a resident workgroup's area is poisoned (R361). -/
def poisonObjects (s : State) (g : Workgroup) : State :=
  if g.saved then s else g.objs.foldl (fun s o => s.barStep g.core (g.base + o) barPoison) s

/-- The kill of a workgroup, resident or evicted (R361, R397). -/
def killGroup (s : State) (g : Workgroup) : State :=
  let s := cancelCommands s g.id
  let s := (s.members g.id).foldl killWarp s
  let s := (poisonObjects s g).modMemberships g fun x => { x with pz := true }
  let s := if g.saved then { s with tiles := s.tiles.filter fun t => t.wg != g.id } else s
  let apart := s.images.filter fun i => i.wg == g.id && !i.whole
  let s := apart.foldl (fun s i => releaseCells s i.core (i.warps.flatMap fun x => x.2.cells)) s
  let s := { s with images := s.images.filter fun i => i.wg != g.id }
  removeGroup s g

end Sys2Proof.Machine
end

