-- ==== Sys2Proof/Machine/Evict.lean ====
section
/-!
DEFINITION. Eviction, saved images and restore (spec/18 R368, spec/20 R399, R402 to R405): bringing warps to rest, the
pool of images, what the scheduler evicts, and CTXSAVE.
-/
namespace Sys2Proof.Machine

/-! ### The pool of saved images (R403) -/

/-- The 64 KiB units that an image of some warps takes: its bound of R403, in whole units. -/
def imageUnits (area : Nat) (cells : Bool) (warps : List Warp) : Nat :=
  let n := 4096 + area + area / 128 +
    (warps.map fun w => 1024 * w.width + 4096 + (if cells then 512 * w.cells.length else 0)).foldl (· + ·) 0
  (n + 65535) / 65536

/-- The lowest run of `n` units of a context's pool that no image takes. -/
def findUnits (s : State) (cslot n : Nat) : Option Nat :=
  let size := (s.ctx cslot).svsize.toNat % 65536
  let used := (s.images.filter fun i => i.cslot == cslot).map fun i => (i.unit, i.units)
  let ok := fun (u : Nat) => decide (u + n ≤ size) && used.all fun x => decide (u + n ≤ x.1 ∨ x.1 + x.2 ≤ u)
  ((0 :: used.map fun x => x.1 + x.2).filter ok).foldl (fun m u => match m with
    | none => some u
    | some x => some (min x u)) none

/-- An image is written to its units as physical stores; its layout is the device's (R403). -/
def putImage (s : State) (i : Image) : State :=
  let base := (s.ctx i.cslot).svbase.toNat + i.unit * 65536
  let s := s.devStore .device (towerOf i.core) (some false) base
    ((List.range (i.units * 65536)).map fun k => BitVec.ofNat 8 (Config.imageByte s.tick (base + k)))
  { s with images := s.images ++ [i] }

/-! ### Coming to rest (R402) -/

/-- Does a warp hold a stopped fragment (R399)? -/
def Warp.stopped (w : Warp) : Bool := w.frags.any fun fr => fr.st == .stopped

/-- A fragment comes to rest at an instruction boundary: its run ends (R31, R36). A parked wait is withdrawn, to be taken
up again after restore. An arrival in GRPSYNC is kept (R357), and so are a wait that has already ended and a composition that has
begun to store (R140). -/
def restFrag (t : Nat) (fr : Frag) : Frag :=
  let fr := { fr with ahead := [], run := [] }
  if fr.st != .parked then fr
  else match fr.wait with
  | some (.group _ _) => fr
  | some (.barrier _ _ (some _)) => fr
  | some (.order _ _ true) => fr
  | some (.composing _) => fr
  | _ => { fr with st := .ready, wait := none, since := t, aged := false }

/-- A warp comes to rest (R402 steps 1 to 3 and 5), and whether it has: not while a pending store or a report must wait (R166),
nor until its operations of PAIR have written their continuations, which they do in steps of their own. -/
def restWarp (s : State) (core slot : Nat) : State × Bool :=
  match s.warp core slot with
  | none => (s, true)
  | some w =>
    if w.resting then (s, w.trv.all PairOp.rested)
    else if reportsHeld s w then (s, false)
    else match drainStores s core slot with
    | none => (holdPends s core slot, false)
    | some s =>
      let s := performReports (settleWarpLoads (performMaps (performCfgs s core slot) core slot) core slot) core slot
      ((withdrawWaits (restMatrix s core slot) core slot).modWarp core slot fun w =>
        { w with frags := w.frags.map (restFrag s.tick), trv := w.trv.map PairOp.rest, resting := true },
        (w.trv.map PairOp.rest).all PairOp.rested)

/-- The warps of a workgroup go on. -/
def wakeGroup (s : State) (wg : Nat) : State :=
  (s.members wg).foldl (fun s x => s.modWarp x.1 x.2.1 fun w => { w with resting := false }) s

/-! ### Saving -/

/-- Keys of the saved cells of an image: warp, register, place and byte. -/
def cellKey (warp reg place byte : Nat) : Nat := ((warp * 16 + reg) * 64 + place) * 512 + byte

/-- The cells of some warps as an image holds them. -/
def saveCells (k : Core) (ws : List Warp) : Sp Byte :=
  (ws.zip (List.range ws.length)).foldl (fun m x =>
    (x.1.m.regs.zip (List.range 16)).foldl (fun m r =>
      (r.1.cells.zip (List.range 64)).foldl (fun m c =>
        spWrite 0 m (cellKey x.2 r.2 c.2 0) (spRead 0 k.cells (c.1 * 512) 512)) m) m) []

/-- The numbers of a list that lie from `lo` up to `hi`, less `lo`. -/
def inRange (lo hi : Nat) (xs : List Nat) : List Nat := (xs.filter fun x => decide (lo ≤ x ∧ x < hi)).map (· - lo)

/-- Must a workgroup's eviction wait for an engine command: one that its warps issued, or that targets its area (R205)? -/
def commandsHold (s : State) (g : Workgroup) : Bool :=
  s.combs.any fun (c : Comb) => c.chain.any fun x => x.wg == g.id ||
    x.targets.any fun t => t.1 == g.core && decide (g.base / 16 ≤ t.2 ∧ t.2 < (g.base + g.size) / 16)

/-- How an eviction stands (R402, R403, R405). -/
inductive Evicted where
  | saved (s : State)
  | wait (s : State)
  | noRoom (s : State)
  | stopped
  | already

/-- Must the store of an image wait for an outside agent (R166)? -/
def imageHeld (s : State) (cslot unit units : Nat) : Bool :=
  s.storeHeld ((s.ctx cslot).svbase.toNat + unit * 65536) (units * 65536)

/-- A warp as an image takes it: the cycles that its matrix operation has waited are counted up to now (R317). The time it
spends saved does not count (DEDUCED, log 94). -/
def Warp.leaving (clock : Nat) (w : Warp) : Warp :=
  { w with m := { w.m with queue := w.m.queue.map fun o => { o with waited := o.waited + (clock - o.since), since := 0 } } }
/-- A warp as it comes back from an image: its matrix operation goes on waiting on its new tower's clock (R317). -/
def Warp.returning (clock : Nat) (w : Warp) : Warp :=
  { w with m := { w.m with queue := w.m.queue.map fun o => { o with since := clock } } }

/-- The image of a whole workgroup, with the warps of it that lie in images of their own. -/
def saveGroup (s : State) (g : Workgroup) : Evicted :=
  let s := (s.members g.id).foldl (fun s x => landMaps s x.1 x.2.1) s
  let here := s.members g.id
  let apart := s.images.filter fun i => i.wg == g.id
  let t := s.tower (towerOf g.core)
  let warps := (here.map fun x => (x.2.1, x.2.2.leaving t.clock)) ++ apart.flatMap fun i => i.warps
  let n := imageUnits g.size true (warps.map fun x => x.2)
  let s' := { s with images := s.images.filter fun i => i.wg != g.id }
  match findUnits s' g.cslot n with
  | none => .noRoom s
  | some u =>
    if imageHeld s g.cslot u n then .wait s
    else
    let k := s.core g.core
    let (s', id) := s'.fresh
    let img : Image :=
      { id := id, cslot := g.cslot, wg := g.id, whole := true, core := g.core, pri := g.pri, warps := warps,
        area := (k.scr.filter fun x => decide (g.base ≤ x.1 ∧ x.1 < g.base + g.size)).map fun x => (x.1 - g.base, x.2),
        full := inRange (g.base / 16) ((g.base + g.size) / 16) k.full,
        orphan := inRange (g.base / 16) ((g.base + g.size) / 16) k.orphan,
        cells := saveCells k (warps.map fun x => x.2), unit := u, units := n, damaged := apart.any fun i => i.damaged,
        order := id, time := apart.foldl (fun m i => max m i.time) t.pts }
    let s' := here.foldl (fun s x => emptySlot s x.1 x.2.1) s'
    let s' := s'.modCore g.core fun k =>
      { k with used := k.used.filter fun c => !(warps.any fun x => x.2.cells.contains c) }
    .saved ((putImage s' img).modWgroup g.id fun g => { g with saved := true })

/-- The image of one warp (R402, R403). -/
def saveWarp (s : State) (g : Workgroup) (core slot : Nat) : Evicted :=
  let s := landMaps s core slot
  match s.warp core slot with
  | none => .wait s
  | some w =>
    let n := imageUnits 0 false [w]
    match findUnits s g.cslot n with
    | none => .noRoom s
    | some u =>
      if imageHeld s g.cslot u n then .wait s
      else
        let (s, id) := s.fresh
        let t := s.tower (towerOf core)
        .saved (putImage (leaveSlot s core slot)
          { id := id, cslot := g.cslot, wg := g.id, whole := false, core := core, pri := g.pri, warps := [(slot, w.leaving t.clock)], area := [],
            full := [], orphan := [], cells := [], unit := u, units := n, damaged := false, order := id, time := t.pts })

/-- The room that a whole workgroup's image needs is there. -/
def roomFor (s : State) (g : Workgroup) : Bool :=
  let apart := s.images.filter fun i => i.wg == g.id
  let ws := ((s.members g.id).map fun x => x.2.2) ++ apart.flatMap fun i => i.warps.map fun x => x.2
  (findUnits { s with images := s.images.filter fun i => i.wg != g.id } g.cslot (imageUnits g.size true ws)).isSome

/-- The eviction of a whole workgroup, as far as it goes now (R402, R403, R405). -/
def evictGroup (s : State) (g : Workgroup) : Evicted :=
  if g.saved then .already
  else if (s.members g.id).any fun x => x.2.2.stopped then .stopped
  else if !roomFor s g then .noRoom (wakeGroup s g.id)
  else
    let (s, ok) := (s.members g.id).foldl (fun (a : State × Bool) x =>
      let r := restWarp a.1 x.1 x.2.1
      (r.1, a.2 && r.2)) (s, true)
    if !ok || commandsHold s g then .wait s
    else match saveGroup s g with
    | .noRoom s => .noRoom (wakeGroup s g.id)
    | r => r

/-- The eviction of one warp (R402). -/
def evictWarp (s : State) (g : Workgroup) (core slot : Nat) (w : Warp) : Evicted :=
  if w.stopped then .stopped
  else if (findUnits s g.cslot (imageUnits 0 false [w])).isNone then
    .noRoom (s.modWarp core slot fun w => { w with resting := false })
  else match restWarp s core slot with
  | (s, false) => .wait s
  | (s, true) =>
    if s.combs.any fun (c : Comb) => c.chain.any fun x => x.wtag == w.tag && x.ctxid == w.ctxid then .wait s
    else match saveWarp s g core slot with
    | .noRoom s => .noRoom (s.modWarp core slot fun w => { w with resting := false })
    | r => r

/-! ### What the scheduler evicts (R368) -/

/-- Something to evict: a whole workgroup, or one of its warps by its slot. -/
abbrev Victim := Nat × Option Nat

/-- The state with a victim's resources free. -/
def without (s : State) (core : Nat) (v : Victim) : State :=
  match v.2 with
  | some slot => s.modCore core fun k => { k with slots := modAt (fun _ => none) slot k.slots }
  | none =>
    let s' := (s.members v.1).foldl (fun s x => s.modCore x.1 fun k =>
      { k with slots := modAt (fun _ => none) x.2.1 k.slots, used := k.used.filter fun c => !x.2.2.cells.contains c }) s
    { s' with groups := s'.groups.filter fun g => g.id != v.1 }

/-- Workgroups in the order in which they are evicted: the lowest priority first, then the most recently placed. -/
def victimOrder (gs : List Workgroup) : List Workgroup := gs.foldl (fun out g => put g out) []
where
  put (g : Workgroup) : List Workgroup → List Workgroup
    | [] => [g]
    | h :: hs => if g.pri < h.pri ∨ (g.pri = h.pri ∧ h.placed < g.placed) then g :: h :: hs else h :: put g hs

/-- What may be evicted on a core for work of a priority, in order: whole workgroups, or single warps (R368). -/
def victimsOn (s : State) (core pri : Nat) (whole : Bool) : List Victim :=
  let gs := victimOrder (s.groups.filter fun g => g.core == core && !g.saved && g.ended != g.nw && decide (g.pri < pri))
  gs.flatMap fun g =>
    let ms := s.members g.id
    if whole then (if ms.any (fun x => x.2.2.stopped) || !roomFor s g then [] else [(g.id, none)])
    else (ms.reverse.filter fun x => !x.2.2.stopped && (findUnits s g.cslot (imageUnits 0 false [x.2.2])).isSome).map
      fun x => (g.id, some x.2.1)

/-- The fewest victims, in order, without which a core fits a need, and its free lanes then. -/
def planOn (n : Need) (core : Nat) : State → List Victim → List Victim → Option (List Victim × Nat)
  | s, vs, done =>
    if fits s n core then some (done, freeLanes s core)
    else match vs with
    | [] => none
    | v :: vs => planOn n core (without s core v) vs (done ++ [v])

/-- Work that waits and fits no core. -/
structure Starved where
  pri   : Nat
  need  : Need
  cores : List Nat
  near  : List Nat
  deriving DecidableEq, Repr

/-- The work of a priority that a pair has waiting; none while the page walk of its home address must wait (R166). -/
def waitingWork (s : State) (pri i : Nat) : Option Starved :=
  let cslot := i / 17
  let q := i % 17
  let all := List.range 256
  if q < 16 then (queueLaunch s cslot q).bind fun l =>
    if l.places.isEmpty then (homeCores s cslot (l.homeOf l.next)).map fun near => ⟨pri, l.need l.nw, all, near⟩
    else some ⟨pri, l.need l.nw, (((l.places[l.next % l.places.length]?).bind (positionOf s)).map fun c => [c]).getD [], []⟩
  else match (poolNext s cslot pri).bind fun n => (poolOf s cslot)[n]? with
  | some (.task t) => (s.launch t.launch).bind fun l =>
      (homeCores s cslot (namedHome t.work.home)).map fun near => ⟨pri, l.need t.work.nw, all, near⟩
  | some (.batch b) => (s.launch b.launch).map fun l => ⟨pri, l.need b.nw, all, []⟩
  | none => none

/-- The work for which the scheduler evicts: the workgroup to be served next, when no core fits it. -/
def starved (s : State) : Option Starved :=
  ((nextTurn s).filter fun x => !pairFits s x.1 (x.2 / 17) (x.2 % 17)).bind fun x => waitingWork s x.1 x.2

/-- What is evicted next for starved work: the first victim on the core that R368 chooses. -/
def nextVictim (s : State) : Option (Nat × Victim) :=
  (starved s).bind fun x =>
    let whole := x.need.area != 0 || x.need.cells != 0
    let plans := x.cores.filterMap fun c =>
      (planOn x.need c s (victimsOn s c x.pri whole) []).bind fun p => p.1.head?.map fun v => (c, v, p.2)
    let near := plans.filter fun p => x.near.contains p.1
    ((if near.isEmpty then plans else near).foldl (fun (b : Option (Nat × Victim × Nat)) p => match b with
      | none => some p
      | some q =>
        if q.2.2 < p.2.2 ∨ (q.2.2 = p.2.2 ∧ s.coreNumber p.1 < s.coreNumber q.1) then some p else b) none).map fun p =>
      (p.1, p.2.1)

/-- The state that an eviction leaves. -/
def Evicted.state (s : State) : Evicted → State
  | .saved s => s
  | .wait s => s
  | .noRoom s => s
  | _ => s

/-- EVICTION_SAVE (R368, R402, R403): the workgroup, or its warp in a slot, that the scheduler evicts now, or one whose
eviction has begun. -/
def execEvictionSave (wg : Nat) (warp : Option Nat) (s : State) : Host.Outcome State Fault Refusal :=
  match s.wgroup wg with
  | none => .next s
  | some g =>
    if !s.pkg.powered then .next s
    else match warp with
    | none =>
      if (s.members wg).any (fun x => x.2.2.resting) || nextVictim s == some (g.core, (wg, none)) then
        .next ((evictGroup s g).state s)
      else .next s
    | some slot => match s.warp g.core slot with
      | none => .next s
      | some w =>
        if w.wg == wg && (w.resting || nextVictim s == some (g.core, (wg, some slot))) then
          .next ((evictWarp s g g.core slot w).state s)
        else .next s

/-! ### Restore (R404) -/

/-- A register of a warp image that software changed: any value (R403). -/
def spoiltWarp (t i : Nat) (w : Warp) : Warp :=
  let x := fun (k : Nat) => Config.imageByte t (2 ^ 60 + i * 2 ^ 32 + k)
  let v := (List.range (64 * (64 + 32 * w.r.xgrant))).foldl (fun m k => spSet 0 m k (BitVec.ofNat 32 (x k))) w.r.v
  let r := (List.range 128).foldl (fun m k => spSet 0 m k (BitVec.ofNat 64 (x (2 ^ 20 + k)))) w.r.s
  let m := (List.range 8).foldl (fun m k => spSet 0 m k (BitVec.ofNat 64 (x (2 ^ 21 + k)))) w.r.k
  { w with
    r := { w.r with v := v, s := r, k := m, flags := BitVec.ofNat 14 (x (2 ^ 22)) }
    frags := (w.frags.zip (List.range 8)).map fun y => { y.1 with pc := BitVec.ofNat 64 (x (2 ^ 23 + y.2)) } }

/-- The cells of a restored warp's registers, taken from the pool and filled; the words written are free of errors
(R238). -/
def fillCells (s : State) (core warp : Nat) (cells : Sp Byte) : List (MReg × Nat) → State × List MReg
  | [] => (s, [])
  | (m, r) :: ms =>
    let cs := freeCells (s.core core) m.res
    let s := s.modCore core fun k =>
      { k.cleared (wordOfCells cs) with
               used := cs.foldl (fun u c => setInsert c u) k.used,
               cells := (cs.zip (List.range cs.length)).foldl (fun sp c =>
                 spWrite 0 sp (c.1 * 512) (spRead 0 cells (cellKey warp r c.2 0) 512)) k.cells }
    let (s, rest) := fillCells s core warp cells ms
    (s, { m with cells := cs } :: rest)

/-- A warp of an image put into the lowest free slot of a core (R404); every register of it is written (R238). -/
def restoreWarp (s : State) (i : Image) (core shift idx : Nat) (w : Warp) : State :=
  match findIdxFrom Option.isNone 0 (s.core core).slots with
  | none => s
  | some slot =>
    let w := (if i.damaged then spoiltWarp s.tick idx w else w).returning (s.tower (towerOf core)).clock
    let (s, w) := if i.whole then
        let (s, regs) := fillCells s core idx i.cells (w.m.regs.zip (List.range 16))
        let move := fun (g : Seg) => if g.v then { g with base := g.base + BitVec.ofNat 64 shift } else g
        (s, { w with m := { w.m with regs := regs }, r := { w.r with g := modAt move 1 w.r.g } })
      else (s, w)
    let s := (s.modCore core fun k => k.cleared (wordOfSlot slot w.width)).setWarp core slot
      (some { w with resting := false })
    forgetSlot s core slot (if i.whole then w.cells else [])

/-- An image put back on a core (R404), at a logical time not before that of its save (R162). -/
def restoreImage (s : State) (i : Image) (core : Nat) : State :=
  let s := { s.raisePts (towerOf core) i.time with images := s.images.filter fun x => x.id != i.id }
  let ws := (i.warps.map fun x => x.2).zip (List.range i.warps.length)
  if !i.whole then ws.foldl (fun s x => restoreWarp s i core 0 x.2 x.1) s
  else match s.wgroup i.wg with
  | none => s
  | some g =>
    let base := (findArea s core g.size).getD 0
    let shift := (2 ^ 64 + base - g.base) % 2 ^ 64
    let s := clearArea s core base g.size
    let s := s.modCore core fun k =>
      { k with scr := i.area.foldl (fun m x =>
                 spSet 0 m (base + x.1) (if i.damaged then BitVec.ofNat 8 (Config.imageByte s.tick x.1) else x.2)) k.scr,
               full := i.full.foldl (fun m x => setInsert (base / 16 + x) m) k.full,
               orphan := i.orphan.foldl (fun m x => setInsert (base / 16 + x) m) k.orphan }
    let s := { s with tiles := s.tiles.map fun (t : Tile) =>
      if t.wg = i.wg then { t with off := t.off + base - g.base } else t }
    let s := s.modWgroup i.wg fun g => { g with core := core, base := base, saved := false }
    ws.foldl (fun s x => restoreWarp s i core shift x.2 x.1) s

/-- Is it an image's turn: no evicted work of a higher priority can be restored, and no workgroup of one waits to be placed, be
there a core that fits it or not (R368)? -/
def restoreTurn (s : State) (i : Image) : Bool :=
  [3, 2, 1].all fun p => decide (p ≤ i.pri) || (!restoreWaits s p && (turnOf s p).isNone)

/-- RESTORE (R404). -/
def execRestore (image core : Nat) (s : State) : Host.Outcome State Fault Refusal :=
  match s.images.find? fun i => i.id == image with
  | none => .next s
  | some i => if canRestore s i core && restoreTurn s i then .next (restoreImage s i core) else .next s

/-! ### CTXSAVE (R405) -/

/-- The workgroup of the live warp that a warp target names (R391, R394): resident or evicted. -/
def targetGroup (s : State) (ctxid : BitVec 16) (tag : W32) : Option Workgroup :=
  match s.findWarp ctxid tag with
  | some x => s.wgroup x.2.2.wg
  | none => (s.images.find? fun i => i.warps.any fun x => x.2.ctxid == ctxid && x.2.tag == tag).bind fun i => s.wgroup i.wg

/-- The context and the tag in a target (R394). -/
def targetCtx (x : W64) : BitVec 16 := x.extractLsb' 32 16
def targetTag (x : W64) : W32 := x.extractLsb' 0 32

/-- CTXSAVE (R405). -/
def execCtxsave (f : Fields) (s : State) : Host.Outcome State Fault Refusal :=
  issue (.ctxsave f) f .lanes (fun e s =>
    let x := e.s e.opa 1
    if 2 ^ 48 ≤ x.toNat then .trap s [regTrap e 0xF8]
    else match targetGroup s (targetCtx x) (targetTag x) with
    | none => .trap s [{ cause := 2, aux := 15, lanes := e.active, unit := unitOf 0xF8 }]
    | some g =>
      if g.id = e.w.wg then .trap s [regTrap e 0xF8]
      else e.guardS s 0xF8 [e.dst] fun _ =>
        let put := fun (s : State) (n : Nat) => Res.done (e.setS s e.dst (BitVec.ofNat 64 n))
        match evictGroup s g with
        | .saved s => put s 0
        | .wait s => .park s (.other 405)
        | .noRoom s => put s 1
        | .already => put s (if e.fr.wait == some (.other 405) then 0 else 2)
        | .stopped => put s 3) s

/-- Every resident workgroup of a context evicted as far as it goes: those refused, and whether one is still to wait. -/
def evictAll (s : State) : List Nat → State × Nat × Bool
  | [] => (s, 0, false)
  | id :: ids =>
    match s.wgroup id with
    | none => evictAll s ids
    | some g =>
      let r := evictGroup s g
      let (s, n, w) := evictAll (r.state s) ids
      match r with
      | .wait _ => (s, n, true)
      | .noRoom _ => (s, n + 1, w)
      | .stopped => (s, n + 1, w)
      | _ => (s, n, w)

/-- CTXSAVE.ctx (R405). -/
def execCtxsaveCtx (f : Fields) (s : State) : Host.Outcome State Fault Refusal :=
  issue (.ctxsaveCtx f) f .lanes (fun e s =>
    let x := e.s e.opa 1
    let id := bits x.toNat 47 32
    if x.toNat ≠ id * 2 ^ 32 then .trap s [regTrap e 0xF8]
    else match s.ctxSlot id with
    | none => .trap s [{ cause := 2, aux := 15, lanes := e.active, unit := unitOf 0xF8 }]
    | some c =>
      if id = e.w.ctxid.toNat then .trap s [regTrap e 0xF8]
      else e.guardS s 0xF8 [e.dst] fun _ =>
        let gs := s.groups.filter fun g => g.cslot == c && !g.saved && g.ended != g.nw
        let (s, n, wait) := evictAll s (gs.map fun g => g.id)
        if wait then .park s (.other 405) else .done (e.setS s e.dst (BitVec.ofNat 64 n))) s

end Sys2Proof.Machine
end

