-- ==== Sys2Proof/Machine/Integer.lean ====
section
/-!
DEFINITION. The integer functions that the scalar and vector instructions share (spec/11 R256 to R262), over raw
values of `w` bits.
-/
namespace Sys2Proof.Machine

def intAdd (w : Nat) (sg sat : Bool) (a b : Nat) : Nat := narrow w sg sat (ival w sg a + ival w sg b)
def intSub (w : Nat) (sg sat : Bool) (a b : Nat) : Nat := narrow w sg sat (ival w sg a - ival w sg b)
def intMul (w : Nat) (sg sat : Bool) (a b : Nat) : Nat := narrow w sg sat (ival w sg a * ival w sg b)
/-- The high half of the 2w-bit product. -/
def intMulh (w : Nat) (sg : Bool) (a b : Nat) : Nat := wrapInt w (ival w sg a * ival w sg b / (2 ^ w : Nat))
def intMad (w : Nat) (a b c : Nat) : Nat := (a * b + c) % 2 ^ w
def intShl (w a b : Nat) : Nat := a * 2 ^ (b % w) % 2 ^ w
def intShr (w a b : Nat) : Nat := a % 2 ^ w / 2 ^ (b % w)
def intSra (w a b : Nat) : Nat := wrapInt w (sval w a / (2 ^ (b % w) : Nat))
def intMin (w : Nat) (sg : Bool) (a b : Nat) : Nat := if ival w sg a ≤ ival w sg b then a else b
def intMax (w : Nat) (sg : Bool) (a b : Nat) : Nat := if ival w sg a ≤ ival w sg b then b else a
/-- abs(a) and −a: the minimum stays, or becomes the maximum under .sat (R260). -/
def intAbs (w : Nat) (sat : Bool) (a : Nat) : Nat := narrow w true sat ((sval w a).natAbs : Int)
def intNeg (w : Nat) (sat : Bool) (a : Nat) : Nat := narrow w true sat (-(sval w a))
/-- Leading zero bits in `w` bits; `w` of a zero. -/
def intClz (w a : Nat) : Nat := if a % 2 ^ w = 0 then w else w - 1 - Nat.log2 (a % 2 ^ w)
/-- Set bits. -/
def intPop (w a : Nat) : Nat := (List.range w).foldl (fun n i => n + b2n (a.testBit i)) 0
/-- The bits reversed. -/
def intBrev (w a : Nat) : Nat := (List.range w).foldl (fun n i => n + b2n (a.testBit i) * 2 ^ (w - 1 - i)) 0
/-- The field at `pos`, `len` bits wide, extended by signedness (R257). -/
def intBfe (w : Nat) (sg : Bool) (pos len a : Nat) : Nat := wrapInt w (ival len sg (a / 2 ^ pos))
/-- The field of `d` at `pos` replaced by the low `len` bits of `a` (R257). -/
def intBfi (pos len d a : Nat) : Nat :=
  d - d / 2 ^ pos % 2 ^ len * 2 ^ pos + a % 2 ^ len * 2 ^ pos
/-- The condition codes of SCMP and VCMP (R257). -/
def intCmp (c w : Nat) (sg : Bool) (a b : Nat) : Bool :=
  let x := ival w sg a
  let y := ival w sg b
  match c with
  | 0 => x == y
  | 1 => x != y
  | 2 => decide (x < y)
  | 3 => decide (x ≤ y)
  | 4 => decide (y < x)
  | _ => decide (y ≤ x)
/-- Quotient truncated toward zero, and the flag (R258). -/
def intDiv (w : Nat) (sg : Bool) (a b : Nat) : Nat × Nat :=
  if b % 2 ^ w = 0 then (2 ^ w - 1, flDz) else (wrapInt w (Int.tdiv (ival w sg a) (ival w sg b)), 0)
/-- Remainder with the sign of the dividend, and the flag (R258). -/
def intRem (w : Nat) (sg : Bool) (a b : Nat) : Nat × Nat :=
  if b % 2 ^ w = 0 then (a % 2 ^ w, flDz) else (wrapInt w (Int.tmod (ival w sg a) (ival w sg b)), 0)
/-- A bitwise function. -/
def intAnd (a b : Nat) : Nat := a &&& b
def intOr (a b : Nat) : Nat := a ||| b
def intXor (a b : Nat) : Nat := a ^^^ b
def intNot (w a : Nat) : Nat := 2 ^ w - 1 - a % 2 ^ w
/-- Element `j` of four packed bytes as an integer. -/
def byteOf (sg : Bool) (a j : Nat) : Int := ival 8 sg (a / 2 ^ (8 * j))
/-- c + Σ |a_j − b_j|, wrapping as n32 (R260). -/
def intSad (sg : Bool) (a b c : Nat) : Nat :=
  (c + (List.range 4).foldl (fun n j => n + (byteOf sg a j - byteOf sg b j).natAbs) 0) % 2 ^ 32
/-- c + Σ a_j × b_j as s32, wrapping or clamped (R260). -/
def intDot4 (sg sat : Bool) (a b c : Nat) : Nat :=
  narrow 32 true sat ((List.range 4).foldl (fun n j => n + byteOf sg a j * byteOf sg b j) (sval 32 c))
/-- Is the conversion's type code signed, and how wide is it (R262)? -/
def codeSigned (t : Nat) : Bool := t == 1 || t == 3
/-- VCVT from type code `st` to type code `dt` (R262). -/
def intCvt (st dt : Nat) (sat : Bool) (a : Nat) : Nat :=
  narrow (elemBits dt) (codeSigned dt) sat (ival (elemBits st) (codeSigned st) a)

end Sys2Proof.Machine
end

