-- ==== Sys2Proof/Machine/Float.lean ====
section
/-!
DEFINITION. The floating-point instructions (spec/11 R263 to R268), and the functions of encodings they share with the
cross-lane reductions.
-/
namespace Sys2Proof.Machine

/-- The rounding mode of qual[34:32] (R19). -/
def modeOf (f : Fields) : Nat := qv f % 8

/-- The width of a format's encoding. -/
def Fmt.width (m : Fmt) : Nat := 1 + m.eb + m.fb
/-- The encoding of an operand in its register word (R112). -/
def Fmt.enc (m : Fmt) (x : Nat) : Nat := x % 2 ^ m.width

/-- Operands A, B and C of the instruction's format in a lane, as values. -/
def Env.fa (e : Env) (L : Nat) : Val := let m := fmtOf (tv e.f); decodeVal m (m.enc (e.a (tv e.f) L))
def Env.fb (e : Env) (L : Nat) : Val := let m := fmtOf (tv e.f); decodeVal m (m.enc (e.b (tv e.f) L))
def Env.fc (e : Env) (L : Nat) : Val := let m := fmtOf (tv e.f); decodeVal m (m.enc (e.c (tv e.f) L))

/-- An exact function of the operands, rounded once under the instruction's mode (R263). -/
def rounded (g : Env → Nat → Val) (e : Env) (L : Nat) : Nat × Nat := roundTo (fmtOf (tv e.f)) (modeOf e.f) false (g e L)

/-- FMIN and FMAX of two encodings (R265). -/
def fPick (m : Fmt) (big : Bool) (a b : Nat) : Nat × Nat :=
  let x := decodeVal m a
  let y := decodeVal m b
  let fl := flagIf (x.isSig || y.isSig) flInv
  if x.isNan && y.isNan then (m.cnan, fl)
  else if x.isNan then (b, fl)
  else if y.isNan then (a, fl)
  else
    let aFirst := x.lt y || (!y.lt x && decide (m.signBit ≤ a))
    (if aFirst != big then a else b, 0)

/-- An encoding of A with only its sign changed, or the canonical NaN (R265). -/
def fSign (m : Fmt) (g : Bool → Bool) (a : Nat) : Nat × Nat :=
  let x := decodeVal m a
  if x.isNan then (m.cnan, flagIf x.isSig flInv)
  else (m.withSign (g (decide (m.signBit ≤ a))) (a % m.signBit), 0)

/-- The conditions of FCMP with the flag (R266). -/
def fCond (c : Nat) (x y : Val) : Bool × Nat :=
  let un := x.isNan || y.isNan
  let sig := flagIf (x.isSig || y.isSig) flInv
  let any := flagIf un flInv
  match c with
  | 0 => (x.eq y, sig)
  | 1 => (!x.eq y, sig)
  | 2 => (x.lt y, any)
  | 3 => (!un && !y.lt x, any)
  | 4 => (y.lt x, any)
  | 5 => (!un && !x.lt y, any)
  | 6 => (un, sig)
  | _ => (!un, sig)

/-- The class word of an encoding (R267). -/
def fClass (m : Fmt) (a : Nat) : Nat :=
  let neg := decide (m.signBit ≤ a)
  let x := a % m.signBit
  match decodeVal m a with
  | .nan i => if i then 2 ^ 8 else 2 ^ 9
  | .inf _ => if neg then 1 else 2 ^ 7
  | .fin _ _ _ =>
    let k := if x = 0 then 3 else if x < 2 ^ m.fb then 2 else 1
    if neg then 2 ^ k else 2 ^ (7 - k)

/-- FRND of a value under a mode (R264): the sign of a kept, inexact raised only when asked for. -/
def fRound (m : Fmt) (mode : Nat) (x : Bool) (a : Val) : Nat × Nat :=
  match a with
  | .fin neg n d =>
    let (y, exact) := roundNat mode neg n d
    ((roundTo m 0 false (.fin neg y 1)).1, flagIf (x && !exact) flInx)
  | v => roundTo m 0 false v

/-- a × 2^n (R264); beyond ±5000 the result no longer depends on n. -/
def fScale (a : Val) (n : Int) : Val :=
  let n := max (-5000) (min 5000 n)
  a.mul (.dyadic false 1 n)

/-- c + a0 × b0 + a1 × b1 of a format's elements, rounded once to f32 (R264). -/
def fDot2 (m : Fmt) (mode a b c : Nat) : Nat × Nat :=
  let rdn := mode == 3
  let p := fun i => (decodeVal m (a / 2 ^ (16 * i) % 65536)).mul (decodeVal m (b / 2 ^ (16 * i) % 65536))
  roundTo fmtF32 mode false (((decodeVal fmtF32 c).add rdn (p 0)).add rdn (p 1))

/-- FADD (R264). -/
def execFadd (f : Fields) (s : State) : Host.Outcome State Fault Refusal :=
  issue (.fadd f) f .lanes (perLane (wideType (tv f)) (rounded fun e L => (e.fa L).add (modeOf f == 3) (e.fb L))) s

/-- FSUB (R264). -/
def execFsub (f : Fields) (s : State) : Host.Outcome State Fault Refusal :=
  issue (.fsub f) f .lanes (perLane (wideType (tv f)) (rounded fun e L => (e.fa L).add (modeOf f == 3) (e.fb L).neg)) s

/-- FMUL (R264). -/
def execFmul (f : Fields) (s : State) : Host.Outcome State Fault Refusal :=
  issue (.fmul f) f .lanes (perLane (wideType (tv f)) (rounded fun e L => (e.fa L).mul (e.fb L))) s

/-- FFMA (R264). -/
def execFfma (f : Fields) (s : State) : Host.Outcome State Fault Refusal :=
  issue (.ffma f) f .lanes (perLane (wideType (tv f)) (rounded fun e L => ((e.fa L).mul (e.fb L)).add (modeOf f == 3) (e.fc L))) s

/-- FMIN (R265). -/
def execFmin (f : Fields) (s : State) : Host.Outcome State Fault Refusal :=
  issue (.fmin f) f .lanes (perLane (wideType (tv f)) fun e L => fPick (fmtOf (tv f)) false ((fmtOf (tv f)).enc (e.a (tv f) L)) ((fmtOf (tv f)).enc (e.b (tv f) L))) s

/-- FMAX (R265). -/
def execFmax (f : Fields) (s : State) : Host.Outcome State Fault Refusal :=
  issue (.fmax f) f .lanes (perLane (wideType (tv f)) fun e L => fPick (fmtOf (tv f)) true ((fmtOf (tv f)).enc (e.a (tv f) L)) ((fmtOf (tv f)).enc (e.b (tv f) L))) s

/-- FABS (R265). -/
def execFabs (f : Fields) (s : State) : Host.Outcome State Fault Refusal :=
  issue (.fabs f) f .lanes (perLane (wideType (tv f)) fun e L => fSign (fmtOf (tv f)) (fun _ => false) ((fmtOf (tv f)).enc (e.a (tv f) L))) s

/-- FNEG (R265). -/
def execFneg (f : Fields) (s : State) : Host.Outcome State Fault Refusal :=
  issue (.fneg f) f .lanes (perLane (wideType (tv f)) fun e L => fSign (fmtOf (tv f)) (fun s => !s) ((fmtOf (tv f)).enc (e.a (tv f) L))) s

/-- FCPS (R265). -/
def execFcps (f : Fields) (s : State) : Host.Outcome State Fault Refusal :=
  issue (.fcps f) f .lanes (perLane (wideType (tv f)) fun e L =>
    let m := fmtOf (tv f)
    fSign m (fun _ => decide (m.signBit ≤ m.enc (e.b (tv f) L))) (m.enc (e.a (tv f) L))) s

/-- FCMP (R266). -/
def execFcmp (f : Fields) (s : State) : Host.Outcome State Fault Refusal :=
  issue (.fcmp f) f .lanes (maskLanes fun e L => fCond (mv f) (e.fa L) (e.fb L)) s

/-- FCLASS (R267). -/
def execFclass (f : Fields) (s : State) : Host.Outcome State Fault Refusal :=
  issue (.fclass f) f .lanes (perLane (wideType (tv f)) fun e L => (fClass (fmtOf (tv f)) ((fmtOf (tv f)).enc (e.a (tv f) L)), 0)) s

/-- FRND (R264). -/
def execFrnd (f : Fields) (s : State) : Host.Outcome State Fault Refusal :=
  issue (.frnd f) f .lanes (perLane (wideType (tv f)) fun e L => fRound (fmtOf (tv f)) (modeOf f) (bitAt (qv f) 3) (e.fa L)) s

/-- FCVT (R268, R119). -/
def execFcvt (f : Fields) (s : State) : Host.Outcome State Fault Refusal :=
  issue (.fcvt f) f .lanes (perLane (wideType (tv f)) fun e L =>
    let m := fmtOf (mv f)
    convert m (fmtOf (tv f)) (modeOf f) (bitAt (qv f) 3) (m.enc (e.a (mv f) L))) s

/-- FCVTI (R268). -/
def execFcvti (f : Fields) (s : State) : Host.Outcome State Fault Refusal :=
  issue (.fcvti f) f .lanes (perLane (wideType (tv f)) fun e L =>
    let m := fmtOf (mv f)
    let (y, fl) := roundToInt (wide f) (isSigned f) (modeOf f) (decodeVal m (m.enc (e.a (mv f) L)))
    (wrapInt (wide f) y, fl)) s

/-- ICVTF (R268). -/
def execIcvtf (f : Fields) (s : State) : Host.Outcome State Fault Refusal :=
  issue (.icvtf f) f .lanes (perLane (wideType (tv f)) fun e L =>
    roundTo (fmtOf (tv f)) (modeOf f) false (Val.ofInt (ival (elemBits (mv f)) (codeSigned (mv f)) (e.a (mv f) L)))) s

/-- FSCALE (R264). -/
def execFscale (f : Fields) (s : State) : Host.Outcome State Fault Refusal :=
  issue (.fscale f) f .lanes (perLane (wideType (tv f)) (rounded fun e L => fScale (e.fa L) (sval 32 (e.b (tv f) L)))) s

/-- FDOT2 (R264). -/
def execFdot2 (f : Fields) (s : State) : Host.Outcome State Fault Refusal :=
  issue (.fdot2 f) f .lanes (perLane false fun e L => fDot2 (fmtOf (tv f)) (modeOf f) (e.a 0 L) (e.b 0 L) (e.c 0 L)) s

end Sys2Proof.Machine
end

