-- ==== Sys2Proof/Machine/System.lean ====
section
/-!
DEFINITION. System registers and extended blocks (spec/10 R235, R240, R241), and the random numbers (spec/11 R275 to
R277).
-/
namespace Sys2Proof.Machine

/-- The system registers' numbers (R240). -/
def sysRngk : Nat := 7
def sysRngc : Nat := 8

/-- The word that SGET COREID returns (R49). -/
def coreId (s : State) (core : Nat) : W64 :=
  BitVec.ofNat 64 (s.pkg.epoch.toNat * 2 ^ 16 + core * 2 ^ 8 + s.coreNumber core)

/-- A system register that SPUT writes, as the fragment reads it (R35, R241). -/
def Env.sys (e : Env) (n : Nat) (cur : W64) : W64 := runRead64 e.t e.fr.run (keySys n 0) 0 cur

/-- The value of a system register other than LANEID (R240). -/
def sysRead (e : Env) (s : State) (n : Nat) : W64 :=
  match n with
  | 1 => BitVec.ofNat 64 (e.ref.slot + e.w.idx * 2 ^ 8 + e.w.width * 2 ^ 16)
  | 2 => coreId s e.ref.core
  | 3 => BitVec.ofNat 64 (s.tower (towerOf e.ref.core)).clock
  | 4 => e.w.stg.engseq.setWidth 64
  | 5 => BitVec.ofNat 64 (s.core e.ref.core).purse
  | 6 => e.sys 6 (e.w.r.mtol.setWidth 64)
  | 7 => e.sys 7 e.w.r.rngk
  | 8 => e.sys 8 e.w.r.rngc
  | 9 => e.w.r.hwm
  | 10 => e.sys 10 (e.w.r.lclass.setWidth 64)
  | 11 => e.flags.setWidth 64
  | _ => BitVec.ofNat 64 e.w.r.xgrant

/-- SGET (R240). -/
def execSget (f : Fields) (s : State) : Host.Outcome State Fault Refusal :=
  issue (.sget f) f .lanes (fun e s =>
    if iv f = 0 then .done (e.putLanes s false e.dst (e.lanes.map fun L => (L, L, 0)))
    else scalarRes 0x12 (fun e => (sysRead e s (iv f), 0)) e s) s

/-- The old value of a system register that SPUT writes. -/
def sysOld (r : RegFile) (n : Nat) : W64 :=
  match n with
  | 6 => r.mtol.setWidth 64
  | 7 => r.rngk
  | 8 => r.rngc
  | 10 => r.lclass.setWidth 64
  | _ => r.flags.setWidth 64

/-- A system register written (R240, R120). -/
def sysPut (r : RegFile) (n : Nat) (x : W64) : RegFile :=
  match n with
  | 6 => { r with mtol := x.setWidth 34 }
  | 7 => { r with rngk := x }
  | 8 => { r with rngc := x }
  | 10 => { r with lclass := x.setWidth 4 }
  | _ => { r with flags := flagsMask x }

/-- A system register ← x, as a register result of the run (R35, R241). -/
def Env.setSys (e : Env) (s : State) (n : Nat) (x : W64) : State :=
  s.modWarp e.ref.core e.ref.slot fun w =>
    let (y, log) := runWrite64 e.t (w.frag e.ref.entry).run (keySys n 0) (sysOld w.r n) x
    { w.modFrag e.ref.entry (fun fr => { fr with run := log }) with r := sysPut w.r n y }

/-- Is a value refused by a register's reserved bits (R209, R312)? -/
def sysRefused (n : Nat) (x : W64) : Bool :=
  match n with
  | 6 => bits x.toNat 63 34 != 0 || bits x.toNat 33 32 == 3 ||
      (bits x.toNat 33 32 == 2 && (bits x.toNat 31 6 != 0 || decide (32 < bits x.toNat 5 0)))
  | 10 => bits x.toNat 63 4 != 0
  | _ => false

/-- SPUT (R240). -/
def execSput (f : Fields) (s : State) : Host.Outcome State Fault Refusal :=
  issue (.sput f) f .lanes (fun e s =>
    let x := e.s e.opa 1
    if sysRefused (iv f) x then e.fail s 0x13 0x0D else .done (e.setSys s (iv f) x)) s

/-- XREL (R235): the warp's blocks are freed and their contents lost. -/
def execXrel (f : Fields) (s : State) : Host.Outcome State Fault Refusal :=
  issue (.xrel f) f .lanes (fun e s =>
    .done (e.modRegs s fun r => { r with xgrant := 0, v := spClear (64 * 64) (256 * 64) r.v })) s

/-- Mix64 (R275). -/
def mix64 (z : W64) : W64 :=
  let z := (z ^^^ (z >>> 30)) * 0xBF58476D1CE4E5B9
  let z := (z ^^^ (z >>> 27)) * 0x94D049BB133111EB
  z ^^^ (z >>> 31)

/-- The random word of a lane (R275). -/
def rngWord (key ctr : W64) (L : Nat) : Nat :=
  (mix64 (key + (ctr * 64 + BitVec.ofNat 64 L) * 0x9E3779B97F4A7C15)).toNat % 2 ^ 32

/-- RNG (R275, R277). -/
def execRng (f : Fields) (s : State) : Host.Outcome State Fault Refusal :=
  issue (.rng f) f .lanes (fun e s =>
    let key := e.sys sysRngk e.w.r.rngk
    let ctr := e.sys sysRngc e.w.r.rngc
    .done (e.setSys (e.putLanes s false e.dst (e.lanes.map fun L => (L, rngWord key ctr L, 0))) sysRngc (ctr + 1))) s

/-- RNGSEED (R276). -/
def execRngseed (f : Fields) (s : State) : Host.Outcome State Fault Refusal :=
  issue (.rngseed f) f .lanes (fun e s =>
    .done (e.setSys (e.setSys s sysRngk (e.s e.opa 1)) sysRngc (e.s e.opb 2))) s

end Sys2Proof.Machine
end

