-- ==== Sys2Proof/Machine/Control.lean ====
section
/-!
DEFINITION. The privileged control instructions (spec/20 R394 to R398, R406, spec/03 R73, R78), the posting of fault
records (spec/03 R84, spec/20 R389, R392), and the aging of fragments (spec/18 R370).
-/
namespace Sys2Proof.Machine

/-- Fault 0x02 of a target that names nothing suitable (R386, log 16). -/
def targetTrap (e : Env) (major : Nat) : Trap := { cause := 2, aux := 15, lanes := e.active, unit := unitOf major }

/-! ### Fault records (R84, R389, R392) -/

/-- The 512 bits of a fault record with the time of its posting (R389). -/
def FaultRec.encode (r : FaultRec) (time : Nat) : Nat :=
  r.pc.toNat + r.va.toNat * 2 ^ 64 + r.lanes.toNat * 2 ^ 128 + r.pcm.toNat * 2 ^ 192 + r.cause % 256 * 2 ^ 256 +
    r.unit % 16 * 2 ^ 264 + r.acc % 16 * 2 ^ 268 + r.ctxid.toNat * 2 ^ 272 + r.wtag.toNat * 2 ^ 288 +
    r.phys % 256 * 2 ^ 320 + r.core % 256 * 2 ^ 328 + r.epoch.toNat * 2 ^ 336 + r.aux.toNat * 2 ^ 352 +
    r.wslot % 128 * 2 ^ 400 + r.frag % 8 * 2 ^ 408 + r.rowp % 128 * 2 ^ 411 + r.flags.toNat * 2 ^ 418 +
    time % 2 ^ 64 * 2 ^ 448

/-- The fields of a context's fault record queue (R64, R84). -/
structure FaultQueue where
  base : Nat
  cap  : Nat
  head : Nat
  tail : Nat
  deriving DecidableEq, Repr

def State.faultQueue (s : State) (i : Nat) : FaultQueue := ⟨s.desc i 255 192, s.desc i 191 176, s.desc i 127 96, s.desc i 159 128⟩
/-- Records posted and not acknowledged. -/
def FaultQueue.fill (q : FaultQueue) : Nat := (q.tail + 2 ^ 32 - q.head) % 2 ^ 32
/-- May records be posted in the queue (R84)? -/
def FaultQueue.usable (q : FaultQueue) : Bool :=
  [16, 32, 64, 128, 256, 512, 1024, 2048, 4096, 8192, 16384, 32768].contains q.cap && q.base % 4096 == 0

/-- The event of an uncorrectable register word that a fault met (R238, R425). -/
def registerEvent (s : State) (r : FaultRec) : State :=
  if r.cause = 0x15 then
    let unit := match mapRegion (r.va.toNat % 2 ^ 24) with
      | .vector => 1
      | .cells => 4
      | _ => 0
    s.bbEvent 6 r.phys r.ctxid.toNat (unit + 256 * r.va.toNat)
  else s

/-- A record becomes an event of the black box (R84, R392). -/
def eventRecord (s : State) (r : FaultRec) : State := s.bbEvent 1 r.phys r.ctxid.toNat (r.encode 0)

/-- A record written into its context's queue, then frqtail, with the interrupt when frqtail moves away from frqhead
(R84), stored from the tower of the core that met the fault, so that what its warp did before comes before them (R401); none
while a line of either must wait (R166). -/
def enqueueRecord (s : State) (r : FaultRec) (q : FaultQueue) : Option State :=
  let pos := q.base + 64 * (q.tail % q.cap)
  if s.storeHeld pos 64 || s.storeHeld (s.descAddr r.cslot + 16) 4 then none
  else
    let t := towerOf r.phys
    let s := s.devStore .queue t (some false) pos (leBytes 64 (r.encode s.pkg.gtime))
    let s := s.devStore .queue t (some false) (s.descAddr r.cslot + 16) (leBytes 4 ((q.tail + 1) % 2 ^ 32))
    some (if q.fill = 0 then { s with pkg := { s.pkg with irq := setInsert r.cslot s.pkg.irq } } else s)

/-- A record posted: none while its queue is full. The descriptor's fields are read here, at the posting, also for a record that
arose before a store changed them (DESIGN CHOICE, log 92). R84 counts a queue full when its fill equals frqcap; where software has
lowered frqcap below the fill the model counts it full as well (DESIGN CHOICE, log 86). The behaviour of a queue whose
frqhead or frqtail was stored by other means is not defined: the record is posted, kept or lost (R84). -/
def postRecord (s : State) (r : FaultRec) : Option State :=
  if s.ctxSup r.cslot then
    let s := eventRecord (registerEvent s r) r
    some { s with pkg := { s.pkg with supIrq := true } }
  else
    let q := s.faultQueue r.cslot
    if !q.usable then
      let s := eventRecord (registerEvent s r) r
      some { s with pkg := { s.pkg with irq := setInsert r.cslot s.pkg.irq } }
    else if (s.ctx r.cslot).damaged then
      match choose s.tick 6000 3 with
      | 0 => enqueueRecord (registerEvent s r) r { q with tail := choose s.tick 6001 (2 ^ 32) }
      | 1 => none
      | _ => some (registerEvent s r)
    else if q.cap ≤ q.fill then none
    else enqueueRecord (registerEvent s r) r q

/-- FAULT_RECORD_POST (R84, R389, R392): a record that a core holds, after the earlier ones of its warp, once the descriptor
table need not be waited for (R166) and the fragment's map loads have read. -/
def execFaultRecordPost (core idx : Nat) (s : State) : Host.Outcome State Fault Refusal :=
  match (s.core core).records[idx]? with
  | none => .next s
  | some r =>
    let earlier := ((s.core core).records.take idx).any fun x => x.wtag == r.wtag && x.ctxid == r.ctxid
    if !s.pkg.powered || earlier || s.tableHeld then .next s
    else match postRecord (settleLoads s ⟨core, r.wslot, r.frag⟩) r with
    | none => .next s
    | some s => .next (s.modCore core fun k => { k with records := dropAt idx k.records })

/-- FRQACK (R395). -/
def execFrqack (f : Fields) (s : State) : Host.Outcome State Fault Refusal :=
  issue (.frqack f) f .lanes (fun e s =>
    let i := (e.s e.opa 1).toNat
    let n := (e.s e.opb 2).toNat
    if 64 ≤ i then .trap s [regTrap e 0xF5]
    else if !s.ctxValid i then .trap s [targetTrap e 0xF5]
    else
      let q := s.faultQueue i
      if q.fill < n then .trap s [regTrap e 0xF5]
      else if s.storeHeld (s.descAddr i + 12) 4 then .park s (.other 166)
      else e.guardS s 0xF5 [e.dst] fun _ =>
        let s := s.devStore .queue (towerOf e.ref.core) (some false) (s.descAddr i + 12) (leBytes 4 ((q.head + n) % 2 ^ 32))
        .done (e.setS s e.dst (BitVec.ofNat 64 (q.fill - n)))) s

/-! ### SYSC (R253, R401) -/

/-- SYSC (R253, R399): the caller's accesses come before the kernel's (R401). -/
def execSysc (f : Fields) (s : State) : Host.Outcome State Fault Refusal :=
  issue (.sysc f) f .flow (fun e s =>
    if e.active = 0 then .done s
    else match settleWarp s e.ref.core e.ref.slot true with
    | none => e.parkPends s
    | some s => .trap (s.flow e.w.allBefore (.calls e.w.ctxid)) [{ cause := 0x12, aux := f.imm, lanes := e.active, unit := unitOf 0x0E }]) s

/-! ### WRESUME (R396) -/

/-- The PCs of a warp's held operations (R296, R335). -/
def Warp.heldPCs (w : Warp) : List W64 :=
  (if w.m.held then (w.m.queue.head?.map fun o => o.pc).toList else []) ++ w.trv.filterMap fun o => match o.phase with
    | .held _ => some o.pc
    | _ => none

/-- Is a record of a warp still held in its core? -/
def recordHeld (s : State) (core : Nat) (w : Warp) (p : FaultRec → Bool) : Bool :=
  (s.core core).records.any fun r => r.wtag == w.tag && r.ctxid == w.ctxid && p r

/-- Every held operation of a warp restarts, and the fragments that their stops stopped are ready, or parked as they were
(R296, R335, R396). Where a matrix operation was held they issue again once the queue has run (R296: `resumed`). -/
def restartHeld (t : Nat) (w : Warp) : Warp :=
  { w with
    m := { w.m with held := false, resumed := w.m.resumed || w.m.held }
    trv := w.trv.map fun o => match o.phase with
      | .held true => { o with phase := .load, stack := none, got := [] }
      | .held false => { o with phase := .rewrite, put := 0 }
      | _ => o
    frags := w.frags.map fun fr => match fr.byHeld with
      | some st => { fr with st := st, byHeld := none, cause := 0, run := [], since := t, aged := false }
      | none => fr }

/-- A stopped fragment becomes ready at a PC (R396, R31). `checked` is whether R346 is to check its entry again. -/
def resumeFrag (t : Nat) (pc : W64) (checked : Bool) (fr : Frag) : Frag :=
  { fr with st := .ready, pc := pc, wait := none, run := [], cause := 0, since := t, aged := false, pri := fr.basePri,
            entering := fr.entering && checked }

/-- A live warp that a target names (R391, R394): the core whose records concern it, its slot where it is resident, and the
warp; an evicted one is in an image. -/
def targetWarp (s : State) (ctxid : BitVec 16) (tag : W32) : Option (Nat × Option Nat × Warp) :=
  match s.findWarp ctxid tag with
  | some (core, slot, w) => some (core, some slot, w)
  | none => s.images.findSome? fun i =>
      (i.warps.find? fun x => x.2.ctxid == ctxid && x.2.tag == tag).map fun x => (i.core, none, x.2)

/-- A live warp changed, in its slot or in its image. -/
def modTarget (s : State) (core : Nat) (slot : Option Nat) (w : Warp) (f : Warp → Warp) : State :=
  match slot with
  | some slot => s.modWarp core slot f
  | none =>
    { s with images := s.images.map fun (i : Image) =>
        { i with warps := i.warps.map fun (x : Nat × Warp) => if x.2.ctxid = w.ctxid ∧ x.2.tag = w.tag then (x.1, f x.2) else x } }

/-- The accesses of a live warp from here on follow a logical time: that of its tower, or that of its image (R409). -/
def followAt (s : State) (slot : Option Nat) (core : Nat) (w : Warp) (time : Nat) : State :=
  match slot with
  | some _ => s.raisePts (towerOf core) time
  | none =>
    { s with images := s.images.map fun (i : Image) =>
        if i.warps.any fun x => x.2.ctxid == w.ctxid && x.2.tag == w.tag then { i with time := max i.time time } else i }

/-- Does a warp hold a stopped fragment, or a held operation, that only the resident kernel resumes or ends, by its MMIO path:
one of a supervisor warp (R392)? WRESUME and WKILL refuse it with 0x02, as a target that is not suitable (log 87). -/
def kernelOnly (s : State) (w : Warp) : Bool := s.ctxSup w.cslot && (w.stopped || !w.heldPCs.isEmpty)

/-- WRESUME (R396). Every check comes before every effect (R41). What the issuing warp has on its way, but for its map stores,
is performed before the resumed fragment goes on, whose accesses follow the issuing tower's logical time (R409, R162). -/
def execWresume (f : Fields) (s : State) : Host.Outcome State Fault Refusal :=
  issue (.wresume f) f .lanes (fun e s =>
    let x := e.s e.opa 1
    let pcForm := bitAt (mv f) 0
    let hwmForm := bitAt (mv f) 1
    let nextForm := bitAt (mv f) 2
    if 2 ^ 51 ≤ x.toNat then .trap s [regTrap e 0xF2]
    else match targetWarp s (targetCtx x) (targetTag x) with
    | none => .trap s [targetTrap e 0xF2]
    | some (core, slot, w) =>
      let entry := bits x.toNat 50 48
      let held := w.heldPCs
      let fr := w.frag entry
      let unfit := if held.isEmpty then fr.st != .stopped || recordHeld s core w fun r => r.frag == entry
        else recordHeld s core w fun r => held.contains r.pc && (r.unit == 4 || r.unit == 5)
      let hwm := e.s e.opc 3
      let pc := e.s e.opb 2
      let g2 := (w.r.g[2]?).getD ({} : Seg)
      if unfit || kernelOnly s w then .trap s [targetTrap e 0xF2]
      else if (hwmForm && (hwm.toNat % 256 != 0 || decide (2 ^ 56 < g2.base.toNat + hwm.toNat * w.width))) ||
          (!held.isEmpty && (pcForm || nextForm)) || (held.isEmpty && pcForm && !pcValid pc) then .trap s [regTrap e 0xF2]
      else match settleWarp s e.ref.core e.ref.slot false with
      | none => e.parkPends s
      | some s =>
        let s := e.publish s (.warp w.ctxid w.tag)
        .done (modTarget (followAt s slot core w (s.tower (towerOf e.ref.core)).pts) core slot w fun w =>
          let w := { w with r := { w.r with hwm := if hwmForm then hwm else w.r.hwm } }
          if held.isEmpty then
            let pc := if pcForm then pc else if nextForm then nextPC fr.pc else fr.pc
            w.modFrag entry (resumeFrag s.tick pc (!pcForm && !nextForm))
          else restartHeld s.tick w)) s

/-! ### WKILL (R397) -/

/-- WKILL (R397). -/
def execWkill (f : Fields) (s : State) : Host.Outcome State Fault Refusal :=
  issue (.wkill f) f .lanes (fun e s =>
    let x := e.s e.opa 1
    if 2 ^ 48 ≤ x.toNat then .trap s [regTrap e 0xF3]
    else match targetGroup s (targetCtx x) (targetTag x) with
    | none => .trap s [targetTrap e 0xF3]
    | some g =>
      if g.id = e.w.wg then .trap s [regTrap e 0xF3]
      else if (s.members g.id).any fun y => kernelOnly s y.2.2 then .trap s [targetTrap e 0xF3]
      else .done (killGroup s g)) s

/-- Every workgroup of a context killed, and its tasks, held pushes, consumer batches, watches and bindings discarded
(R397, R381). -/
def killContext (s : State) (cslot : Nat) : State :=
  let s := (s.groups.filter fun g => g.cslot == cslot).foldl (fun s g => killGroup s g) s
  { s.modCtx cslot (fun c => { c with tasks := [], batches := [], pushes := [], ended := [] }) with
    watches := s.watches.filter fun w => w.cslot != cslot, binds := s.binds.filter fun b => b.cslot != cslot }

/-- WKILL.ctx (R397). -/
def execWkillCtx (f : Fields) (s : State) : Host.Outcome State Fault Refusal :=
  issue (.wkillCtx f) f .lanes (fun e s =>
    let x := (e.s e.opa 1).toNat
    let id := bits x 47 32
    if x ≠ id * 2 ^ 32 then .trap s [regTrap e 0xF3]
    else match s.ctxSlot id with
    | none => .trap s [targetTrap e 0xF3]
    | some c =>
      if id = e.w.ctxid.toNat then .trap s [regTrap e 0xF3]
      else if s.warps.any fun y => y.2.2.cslot == c && kernelOnly s y.2.2 then .trap s [targetTrap e 0xF3]
      else .done (killContext s c)) s

/-! ### HALTC (R406) -/

/-- A context halted or released (R406). -/
def haltContext (e : Env) (s : State) (halted : Bool) : Res :=
  let id := (e.s e.opa 1).toNat
  if 2 ^ 16 ≤ id then .trap s [regTrap e 0xF9]
  else match s.ctxSlot id with
  | none => .trap s [targetTrap e 0xF9]
  | some c => .done (s.modCtx c fun x => { x with halted := halted })

/-- HALTC (R406). -/
def execHaltc (f : Fields) (s : State) : Host.Outcome State Fault Refusal :=
  issue (.haltc f) f .lanes (fun e s => haltContext e s true) s

/-- HALTC.go (R406). -/
def execHaltcGo (f : Fields) (s : State) : Host.Outcome State Fault Refusal :=
  issue (.haltcGo f) f .lanes (fun e s => haltContext e s false) s

/-! ### SEGLD (R78) -/

/-- The segment register that SEGLD writes from its operands, for a warp of a width; none where R78 refuses it. -/
def segldValue (e : Env) (width : Nat) : Option Seg :=
  let lo := (e.s e.opb 2).toNat
  let g := blockSeg lo (e.s e.opa 1).toNat
  if bits lo 15 12 ≠ 0 || bits lo 7 2 ≠ 0 || !segBound (e.dst % 8) width g then none else some g

/-- A segment register of a warp replaced. -/
def putSeg (s : State) (core slot n : Nat) (g : Seg) : State :=
  s.modWarp core slot fun w => { w with r := { w.r with g := modAt (fun _ => g) n w.r.g } }

/-- SEGLD (R78). -/
def execSegld (f : Fields) (s : State) : Host.Outcome State Fault Refusal :=
  issue (.segld f) f .lanes (fun e s =>
    match segldValue e e.width with
    | none => .trap s [regTrap e 0xF0]
    | some g => .done (putSeg s e.ref.core e.ref.slot (e.dst % 8) g)) s

/-- SEGLD.w (R78). -/
def execSegldW (f : Fields) (s : State) : Host.Outcome State Fault Refusal :=
  issue (.segldW f) f .lanes (fun e s =>
    let slot := (e.s e.opc 3).toNat
    if 128 ≤ slot || (segldValue e 1).isNone then .trap s [regTrap e 0xF0]
    else match s.warp e.ref.core slot with
    | none => .trap s [targetTrap e 0xF0]
    | some w =>
      if !w.stopped then .trap s [targetTrap e 0xF0]
      else match segldValue e w.width with
      | none => .trap s [regTrap e 0xF0]
      | some g => .done (putSeg s e.ref.core slot (e.dst % 8) g)) s

/-! ### TLBINV (R73) -/

/-- What a TLBINV discards, by an entry's context and the range of virtual addresses that it covers (R73). -/
inductive Discard where
  | all
  | ctx (id : BitVec 16)
  | range (id : BitVec 16) (va n : Nat)
  deriving DecidableEq, Repr

/-- Is an entry of a context that covers the `n` bytes from `va` discarded? -/
def Discard.takes (d : Discard) (ctxid : BitVec 16) (va n : Nat) : Bool :=
  match d with
  | .all => true
  | .ctx id => ctxid == id
  | .range id a m => ctxid == id && m != 0 && meets va n a m

/-- Does a translation entry cover an address of a context? -/
def TlbEntry.covers (x : TlbEntry) (ctxid : BitVec 16) (va : Nat) : Bool :=
  x.ctxid == ctxid && x.index == va / 2 ^ levelShift x.level

/-- The translation entries that are discarded. -/
def Discard.gone (d : Discard) (s : State) : List TlbEntry :=
  s.tlb.filter fun x => d.takes x.ctxid (x.index * 2 ^ levelShift x.level) (2 ^ levelShift x.level)

/-- Does a warp's pending store use an entry that is discarded? -/
def usesGone (gone : List TlbEntry) (w : Warp) : Bool :=
  w.stnt.any fun st => st.any fun p => gone.any fun x => x.covers w.ctxid p.va.toNat

/-- The pending stores of a warp are performed where one of them used a discarded entry (R73, R223); none while a line is
held. The warp's other pending stores go with it (log 88). -/
def performUsed (gone : List TlbEntry) (s : State) (core slot : Nat) : Option State :=
  match s.warp core slot with
  | none => some s
  | some w => if usesGone gone w then drainStores s core slot else some s

/-- The caches without the entries that are discarded: translations, and what field caches hold of the pages (R134). -/
def Discard.drop (d : Discard) (s : State) : State :=
  let gone := d.gone s
  { s with tlb := s.tlb.filter fun x => !gone.contains x,
           fields := s.fields.filter fun x =>
             !(d.takes x.ctxid (x.va / 65536 * 65536) 65536 || gone.any fun y => y.covers x.ctxid x.va) }

/-- Entries discarded, and the wait for what used them: stores that translated through them are performed (R73). -/
def invalidate (s : State) (d : Discard) : Res :=
  match s.warps.foldl (fun (a : Option State) x => a.bind fun s' => performUsed (d.gone s) s' x.1 x.2.1) (some (d.drop s)) with
  | some s => .done s
  | none => .park s (.other 73)

/-- TLBINV.all (R73). -/
def execTlbinvAll (f : Fields) (s : State) : Host.Outcome State Fault Refusal :=
  issue (.tlbinvAll f) f .lanes (fun _ s => invalidate s .all) s

/-- The context of a TLBINV, or its fault; a context that is not live has no entry to discard (R73). -/
def tlbinvCtxOf (e : Env) (s : State) (k : BitVec 16 → Res) : Res :=
  let id := (e.s e.opa 1).toNat
  if 2 ^ 16 ≤ id then .trap s [regTrap e 0xF1] else k (BitVec.ofNat 16 id)

/-- The entries of a context discarded, where it is live (R73). -/
def invalidateCtx (s : State) (id : BitVec 16) (d : Discard) : Res :=
  if (s.ctxSlot id.toNat).isSome then invalidate s d else .done s

/-- TLBINV.ctx (R73). -/
def execTlbinvCtx (f : Fields) (s : State) : Host.Outcome State Fault Refusal :=
  issue (.tlbinvCtx f) f .lanes (fun e s => tlbinvCtxOf e s fun id => invalidateCtx s id (.ctx id)) s

/-- TLBINV.page (R73). -/
def execTlbinvPage (f : Fields) (s : State) : Host.Outcome State Fault Refusal :=
  issue (.tlbinvPage f) f .lanes (fun e s =>
    tlbinvCtxOf e s fun id =>
      let va := (e.s e.opb 2).toNat
      if 2 ^ 56 ≤ va then .trap s [regTrap e 0xF1] else invalidateCtx s id (.range id va 1)) s

/-- TLBINV.range (R73). -/
def execTlbinvRange (f : Fields) (s : State) : Host.Outcome State Fault Refusal :=
  issue (.tlbinvRange f) f .lanes (fun e s =>
    tlbinvCtxOf e s fun id =>
      let va := (e.s e.opb 2).toNat
      let n := (e.s e.opc 3).toNat
      if 2 ^ 56 ≤ va ∨ 2 ^ 56 < va + n then .trap s [regTrap e 0xF1] else invalidateCtx s id (.range id va n)) s

/-! ### Aging (R370) -/

/-- A fragment of a warp that is ready (R369), its next line present, and has been since the previous multiple of 1,024 cycles
gains one, up to 4. -/
def ageFrag (s : State) (core slot : Nat) (w : Warp) (fr : Frag) : Frag :=
  if fr.st != .ready then fr
  else if !hasLine s core slot w fr then { fr with aged := false }
  else if fr.aged then { fr with pri := max fr.pri (min 4 (fr.pri + 1)) } else { fr with aged := true }

/-- A core whose fragments have aged. -/
def ageCore (s : State) (core : Nat) (k : Core) : Core :=
  { k with slots := (k.slots.zip (List.range k.slots.length)).map fun (x : Option Warp × Nat) =>
      x.1.map fun w => { w with frags := w.frags.map (ageFrag s core x.2 w) } }

/-- PRIORITY_AGING (R370): once at each multiple of 1,024 that a tower's CLOCK reaches, before anything of it issues. -/
def execPriorityAging (tower : Nat) (s : State) : Host.Outcome State Fault Refusal :=
  let t := s.tower tower
  if s.pkg.powered && decide (tower < 2) && t.agingDue then
    let s := s.modTower tower fun t => { t with aging := t.aging + 1 }
    .next { s with cores := (s.cores.zip (List.range 256)).map fun x => if towerOf x.2 = tower then ageCore s x.2 x.1 else x.1 }
  else .next s

end Sys2Proof.Machine
end

