-- ==== Sys2Proof/Machine/ScalarAlu.lean ====
section
/-!
DEFINITION. The scalar integer instructions (spec/11 R256 to R258).
-/
namespace Sys2Proof.Machine

/-- Is .sat set (R256, R259)? -/
def satOf (f : Fields) : Bool := bitAt (qv f) 0

/-- A scalar function of operands A and B on their low w bits, its result extended (R256). -/
def scalar2 (g : Nat → Bool → Nat → Nat → Nat × Nat) (e : Env) : W64 × Nat :=
  let w := wide e.f
  let sg := isSigned e.f
  let (x, fl) := g w sg ((e.s e.opa 1).toNat % 2 ^ w) (e.sb.toNat % 2 ^ w)
  (extend64 w sg x, fl)

/-- SADD (R257). -/
def execSadd (f : Fields) (s : State) : Host.Outcome State Fault Refusal :=
  issue (.sadd f) f .lanes (scalarRes 0x20 (scalar2 (fun w sg a b => (intAdd w sg (satOf f) a b, 0)))) s

/-- SSUB (R257). -/
def execSsub (f : Fields) (s : State) : Host.Outcome State Fault Refusal :=
  issue (.ssub f) f .lanes (scalarRes 0x21 (scalar2 (fun w sg a b => (intSub w sg (satOf f) a b, 0)))) s

/-- SMUL (R257). -/
def execSmul (f : Fields) (s : State) : Host.Outcome State Fault Refusal :=
  issue (.smul f) f .lanes (scalarRes 0x22 (scalar2 (fun w sg a b => (intMul w sg (satOf f) a b, 0)))) s

/-- SMULH (R257). -/
def execSmulh (f : Fields) (s : State) : Host.Outcome State Fault Refusal :=
  issue (.smulh f) f .lanes (scalarRes 0x23 (scalar2 (fun w sg a b => (intMulh w sg a b, 0)))) s

/-- SDIV (R257, R258). -/
def execSdiv (f : Fields) (s : State) : Host.Outcome State Fault Refusal :=
  issue (.sdiv f) f .lanes (scalarRes 0x24 (scalar2 (fun w sg a b => intDiv w sg a b))) s

/-- SREM (R257, R258). -/
def execSrem (f : Fields) (s : State) : Host.Outcome State Fault Refusal :=
  issue (.srem f) f .lanes (scalarRes 0x25 (scalar2 (fun w sg a b => intRem w sg a b))) s

/-- SAND (R257). -/
def execSand (f : Fields) (s : State) : Host.Outcome State Fault Refusal :=
  issue (.sand f) f .lanes (scalarRes 0x26 (scalar2 (fun _ _ a b => (intAnd a b, 0)))) s

/-- SOR (R257). -/
def execSor (f : Fields) (s : State) : Host.Outcome State Fault Refusal :=
  issue (.sor f) f .lanes (scalarRes 0x27 (scalar2 (fun _ _ a b => (intOr a b, 0)))) s

/-- SXOR (R257). -/
def execSxor (f : Fields) (s : State) : Host.Outcome State Fault Refusal :=
  issue (.sxor f) f .lanes (scalarRes 0x28 (scalar2 (fun _ _ a b => (intXor a b, 0)))) s

/-- SSHL (R257). -/
def execSshl (f : Fields) (s : State) : Host.Outcome State Fault Refusal :=
  issue (.sshl f) f .lanes (scalarRes 0x29 (scalar2 (fun w _ a b => (intShl w a b, 0)))) s

/-- SSHR (R257). -/
def execSshr (f : Fields) (s : State) : Host.Outcome State Fault Refusal :=
  issue (.sshr f) f .lanes (scalarRes 0x2A (scalar2 (fun w _ a b => (intShr w a b, 0)))) s

/-- SSRA (R257). -/
def execSsra (f : Fields) (s : State) : Host.Outcome State Fault Refusal :=
  issue (.ssra f) f .lanes (scalarRes 0x2B (scalar2 (fun w _ a b => (intSra w a b, 0)))) s

/-- SMIN (R257). -/
def execSmin (f : Fields) (s : State) : Host.Outcome State Fault Refusal :=
  issue (.smin f) f .lanes (scalarRes 0x2C (scalar2 (fun w sg a b => (intMin w sg a b, 0)))) s

/-- SMAX (R257). -/
def execSmax (f : Fields) (s : State) : Host.Outcome State Fault Refusal :=
  issue (.smax f) f .lanes (scalarRes 0x2D (scalar2 (fun w sg a b => (intMax w sg a b, 0)))) s

/-- SCMP (R257). -/
def execScmp (f : Fields) (s : State) : Host.Outcome State Fault Refusal :=
  issue (.scmp f) f .lanes (scalarRes 0x2E (scalar2 (fun w sg a b => (b2n (intCmp (mv f) w sg a b), 0)))) s

/-- SSEL (R257): the choice is made over all 64 bits of operand C. -/
def execSsel (f : Fields) (s : State) : Host.Outcome State Fault Refusal :=
  issue (.ssel f) f .lanes (scalarRes 0x2F fun e =>
    scalar2 (fun _ _ a b => (if e.s e.opc 3 = 0 then b else a, 0)) e) s

/-- SMOV (R257). -/
def execSmov (f : Fields) (s : State) : Host.Outcome State Fault Refusal :=
  issue (.smov f) f .lanes (scalarRes 0x30 (scalar2 (fun _ _ a _ => (a, 0)))) s

/-- SLI (R257): the immediate extended by type, or the high half replaced. -/
def execSli (f : Fields) (s : State) : Host.Outcome State Fault Refusal :=
  issue (.sli f) f .lanes (scalarRes 0x31 fun e =>
    (if mv f = 1 then (f.imm ++ (e.s e.dst 4).extractLsb' 0 32 : BitVec 64)
     else if isSigned f then BitVec.ofInt 64 (simm f.imm) else f.imm.setWidth 64, 0)) s

/-- SLEA (R257). -/
def execSlea (f : Fields) (s : State) : Host.Outcome State Fault Refusal :=
  issue (.slea f) f .lanes (scalarRes 0x32 fun e =>
    (e.s e.opa 1 + (e.s e.opb 2 <<< (qv f % 4)) + BitVec.ofInt 64 (simm f.imm), 0)) s

/-- SCLZ (R257). -/
def execSclz (f : Fields) (s : State) : Host.Outcome State Fault Refusal :=
  issue (.sclz f) f .lanes (scalarRes 0x33 (scalar2 (fun w _ a _ => (intClz w a, 0)))) s

/-- SPOP (R257). -/
def execSpop (f : Fields) (s : State) : Host.Outcome State Fault Refusal :=
  issue (.spop f) f .lanes (scalarRes 0x34 (scalar2 (fun w _ a _ => (intPop w a, 0)))) s

/-- SBFE (R257). -/
def execSbfe (f : Fields) (s : State) : Host.Outcome State Fault Refusal :=
  issue (.sbfe f) f .lanes (scalarRes 0x35 (scalar2 (fun w sg a _ => (intBfe w sg (iv f % 256) (iv f / 256) a, 0)))) s

/-- SBFI (R257): the field of the destination's low w bits replaced, the result extended as R256 says (log 23). -/
def execSbfi (f : Fields) (s : State) : Host.Outcome State Fault Refusal :=
  issue (.sbfi f) f .lanes (scalarRes 0x36 fun e =>
    scalar2 (fun w _ a _ => (intBfi (iv f % 256) (iv f / 256) ((e.s e.dst 4).toNat % 2 ^ w) a, 0)) e) s

end Sys2Proof.Machine
end

