-- ==== Sys2Proof/Machine/VectorInt.lean ====
section
/-!
DEFINITION. The vector integer instructions (spec/11 R259 to R262).
-/
namespace Sys2Proof.Machine

/-- A function of operands A and B on each element of a lane's value (R259). -/
def vector2 (g : Nat → Bool → Nat → Nat → Nat) (e : Env) (L : Nat) : Nat × Nat :=
  let t := tv e.f
  (elementwise t (g (elemBits t) (isSigned e.f)) (e.a t L) (e.b t L), 0)

/-- A function of operand A alone on each element (R259). -/
def vector1 (g : Nat → Nat → Nat) (e : Env) (L : Nat) : Nat × Nat :=
  let t := tv e.f
  (elementwise t (fun a _ => g (elemBits t) a) (e.a t L) 0, 0)

/-- VADD (R260, R261). -/
def execVadd (f : Fields) (s : State) : Host.Outcome State Fault Refusal :=
  issue (.vadd f) f .lanes (perLane (wideType (tv f)) (vector2 (fun w sg a b => intAdd w sg (satOf f) a b))) s

/-- VSUB (R260, R261). -/
def execVsub (f : Fields) (s : State) : Host.Outcome State Fault Refusal :=
  issue (.vsub f) f .lanes (perLane (wideType (tv f)) (vector2 (fun w sg a b => intSub w sg (satOf f) a b))) s

/-- VMUL (R260, R261). -/
def execVmul (f : Fields) (s : State) : Host.Outcome State Fault Refusal :=
  issue (.vmul f) f .lanes (perLane (wideType (tv f)) (vector2 (fun w sg a b => intMul w sg (satOf f) a b))) s

/-- VMULH (R260). -/
def execVmulh (f : Fields) (s : State) : Host.Outcome State Fault Refusal :=
  issue (.vmulh f) f .lanes (perLane (wideType (tv f)) (vector2 (fun w sg a b => intMulh w sg a b))) s

/-- VMAD (R260). -/
def execVmad (f : Fields) (s : State) : Host.Outcome State Fault Refusal :=
  issue (.vmad f) f .lanes (perLane (wideType (tv f)) fun e L => (intMad (wide f) (e.a (tv f) L) (e.b (tv f) L) (e.c (tv f) L), 0)) s

/-- VAND (R260). -/
def execVand (f : Fields) (s : State) : Host.Outcome State Fault Refusal :=
  issue (.vand f) f .lanes (perLane (wideType (tv f)) (vector2 (fun _ _ a b => intAnd a b))) s

/-- VOR (R260). -/
def execVor (f : Fields) (s : State) : Host.Outcome State Fault Refusal :=
  issue (.vor f) f .lanes (perLane (wideType (tv f)) (vector2 (fun _ _ a b => intOr a b))) s

/-- VXOR (R260). -/
def execVxor (f : Fields) (s : State) : Host.Outcome State Fault Refusal :=
  issue (.vxor f) f .lanes (perLane (wideType (tv f)) (vector2 (fun _ _ a b => intXor a b))) s

/-- VNOT (R260). -/
def execVnot (f : Fields) (s : State) : Host.Outcome State Fault Refusal :=
  issue (.vnot f) f .lanes (perLane (wideType (tv f)) (vector1 (intNot))) s

/-- VSHL (R260). -/
def execVshl (f : Fields) (s : State) : Host.Outcome State Fault Refusal :=
  issue (.vshl f) f .lanes (perLane (wideType (tv f)) (vector2 (fun w _ a b => intShl w a b))) s

/-- VSHR (R260). -/
def execVshr (f : Fields) (s : State) : Host.Outcome State Fault Refusal :=
  issue (.vshr f) f .lanes (perLane (wideType (tv f)) (vector2 (fun w _ a b => intShr w a b))) s

/-- VSRA (R260). -/
def execVsra (f : Fields) (s : State) : Host.Outcome State Fault Refusal :=
  issue (.vsra f) f .lanes (perLane (wideType (tv f)) (vector2 (fun w _ a b => intSra w a b))) s

/-- VMIN (R260). -/
def execVmin (f : Fields) (s : State) : Host.Outcome State Fault Refusal :=
  issue (.vmin f) f .lanes (perLane (wideType (tv f)) (vector2 (fun w sg a b => intMin w sg a b))) s

/-- VMAX (R260). -/
def execVmax (f : Fields) (s : State) : Host.Outcome State Fault Refusal :=
  issue (.vmax f) f .lanes (perLane (wideType (tv f)) (vector2 (fun w sg a b => intMax w sg a b))) s

/-- VABS (R260). -/
def execVabs (f : Fields) (s : State) : Host.Outcome State Fault Refusal :=
  issue (.vabs f) f .lanes (perLane (wideType (tv f)) (vector1 (fun w a => intAbs w (satOf f) a))) s

/-- VNEG (R260). -/
def execVneg (f : Fields) (s : State) : Host.Outcome State Fault Refusal :=
  issue (.vneg f) f .lanes (perLane (wideType (tv f)) (vector1 (fun w a => intNeg w (satOf f) a))) s

/-- VCLZ (R260). -/
def execVclz (f : Fields) (s : State) : Host.Outcome State Fault Refusal :=
  issue (.vclz f) f .lanes (perLane (wideType (tv f)) (vector1 (intClz))) s

/-- VPOP (R260). -/
def execVpop (f : Fields) (s : State) : Host.Outcome State Fault Refusal :=
  issue (.vpop f) f .lanes (perLane (wideType (tv f)) (vector1 (intPop))) s

/-- VBREV (R260). -/
def execVbrev (f : Fields) (s : State) : Host.Outcome State Fault Refusal :=
  issue (.vbrev f) f .lanes (perLane (wideType (tv f)) (vector1 (intBrev))) s

/-- VBFE (R260). -/
def execVbfe (f : Fields) (s : State) : Host.Outcome State Fault Refusal :=
  issue (.vbfe f) f .lanes (perLane (wideType (tv f)) fun e L => (intBfe (wide f) (isSigned f) (iv f % 256) (iv f / 256) (e.a (tv f) L), 0)) s

/-- VBFI (R260). -/
def execVbfi (f : Fields) (s : State) : Host.Outcome State Fault Refusal :=
  issue (.vbfi f) f .lanes (perLane (wideType (tv f)) fun e L => (intBfi (iv f % 256) (iv f / 256) (e.d (tv f) L) (e.a (tv f) L), 0)) s

/-- VSAD (R260). -/
def execVsad (f : Fields) (s : State) : Host.Outcome State Fault Refusal :=
  issue (.vsad f) f .lanes (perLane false fun e L => (intSad (isSigned f) (e.a 14 L) (e.b 14 L) (e.c 14 L), 0)) s

/-- VDOT4 (R260, R261). -/
def execVdot4 (f : Fields) (s : State) : Host.Outcome State Fault Refusal :=
  issue (.vdot4 f) f .lanes (perLane false fun e L => (intDot4 (isSigned f) (satOf f) (e.a 14 L) (e.b 14 L) (e.c 14 L), 0)) s

/-- VCMP (R260). -/
def execVcmp (f : Fields) (s : State) : Host.Outcome State Fault Refusal :=
  issue (.vcmp f) f .lanes (maskLanes fun e L => (intCmp (mv f) (wide f) (isSigned f) (e.a (tv f) L) (e.b (tv f) L), 0)) s

/-- VSEL (R260). -/
def execVsel (f : Fields) (s : State) : Host.Outcome State Fault Refusal :=
  issue (.vsel f) f .lanes (perLane (wideType (tv f)) fun e L => (if (e.k e.opc 3).getLsbD L then e.a (tv f) L else e.b (tv f) L, 0)) s

/-- VMOV (R260). -/
def execVmov (f : Fields) (s : State) : Host.Outcome State Fault Refusal :=
  issue (.vmov f) f .lanes (perLane (wideType (tv f)) (vector1 (fun _ a => a))) s

/-- VLI (R260). -/
def execVli (f : Fields) (s : State) : Host.Outcome State Fault Refusal :=
  issue (.vli f) f .lanes (perLane false fun _ _ => (iv f, 0)) s

/-- VLANE (R260). -/
def execVlane (f : Fields) (s : State) : Host.Outcome State Fault Refusal :=
  issue (.vlane f) f .lanes (perLane false fun e L => (((e.s e.opa 1).toNat + L * iv f) % 2 ^ 32, 0)) s

/-- VCVT (R260, R262). -/
def execVcvt (f : Fields) (s : State) : Host.Outcome State Fault Refusal :=
  issue (.vcvt f) f .lanes (perLane (wideType (tv f)) fun e L => (intCvt (mv f % 8) (tv f) (satOf f) (e.a (mv f % 8) L), 0)) s

end Sys2Proof.Machine
end

