-- ==== Sys2Proof/Machine/CrossLane.lean ====
section
/-!
DEFINITION. The cross-lane instructions (spec/11 R278 to R282).
-/
namespace Sys2Proof.Machine

/-- The words of operand A in other lanes than Active's, which the prologue does not check; a scalar operand it has. -/
def Env.sourceWords (e : Env) (n : Nat) (wide : Bool) (lanes : List Nat) : List RegWord :=
  if e.f.ascl then [] else Opd.words (.vec (if wide then 2 else 1) 1) n e.ref.slot e.w.width lanes

/-- The fault of a source word in uncorrectable error (R238). -/
def Env.badSource (e : Env) (s : State) (major n : Nat) (wide : Bool) (lanes : List Nat) : Option Trap :=
  if (s.core e.ref.core).bad.isEmpty then none
  else ((e.sourceWords n wide lanes).find? fun x => (s.core e.ref.core).bad.contains x).map fun x =>
    { cause := 0x15, va := BitVec.ofNat 64 (wordOffset e.ref.core x), lanes := e.active, unit := unitOf major, acc := 1 }

/-- Source words with one bit in error corrected (R238). -/
def Env.correctSource (e : Env) (s : State) (n : Nat) (wide : Bool) (lanes : List Nat) : State :=
  correctWords s e.ref.core (e.sourceWords n wide lanes)

/-- A source value in any lane of the fragment. -/
def Env.src (e : Env) (wide : Bool) (j : Nat) : Nat := e.operand e.f.ascl e.opa 1 wide j

/-- The source lane of SHFL for a lane (R279), or none when it is outside the fragment. -/
def shflLane (e : Env) (minor L b : Nat) : Option Nat :=
  let w := e.w.width
  let j : Int := match minor with
    | 0 => (b % w : Nat)
    | 1 => (L : Int) - b
    | 2 => (L : Int) + b
    | _ => (L ^^^ (b % w) : Nat)
  if 0 ≤ j ∧ j < w ∧ e.exm.getLsbD j.toNat then some j.toNat else none

/-- SHFL (R279). -/
def execShfl (f : Fields) (s : State) : Host.Outcome State Fault Refusal :=
  issue (.shfl f) f .lanes (fun e s =>
    let wide := wideType (tv f)
    let srcs := e.lanes.map fun L => (L, (shflLane e (mv f) L (e.b 0 L)).getD L)
    match e.badSource s 0x88 e.opa wide (srcs.map fun x => x.2) with
    | some t => .trap s [t]
    | none =>
      let s := e.correctSource s e.opa wide (srcs.map fun x => x.2)
      .done (e.putLanes s wide e.dst (srcs.map fun x => (x.1, e.src wide x.2, 0)))) s

/-- BCAST (R279). -/
def execBcast (f : Fields) (s : State) : Host.Outcome State Fault Refusal :=
  issue (.bcast f) f .lanes (fun e s =>
    let wide := wideType (tv f)
    let j := e.b 0 (lowestLane e.active) % e.w.width
    let have_ := e.exm.getLsbD j
    match e.badSource s 0x89 e.opa wide (if have_ then [j] else []) with
    | some t => .trap s [t]
    | none =>
      let s := e.correctSource s e.opa wide (if have_ then [j] else [])
      .done (e.putLanes s wide e.dst (e.lanes.map fun L => (L, if have_ then e.src wide j else 0, 0)))) s

/-- The identity that a reduction starts from (R280), and one step of it with its flags. -/
def redStart (t : Nat) (sg : Bool) (minor : Nat) : Nat :=
  let w := elemBits t
  if t = 5 then (match minor with
    | 0 => 0x80000000
    | 1 => 0x7F800000
    | _ => 0xFF800000)
  else match minor with
    | 1 => if sg then 2 ^ (w - 1) - 1 else 2 ^ w - 1
    | 2 => if sg then 2 ^ (w - 1) else 0
    | 3 => 2 ^ w - 1
    | _ => 0
def redStep (t : Nat) (sg : Bool) (minor acc x : Nat) : Nat × Nat :=
  let w := elemBits t
  if t = 5 then (match minor with
    | 0 => roundTo fmtF32 0 false ((decodeVal fmtF32 acc).add false (decodeVal fmtF32 x))
    | 1 => fPick fmtF32 false acc x
    | _ => fPick fmtF32 true acc x)
  else (match minor with
    | 0 => (acc + x) % 2 ^ w
    | 1 => intMin w sg acc x
    | 2 => intMax w sg acc x
    | 3 => intAnd acc x
    | 4 => intOr acc x
    | _ => intXor acc x, 0)

/-- The running values over lanes in ascending order: each lane's value before and after its element. -/
def redRun (step : Nat → Nat → Nat × Nat) : Nat → List (Nat × Nat) → List (Nat × Nat × Nat × Nat)
  | _, [] => []
  | acc, (L, x) :: xs =>
    let (y, fl) := step acc x
    (L, acc, y, fl) :: redRun step y xs

/-- The running values of a reduction over Active. -/
def Env.reduction (e : Env) : List (Nat × Nat × Nat × Nat) :=
  let t := tv e.f
  let sg := isSigned e.f
  redRun (redStep t sg (mv e.f)) (redStart t sg (mv e.f)) (e.lanes.map fun L => (L, e.a t L))

/-- VRED (R280). -/
def execVred (f : Fields) (s : State) : Host.Outcome State Fault Refusal :=
  issue (.vred f) f .lanes (scalarRes 0x8A fun e =>
    let r := e.reduction
    (extend64 (wide f) (isSigned f) ((r.getLast?.map fun x => x.2.2.1).getD 0), orFlags (r.map fun x => x.2.2.2))) s

/-- VSCAN (R280). -/
def execVscan (f : Fields) (s : State) : Host.Outcome State Fault Refusal :=
  issue (.vscan f) f .lanes (fun e s =>
    .done (e.putLanes s (wideType (tv f)) e.dst
      (e.reduction.map fun x => (x.1, if bitAt (qv f) 0 then x.2.1 else x.2.2.1, x.2.2.2)))) s

/-- The effect that VCMPRS and VEXPND share (R281): the moves `to ← from`, the other lanes of exm, and the count. -/
def moveLanes (major : Nat) (moves : Env → List Nat → List Nat → List (Nat × Nat)) (e : Env) (s : State) : Res :=
  if e.exm = 0 then .done s
  else
    let wide := wideType (tv e.f)
    let ms := moves e (lanesOf e.exm) (lanesOf (e.active &&& e.k e.opb 2))
    let others := if bitAt (qv e.f) 0 then (lanesOf e.exm).filter fun L => !ms.any fun m => m.1 == L else []
    match e.badSource s major e.opa wide (if e.f.ascl then [] else ms.map fun m => m.2) with
    | some t => .trap s [t]
    | none => e.guardS s major [e.opc] fun _ =>
      let s := e.correctSource s e.opa wide (ms.map fun m => m.2)
      let s := e.putLanes s wide e.dst (ms.map (fun m => (m.1, e.src wide m.2, 0)) ++ others.map fun L => (L, 0, 0))
      .done (e.setS s e.opc (BitVec.ofNat 64 (laneCount (e.active &&& e.k e.opb 2))))

/-- VCMPRS (R281). -/
def execVcmprs (f : Fields) (s : State) : Host.Outcome State Fault Refusal :=
  issue (.vcmprs f) f .always (moveLanes 0x8C fun _ es ss => es.zip ss) s

/-- VEXPND (R281). -/
def execVexpnd (f : Fields) (s : State) : Host.Outcome State Fault Refusal :=
  issue (.vexpnd f) f .always (moveLanes 0x8D fun _ es ss => ss.zip es) s

/-- BALLOT (R282). -/
def execBallot (f : Fields) (s : State) : Host.Outcome State Fault Refusal :=
  issue (.ballot f) f .lanes (fun e s =>
    .done (e.setKBits s e.dst e.exm (maskOf (e.lanes.filter fun L => e.a (tv f) L != 0)))) s

/-- MATCH (R282). -/
def execMatchL (f : Fields) (s : State) : Host.Outcome State Fault Refusal :=
  issue (.matchL f) f .lanes (perLane (wideType (tv f)) fun e L =>
    ((e.lanes.find? fun j => e.a (tv f) j == e.a (tv f) L).getD L, 0)) s

end Sys2Proof.Machine
end

