-- ==== Sys2Proof/Machine/Split.lean ====
section
/-!
DEFINITION. Division and reconvergence of a warp (spec/17 R347 to R355): splits, arrivals, merges and ending lanes.
-/
namespace Sys2Proof.Machine

/-- The index of a free join record. -/
def Warp.freeJoin (w : Warp) : Option Nat := findIdxFrom Option.isNone 0 w.joins
/-- The index of a free split-table entry. -/
def Warp.freeEntry (w : Warp) : Option Nat := findIdxFrom (fun fr => fr.st == .free) 0 w.frags

/-- A group of lanes with its target. -/
abbrev Side := Mask × W64

/-- The groups in order of decreasing size, equal sizes by lowest lane (R349). -/
def orderSides (gs : List Side) : List Side := gs.foldl (fun out g => insertSide g out) []
where
  insertSide (g : Side) : List Side → List Side
    | [] => [g]
    | h :: hs =>
      if laneCount h.1 < laneCount g.1 || (laneCount h.1 == laneCount g.1 && decide (lowestLane g.1 < lowestLane h.1))
      then g :: h :: hs else h :: insertSide g hs

/-- A group of a split becomes a fragment of its own, or a deferred side when the split table is full (R349). -/
def placeSide (t : Nat) (fr : Frag) (j : Nat) (w : Warp) (g : Side) : Warp :=
  match w.freeEntry with
  | some i => w.modFrag i fun _ =>
      { st := .ready, pc := g.2, mem := g.1, exm := g.1, jr := some j, shadows := fr.shadows, pri := fr.basePri,
        basePri := fr.basePri, since := t }
  | none => w.setJoin j ((w.join j).map fun x => { x with deferred := x.deferred ++ [g] })

/-- Split(R349) of the fragment in an entry: `g0` keeps running in it, the others follow in their order; none when no
join record is free. -/
def splitWarp (t entry id : Nat) (g0 : Side) (others : List Side) (w : Warp) : Option Warp :=
  w.freeJoin.map fun j =>
    let fr := w.frag entry
    let rec_ : Join :=
      { id := id, parent := fr.jr, lanes := fr.mem, arr := 0, aexm := 0, deferred := [],
        set := fr.shadows.map fun x => ⟨x.reg, x.val, none, x.since⟩, conflict := false, inherited := fr.shadows,
        arrivals := [] }
    let w := (w.setJoin j (some rec_)).modFrag entry fun f =>
      { f with exm := g0.1, mem := g0.1 ||| (f.mem &&& ~~~fr.exm), pc := g0.2, jr := some j }
    (orderSides others).foldl (placeSide t fr j) w

/-- The split of the issuing fragment, then its jump to the target of its own group; fault 0x0D without a free join
record (R349). -/
def splitRes (e : Env) (s : State) (major id : Nat) (g0 : Side) (others : List Side) : Res :=
  match (s.warp e.ref.core e.ref.slot).bind (splitWarp e.t e.ref.entry id g0 others) with
  | some w => .jump (s.setWarp e.ref.core e.ref.slot (some w)) g0.2
  | none => .trap s [{ cause := 0x0D, lanes := e.active, unit := unitOf major }]

/-! ### Arrival and merging -/

/-- The registers of a fragment's shadows written since the split of a join record (R354). -/
def writtenSince (fr : Frag) (j : Nat) : List Shadow := fr.shadows.filter fun x => x.since.contains j

/-- The first register that an arrival would add to a full merge set (R355). -/
def foldRefused (x : Join) (fr : Frag) (j : Nat) : Option Nat :=
  let new := ((writtenSince fr j).map fun y => y.reg).filter fun r => !x.set.any fun m => m.reg == r
  new[4 - x.set.length]?

/-- One written shadow folded into the merge set by a fragment whose lowest lane is `a` (R354). -/
def foldShadow (a : Nat) (x : Join) (y : Shadow) : Join :=
  match x.set.find? fun m => m.reg == y.reg with
  | none => { x with set := x.set ++ [⟨y.reg, y.val, some a, y.since⟩] }
  | some m =>
    let put := fun (x : Join) => { x with set := x.set.map fun n =>
      if n.reg = y.reg then ⟨y.reg, y.val, some a, y.since⟩ else n }
    match m.writer with
    | none => put x
    | some a0 =>
      let x := if m.val ≠ y.val then { x with conflict := true } else x
      if a < a0 then put x else x

/-- The largest deferred side of a join record, ties by lowest lane (R350). -/
def Join.nextSide (x : Join) : Option Side := (orderSides x.deferred).head?

/-- The entry takes the next deferred side of the innermost record of a chain that holds one (R350). -/
def takeSide (t entry : Nat) (chain : List Nat) (w : Warp) : Option Warp :=
  match chain.find? fun j => (w.join j).any fun x => !x.deferred.isEmpty with
  | none => none
  | some d => (w.join d).bind fun x => x.nextSide.map fun g =>
      (w.setJoin d (some { x with deferred := x.deferred.filter (· != g) })).modFrag entry fun f =>
        { st := .ready, pc := g.2, mem := g.1, exm := g.1, jr := some d, shadows := x.inherited, pri := f.basePri,
          basePri := f.basePri, since := t }

/-- Is a join record nested in another, or that record itself? -/
def within (w : Warp) (outer j : Nat) : Bool := (joinChain w 32 (some j)).contains outer

/-- Have all live lanes of a join record arrived (R350)? -/
def Join.complete (x : Join) (ended : Mask) : Bool := x.arr &&& ~~~ended == x.lanes &&& ~~~ended

/-- The merged fragment's shadows inside an outer split, and the warp's registers after an outermost one (R354). -/
def mergeUniform (entry : Nat) (x : Join) (outer : List Nat) (w : Warp) : Warp :=
  match x.parent with
  | some _ => w.modFrag entry fun f =>
      { f with shadows := x.set.map fun m => ⟨m.reg, m.val, if m.writer.isSome then outer else m.since.filter outer.contains⟩ }
  | none =>
    { (w.modFrag entry fun f => { f with shadows := [] }) with
      r := { w.r with s := x.set.foldl (fun sp m => if m.writer.isSome then spSet 0 sp m.reg m.val else sp) w.r.s } }

/-- Merge(J) of R350, in the entry of the fragment whose arrival or end completed the record. -/
def mergeAt (t entry j : Nat) (x : Join) (w : Warp) : Warp :=
  let base := (w.frag entry).basePri
  let mem := x.arr &&& ~~~w.ended
  let pc := (x.arrivals.foldl (fun (b : Nat × W64) a => if a.1 < b.1 then a else b) (64, 0)).2
  let inner := (List.range 32).filter fun i => (w.join i).isSome && within w j i
  let gone := fun (i : Nat) (f : Frag) => i != entry && f.st == .arrived && f.jr.any fun q => inner.contains q
  let w := { w with frags := (List.range w.frags.length).map fun i => if gone i (w.frag i) then {} else w.frag i }
  let w := w.modFrag entry fun _ =>
    { st := .ready, pc := pc, mem := mem, exm := x.aexm &&& ~~~w.ended, jr := x.parent, pri := base, basePri := base,
      since := t }
  let w := inner.foldl (fun w i => w.setJoin i none) w
  let w := mergeUniform entry x (joinChain w 32 x.parent) w
  if x.conflict then { w with r := { w.r with flags := w.r.flags ||| 0x20 } } else w

/-- A fragment arrives at a join record of its chain (R350). -/
def arrive (t entry j : Nat) (w : Warp) : Warp :=
  match w.join j with
  | none => w
  | some x =>
    let fr := w.frag entry
    let a := lowestLane fr.mem
    let x := (writtenSince fr j).foldl (foldShadow a) x
    let x := { x with arr := x.arr ||| fr.mem, aexm := x.aexm ||| fr.exm, arrivals := x.arrivals ++ [(a, nextPC fr.pc)] }
    let w := w.setJoin j (some x)
    let chain := fragChain w fr
    let upto := chain.takeWhile (· != j) ++ [j]
    match takeSide t entry upto w with
    | some w => w
    | none =>
      if x.complete w.ended then mergeAt t entry j x w else w.modFrag entry fun f => { f with st := .arrived, run := [] }

/-- The records of a chain met by an ended fragment's entry, from the innermost outward (R350): one that the end completes is
merged, or freed when no lane of it lives; one that holds a deferred side gives it. A record completed inside one that holds
a side is merged first, in the entry, and the side is taken when the merged fragment arrives or ends (log 95). -/
def endChain (t entry : Nat) : List Nat → Warp → Warp
  | [], w => w.modFrag entry fun _ => {}
  | j :: js, w =>
    match w.join j with
    | none => endChain t entry js w
    | some x =>
      if x.complete w.ended then
        if x.arr &&& ~~~w.ended == 0 then endChain t entry js (w.setJoin j none) else mergeAt t entry j x w
      else match takeSide t entry [j] w with
      | some w => w
      | none => endChain t entry js w

/-- A fragment ends with all its lanes (R250, R350): it counts as arrived at every record of its chain. -/
def endFragment (t entry : Nat) (w : Warp) : Warp :=
  let fr := w.frag entry
  endChain t entry (fragChain w fr) { w with ended := w.ended ||| fr.mem }

/-- The lanes of a fragment that its EXIT ends (R250). -/
def exitLanes (t entry : Nat) (active : Mask) (w : Warp) : Warp :=
  { (w.modFrag entry fun f => afterIssue t true (nextPC f.pc) { f with mem := f.mem &&& ~~~active, exm := f.exm &&& ~~~active }) with
    ended := w.ended ||| active }

end Sys2Proof.Machine
end

