-- ==== Sys2Proof/Machine/Flow.lean ====
section
/-!
DEFINITION. The control instructions (spec/01 R37, spec/11 R245 to R253, spec/17 R350, spec/10 R234, spec/07 R176) but
for WAITC and SYSC, which stand with the work they wait for, and the fetch of a line.
-/
namespace Sys2Proof.Machine

/-- NOP (R37). -/
def execNop (f : Fields) (s : State) : Host.Outcome State Fault Refusal :=
  issue (.nop f) f .always (fun _ s => .done s) s

/-- BRA (R246). -/
def execBra (f : Fields) (s : State) : Host.Outcome State Fault Refusal :=
  issue (.bra f) f .flow (fun e s => if e.active = 0 then .done s else transfer s e (branchTarget e.fr.pc f.imm)) s

/-- Cond of BRS (R246), reading the register as s64. -/
def brsCond (minor : Nat) (x : W64) : Bool :=
  match minor with
  | 0 => x == 0
  | 1 => x != 0
  | 2 => x.getLsbD 63
  | _ => !x.getLsbD 63

/-- BRS (R246). -/
def execBrs (f : Fields) (s : State) : Host.Outcome State Fault Refusal :=
  issue (.brs f) f .flow (fun e s =>
    if e.active = 0 ∨ brsCond (mv f) (e.s e.opa) = false then .done s
    else transfer s e (branchTarget e.fr.pc f.imm)) s

/-- BRV (R247): the taken side keeps running when it is at least as large. -/
def execBrv (f : Fields) (s : State) : Host.Outcome State Fault Refusal :=
  issue (.brv f) f .flow (fun e s =>
    let target := branchTarget e.fr.pc f.imm
    let n := e.exm &&& ~~~e.active
    if e.active = 0 then .done s
    else match checkTarget s e target with
    | (s, some t) => t.res s
    | (s, none) =>
      if n = 0 then .jump s target
      else if laneCount e.active < laneCount n then
        splitRes e s 0x04 (mv f) (n, nextPC e.fr.pc) [(e.active, target)]
      else splitRes e s 0x04 (mv f) (e.active, target) [(n, nextPC e.fr.pc)]) s

/-- JMPX (R246). -/
def execJmpx (f : Fields) (s : State) : Host.Outcome State Fault Refusal :=
  issue (.jmpx f) f .flow (fun e s => if e.active = 0 then .done s else transfer s e (e.s e.opa)) s

/-- A checked transfer that also writes an s register (R246, R352). -/
def transferS (s : State) (e : Env) (major : Nat) (pc : W64) (n : Nat) (x : W64) : Res :=
  match checkTarget s e pc with
  | (s, some t) => t.res s
  | (s, none) => e.guardS s major [n] fun _ => .jump (e.setS s n x) pc

/-- CALL (R246). -/
def execCall (f : Fields) (s : State) : Host.Outcome State Fault Refusal :=
  issue (.call f) f .flow (fun e s =>
    if e.active = 0 then .done s
    else transferS s e 0x06 (branchTarget e.fr.pc f.imm) e.dst (nextPC e.fr.pc)) s

/-- RET (R246). -/
def execRet (f : Fields) (s : State) : Host.Outcome State Fault Refusal :=
  issue (.ret f) f .flow (fun e s => if e.active = 0 then .done s else transfer s e (e.s e.opa)) s

/-- LOOP (R246): the counter's write, with its check (R352), comes before the transfer's. -/
def execLoop (f : Fields) (s : State) : Host.Outcome State Fault Refusal :=
  issue (.loop f) f .flow (fun e s =>
    let c := e.s e.opa
    if e.active = 0 ∨ c = 0 then .done s
    else if c = 1 then e.guardS s 0x11 [e.opa] fun _ => .done (e.setS s e.opa 0)
    else e.guardS s 0x11 [e.opa] fun _ => transfer s e (branchTarget e.fr.pc f.imm) fun s => e.setS s e.opa (c - 1)) s

/-- The check of R28 of every distinct target, in ascending lane order (R248). -/
def checkTargets (s : State) (e : Env) : List W64 → State × Option TargetFail
  | [] => (s, none)
  | pc :: pcs =>
    match checkTarget s e pc with
    | (s, some t) => (s, some t)
    | (s, none) => checkTargets s e pcs

/-- The lanes of Active grouped by equal target, each group where its lowest lane stands (R248). -/
def groupTargets (ts : List (Nat × W64)) : List Side :=
  ts.foldl (fun (gs : List Side) t =>
    if gs.any fun g => g.2 == t.2 then gs.map fun g => if g.2 = t.2 then (g.1 ||| laneBit t.1, g.2) else g
    else gs ++ [(laneBit t.1, t.2)]) []

/-- CALLX (R248). CALLX is a flow instruction, so a record's lanes are Active (R390). -/
def execCallx (f : Fields) (s : State) : Host.Outcome State Fault Refusal :=
  issue (.callx f) f .flow (fun e s =>
    if e.active = 0 then .done s
    else
      let base := e.s e.opb
      let (s, outs) := accessLanes s e 0 8 .rd false
        (e.lanes.map fun L => (L, (base + 8 * (e.v e.opa L).setWidth 64).toNat))
      let outs := outs.map fun x => (x.1, withPoison s .rd x.2)
      let rd : Reader := .near e.ref.core
      if outs.any fun x => x.2 == .held then .park s (.other 166)
      else match accessTrap 0x07 0 8 .rd outs with
      | some t => .trap s [{ t with lanes := e.active, unit := unitOf 0x07 }]
      | none =>
        let parts := outs.map fun x => match x.2 with
          | .ok ps => (x.1, ps)
          | _ => (x.1, [])
        if parts.any fun x => x.2.any (Piece.held s rd false) then parkLines s rd false (parts.flatMap fun x => x.2)
        else
          let s := touchLoads s rd (parts.flatMap fun x => x.2)
          let ts := parts.map fun x => (x.1, BitVec.ofNat 64 (leNat (loadBytes s rd.tower e.w x.2)))
          match checkTargets s e ((groupTargets ts).map fun g => g.2) with
          | (s, some t) => t.res s
          | (s, none) => e.guardS s 0x07 [e.dst] fun _ =>
            let n := e.exm &&& ~~~e.active
            let gs := groupTargets ts
            let gs := if n = 0 then gs else gs ++ [(n, nextPC e.fr.pc)]
            match orderSides gs with
            | [] => .done s
            | [g] => .jump (e.setS s e.dst (nextPC e.fr.pc)) g.2
            | g :: rest =>
              match splitRes e (e.setS s e.dst (nextPC e.fr.pc)) 0x07 (mv f) g rest with
              | .trap _ ts => .trap s ts
              | r => r) s

/-- The warp of the issuing fragment replaced after an arrival or an end. A register that an outermost merge writes
is out of error (R238). -/
def placeWarp (e : Env) (s : State) (w : Warp) : State :=
  let regs := (e.w.joins.flatMap fun x => match x with
    | some x => (x.set.filter fun m => m.writer.isSome).map fun m => m.reg
    | none => []) ++ (e.fr.shadows.filter fun y => !y.since.isEmpty).map fun y => y.reg
  let s := s.setWarp e.ref.core e.ref.slot (some w)
  if w.divergent || !e.w.divergent then s
  else regs.foldl (fun s n => (s.clearBad e.ref.core (.sca e.ref.slot n 0)).clearBad e.ref.core (.sca e.ref.slot n 1)) s

/-- RCVG (R249, R350). -/
def execRcvg (f : Fields) (s : State) : Host.Outcome State Fault Refusal :=
  issue (.rcvg f) f .flow (fun e s =>
    match (fragChain e.w e.fr).find? fun j => (e.w.join j).any fun x => x.id == iv f with
    | none => .done s
    | some j =>
      match (e.w.join j).bind fun x => foldRefused x e.fr j with
      | some n => .trap s [{ cause := 0x0F, aux := BitVec.ofNat 32 n, lanes := e.active, unit := unitOf 0x09 }]
      | none => .moved (placeWarp e s (arrive e.t e.ref.entry j (e.w.modFrag e.ref.entry fun f => { f with wait := none })))) s

/-- EXIT (R250, R350). The EXIT that would end the warp's last lanes is a drain (R223, R224). -/
def execExit (f : Fields) (s : State) : Host.Outcome State Fault Refusal :=
  issue (.exit f) f .flow (fun e s =>
    if e.active = 0 then .done s
    else if e.active = e.exm then
      if e.w.ended ||| e.fr.mem = fullMask e.w.width then
        withDrain e s 0x0A fun s => match s.warp e.ref.core e.ref.slot with
          | some w => .moved (placeWarp e s (endFragment e.t e.ref.entry w))
          | none => .done s
      else .moved (placeWarp e s (endFragment e.t e.ref.entry e.w))
    else .moved (s.setWarp e.ref.core e.ref.slot (some (exitLanes e.t e.ref.entry e.active e.w)))) s

/-- YIELD (R251, R369): the fragment becomes ready anew. -/
def execYield (f : Fields) (s : State) : Host.Outcome State Fault Refusal :=
  issue (.yield f) f .flow (fun _ s => .done s) s

/-- TRAPF (R253): stops while an enabled flag is set. -/
def execTrapf (f : Fields) (s : State) : Host.Outcome State Fault Refusal :=
  issue (.trapf f) f .flow (fun e s =>
    let fl := bits e.w.r.flags.toNat 5 0 &&& bits e.w.r.flags.toNat 13 8
    if e.active = 0 ∨ fl = 0 then .done s
    else .trap s [{ cause := 0x11, aux := BitVec.ofNat 32 fl, lanes := e.active, unit := unitOf 0x0D }]) s

/-- BKPT (R253). -/
def execBkpt (f : Fields) (s : State) : Host.Outcome State Fault Refusal :=
  issue (.bkpt f) f .flow (fun e s =>
    if e.active = 0 then .done s
    else .trap s [{ cause := 0x13, aux := f.imm, lanes := e.active, unit := unitOf 0x0F }]) s

/-- The units that a core's warps hold (R233). -/
def Core.granted (k : Core) : Nat :=
  k.slots.foldl (fun n x => match x with
    | some w => n + w.r.xgrant * (w.width / 16)
    | none => n) 0

/-- Blocks 1 to n granted to a warp, every word zero (R234). -/
def grantBlocks (s : State) (core slot n : Nat) : State :=
  (s.modWarp core slot fun w =>
    { w with r := { w.r with xgrant := n, v := spClear (64 * 64) ((64 + 32 * n) * 64) w.r.v } }).modCore core fun k =>
    let keep := fun (x : RegWord) => match x with
      | .vec lane reg => !(decide (64 ≤ reg) && (k.slots.any fun y => y.any fun w => lane / w.width == slot))
      | _ => true
    { k with bad := k.bad.filter keep, weak := k.weak.filter keep }

/-- The request of a warp slot for n blocks served, when it is at the head of its core's grant queue and fits (R234). -/
def serveGrant (s : State) (core slot width n : Nat) : Option State :=
  let k := s.core core
  if (k.xqueue.head?.any fun x => x.1 == slot) && k.granted + n * (width / 16) ≤ k.xplim.toNat then
    some (grantBlocks (s.modCore core fun k => { k with xqueue := k.xqueue.drop 1 }) core slot n)
  else none

/-- A fragment that waits in XACQ goes on once its request is served: it has issued, and is neither fetched nor checked
again (R234). -/
def grantMove (r : FragRef) (w : Warp) (s : State) : State :=
  match (s.core r.core).xqueue.find? fun x => x.1 == r.slot with
  | none => s
  | some x => match serveGrant s r.core r.slot w.width x.2 with
    | none => s
    | some s => s.modFrag r (afterIssue s.tick true (nextPC (w.frag r.entry).pc))

/-- Does a fragment wait in XACQ? -/
def Frag.awaitsGrant (fr : Frag) : Bool := fr.st == .parked && fr.wait == some (.other 234)

/-- XACQ (R234). A fragment that waits holds its warp's request in the core's grant queue. -/
def execXacq (f : Fields) (s : State) : Host.Outcome State Fault Refusal :=
  issue (.xacq f) f .flow (fun e s =>
    let k := s.core e.ref.core
    let mine := e.fr.wait == some (.other 234) && k.xqueue.any fun x => x.1 == e.ref.slot
    if e.active = 0 then .done s
    else if !mine && (e.w.r.xgrant != 0 || k.xqueue.any fun x => x.1 == e.ref.slot) then
      .trap s [{ cause := 0x14, aux := BitVec.ofNat 32 e.w.r.xgrant, lanes := e.active, unit := unitOf 0x14 }]
    else
      let s := if mine then s else s.modCore e.ref.core fun k => { k with xqueue := k.xqueue ++ [(e.ref.slot, iv f)] }
      match serveGrant s e.ref.core e.ref.slot e.w.width (iv f) with
      | some s => .done s
      | none => .park s (.other 234)) s

/-- ISYNC (R176): what the fragment fetched ahead is discarded. -/
def execIsync (f : Fields) (s : State) : Host.Outcome State Fault Refusal :=
  issue (.isync f) f .flow (fun e s => .done (s.modFrag e.ref fun fr => { fr with ahead := [] })) s

/-- LINE_FETCH (R25, R408): a quarter brings a line into its instruction cache, or replaces the copy it holds. A line
that fails a check is not kept; the fault is taken when a fragment enters the line. -/
def execLineFetch (core quarter cslot va : Nat) (s : State) : Host.Outcome State Fault Refusal :=
  if s.pkg.powered && s.running core && quarter < 4 && s.ctxValid cslot && va % 64 == 0 then
    let ctxid := BitVec.ofNat 16 (s.ctxId cslot)
    match fetchInto s core quarter cslot ctxid va with
    | (s, .ok _) => .next s
    | (_, .wait) => .next s
    | (s, .bad _) => .next (s.modCore core fun k =>
        { k with icache := k.icache.filter fun x => !(x.quarter == quarter && x.ctxid == ctxid && x.va == va) })
  else .next s

end Sys2Proof.Machine
end

