-- ==== Sys2Proof/Machine/FullEmpty.lean ====
section
/-!
DEFINITION. LDFE, STFE and orphaned waits (spec/08 R181 to R186).
-/
namespace Sys2Proof.Machine

/-- The bytes of LDFE and STFE (R183). -/
def feSize (f : Fields) : Nat := 4 * 2 ^ (mv f / 2 % 4)

/-- The checks of the lanes of LDFE and STFE (R184), each with its scratchpad byte address. -/
def feLanes (e : Env) (s : State) (major : Nat) (acc : Acc) (k : State → List (Nat × Nat) → Res) : Res :=
  let size := feSize e.f
  let (s, outs) := checkLanes s e 1 size acc e.lanes
  match accessTrap major 1 size acc outs with
  | some t => .trap s [t]
  | none => k s ((okLanes outs).map fun x => (x.1, (x.2.head?.map fun p => p.addr).getD 0))

/-- Fault 0x0A of a wait (R182, R390): the lanes whose granules met R182. -/
def orphanTrap (e : Env) (gs : List (Nat × Nat)) : Trap :=
  { cause := 0x0A, va := BitVec.ofNat 64 ((gs.head?.map fun x => x.2 * 16 - (e.seg 1).base.toNat).getD 0), acc := 5,
    lanes := maskOf (gs.map fun x => x.1), unit := 3 }

/-- Is the command that filled a granule still performing its accesses? LDFE joins it (R202, R429): it ends only when they
have been performed. -/
def fillRunning (s : State) (k : Core) (g : Nat) : Bool :=
  (spGet none k.filled g).any fun id => (s.comb (id / 2 ^ 32)).chain.any fun c =>
    c.seq.toNat == id % 2 ^ 32 && c.run.any fun r => !r.done && r.failed.isNone

/-- LDFE (R185): the wait, then the read and the clearing in one step. It joins the commands that filled its granules
(R202). -/
def execLdfe (f : Fields) (s : State) : Host.Outcome State Fault Refusal :=
  issue (.ldfe f) f .lanes (fun e s =>
    feLanes e s 0x9B .rd fun s xs =>
      let k := s.core e.ref.core
      let gs := xs.map fun x => (x.1, x.2 / 16)
      let orphans := gs.filter fun x => !k.full.contains x.2 && k.orphan.contains x.2
      if !orphans.isEmpty then .trap s [orphanTrap e orphans]
      else if gs.all fun x => k.full.contains x.2 && !fillRunning s k x.2 then
        let s' := xs.foldl (fun s' x => e.putBytes s' e.dst x.1 (s.scrBytes e.ref.core x.2 (feSize f))) s
        .done (e.observe (if mv f % 2 = 1 then s'.modCore e.ref.core fun k => k.mark false (gs.map fun x => x.2) else s')
          (gs.filterMap fun x => (spGet none k.filled x.2).map Carrier.command))
      else
        let start := match e.fr.wait with
          | some (.fullEmpty t _) => t
          | _ => s.pkg.gtime
        .park s (.fullEmpty start gs)) s

/-- STFE (R186): bytes and full-empty bits in one step, lanes in ascending order; its granules are orphaned no longer
(R181). -/
def execStfe (f : Fields) (s : State) : Host.Outcome State Fault Refusal :=
  issue (.stfe f) f .lanes (fun e s =>
    feLanes e s 0x9C .wr fun s xs =>
      let fill := mv f % 2 = 0
      .done (xs.foldl (fun s x =>
        let s := if fill then s.scrWrite e.ref.core x.2 (e.regBytes e.dst (feSize f) x.1) else s
        s.modCore e.ref.core fun k => (k.mark fill [x.2 / 16]).written none [x.2 / 16]) s)) s

/-- The time without a producer after which a wait is orphaned (R182): 16 ms. -/
def orphanLimit : Nat := 16000000

/-- ORPHANED_WAIT_TIMEOUT (R182): a fragment parked at LDFE whose granule has had no registered producer for 16 ms. -/
def execOrphanedWaitTimeout (core slot entry : Nat) (s : State) : Host.Outcome State Fault Refusal :=
  match s.warp core slot with
  | none => .next s
  | some w =>
    let fr := w.frag entry
    match fr.wait with
    | some (.fullEmpty start gs) =>
      let k := s.core core
      let late := gs.filter fun x => !k.full.contains x.2 &&
        (k.orphan.contains x.2 || ((spGet none k.prod x.2).isNone &&
          decide (max start (spGet 0 k.regEnd x.2) + orphanLimit ≤ s.pkg.gtime)))
      if late.isEmpty || fr.st != .parked || !s.pkg.powered then .next s
      else
        let e := mkEnv s.tick ⟨core, slot, entry⟩ w fr (unpack 0)
        .next (takeTraps ⟨core, slot, entry⟩ s [orphanTrap e late])
    | _ => .next s

end Sys2Proof.Machine
end

