-- ==== Sys2Proof/Machine/Records.lean ====
section
/-!
DEFINITION. LDB and STB: accesses through buffer records (spec/04 R95 to R100, spec/09 R218, R219).
-/
namespace Sys2Proof.Machine

/-- What one lane's element is: zeros or nothing, its parts with those of its scale plane, a failure, a page not resident,
a poisoned line that .pz substitutes (R214), or a wait. `idx` is the element read. -/
inductive ElemOut where
  | skip
  | ok (idx : Nat) (plane : List Piece) (comps : List (List Piece))
  | bad (cause va : Nat)
  | absent (va : Nat)
  | poisoned
  | held
  deriving DecidableEq, Repr

/-- The bytes ranges of an element translated in order, its plane's first (R208 step 4); the first that fails decides. -/
def recordParts (e : Env) (rd : Reader) (r : BufRec) (acc : Acc) (fb : Bool) (L idx : Nat) (plane : List Piece) :
    State → List (Nat × Nat) → List (List Piece) → State × ElemOut
  | s, [], done => (s, .ok idx plane done)
  | s, (va, n) :: rest, done =>
    match translateParts s rd e.w L acc fb (if r.lcov then some r.lclass else none) none (splitPages va n) with
    | (s, .ok ps) => recordParts e rd r acc fb L idx plane s rest (done ++ [ps])
    | (s, .bad c a) => (s, .bad c a)
    | (s, .absent a) => (s, .absent a)
    | (s, .held) => (s, .held)

/-- An element whose parts are translated, with step 5 of R208 made: poison, which `pz` substitutes. -/
def elemPoison (s : State) (acc : Acc) (pz : Bool) (x : ElemOut) : ElemOut :=
  match x with
  | .ok _ plane comps => match withPoison s acc (.ok (plane ++ comps.flatten)) with
    | .bad 5 a => if pz then .poisoned else .bad 5 a
    | .bad c a => .bad c a
    | _ => x
  | _ => x

/-- One lane's element (R98, R218 step 4), of which the first `n` components are accessed. -/
def recordElem (e : Env) (s : State) (rd : Reader) (r : BufRec) (acc : Acc) (fb pz : Bool) (L i n : Nat) : State × ElemOut :=
  let go := fun (s : State) (idx : Nat) =>
    let comps := ((r.parts idx).take n).map fun p => (r.base + p.1, p.2)
    let plane := if acc.writes then none else r.plane idx
    let (s, x) := recordParts e rd r acc fb L idx [] s (plane.toList ++ comps) []
    let x := match x, plane with
      | .ok idx _ (pl :: cs), some _ => ElemOut.ok idx pl cs
      | x, _ => x
    (s, elemPoison s acc pz x)
  match r.elemAt i with
  | .at j => if acc.writes && !r.inBounds i then (s, .skip) else go s j
  | .zero => (s, .skip)
  | .fault => (s, .bad 3 (r.base + (((r.parts i).head?.map fun p => p.1).getD 0)))

/-- The elements of every listed lane. -/
def recordElems (e : Env) (r : BufRec) (acc : Acc) (fb pz : Bool) :
    State → List (Nat × Nat) → State × List (Nat × ElemOut)
  | s, [] => (s, [])
  | s, (L, i) :: rest =>
    let (s, x) := recordElem e s (.near e.ref.core) r acc fb pz L i r.chans
    let (s, xs) := recordElems e r acc fb pz s rest
    (s, (L, x) :: xs)

/-- The check of an element as that of a lane's access: one that is substituted, or needs no access, fails nothing. -/
def ElemOut.lane : ElemOut → LaneOut
  | .bad c va => .bad c va
  | .ok _ pl cs => .ok (pl ++ cs.flatten)
  | .held => .held
  | _ => .ok []

/-- Steps 2 to 4 of R218: the record, the limits that depend on it, and the elements of every lane. `k` receives the record's
parts and bits, since the record and the elements are read at one logical time (R219). -/
def withRecord (e : Env) (s : State) (major : Nat) (acc : Acc) (fb pz : Bool)
    (k : State → List Piece → Nat → List (Nat × ElemOut) → Res) : Res :=
  match scalarAccess s e major 7 (40 * iv e.f) 40 .rd with
  | (s, .bad t) => .trap s [t]
  | (s, .wait) => .park s (.other 166)
  | (s, .ok ps) =>
    if ps.any (Piece.held s (.near e.ref.core) false) then parkLines s (.near e.ref.core) false ps
    else
      let s := touchLoads s (.near e.ref.core) ps
      let x := leNat (loadBytes s (towerOf e.ref.core) e.w ps)
      let r := bufRec x
      let n := r.chans * r.regs
      let words := (List.range n).flatMap fun c => e.lanes.map fun L => RegWord.vec (e.ref.slot * e.width + L) (e.dst + c)
      if r.malformed acc.writes || decide (255 < e.dst + n - 1) || (r.regs = 2 && e.dst % 2 = 1) ||
          decide (64 + 32 * e.w.r.xgrant < e.dst + n) then .trap s [regTrap e major]
      else match (if acc.writes then words.find? fun x => (s.core e.ref.core).bad.contains x else none) with
      | some x => .trap s [{ cause := 0x15, va := BitVec.ofNat 64 (wordOffset e.ref.core x), lanes := e.active,
                             unit := 3, acc := 1 }]
      | none =>
        let (s, outs) := recordElems e r acc fb pz s (e.lanes.map fun L => (L, e.operand e.f.ascl e.opa 1 false L))
        onLanes e.ref.core major 15 (if r.block then 1 else r.es) acc s (outs.map fun x => (x.1, x.2.lane)) fun s _ =>
          k (if acc.writes then correctWords s e.ref.core words else s) ps x outs

/-- The parts of every element. -/
def elemPieces (outs : List (Nat × ElemOut)) : List Piece := outs.flatMap fun x => match x.2 with
  | .ok _ pl cs => pl ++ cs.flatten
  | _ => []

/-- LDB (R219, R214). A record that has changed by the time its elements are read is read anew. -/
def execLdb (f : Fields) (s : State) : Host.Outcome State Fault Refusal :=
  issue (.ldb f) f .lanes (fun e s =>
    let t := towerOf e.ref.core
    withRecord e s 0x92 .rd (bitAt (qv f) 0) (bitAt (mv f) 2) fun s ps x outs =>
      let r := bufRec x
      let s := touchLoads s (.near e.ref.core) (ps ++ elemPieces outs)
      if leNat (loadBytes s t e.w ps) ≠ x then .park s (.other 219)
      else
        let vals := outs.map fun x => (x.1, match x.2 with
          | .ok idx pl cs =>
            r.components idx (leNat (loadBytes s t e.w pl)) (cs.map fun ps => leNat (loadBytes s t e.w ps))
          | _ => List.replicate r.chans (0, 0))
        -- a page not resident is reported, a poisoned line is not (R214)
        let s := outs.foldl (fun s x => match x.2 with
          | .absent va => s.reportFeedback e.ref.core e.ref.slot va 0
          | _ => s) s
        let s := vals.foldl (fun s x => (List.range r.chans).foldl (fun s c =>
          e.put s (r.regs == 2) (e.dst + c * r.regs) x.1 ((x.2[c]?).getD (0, 0)).1) s) s
        let sub := maskOf (outs.filterMap fun x => match x.2 with
          | .absent _ => some x.1
          | .poisoned => some x.1
          | _ => none)
        let s := if ksOf f = 0 then s else e.setKBits s (ksOf f) e.active sub
        .done (e.raise s (orFlags (vals.flatMap fun x => x.2.map fun y => y.2)))) s

/-- STB (R219). With its elements claimed, the record is taken again at their time. -/
def execStb (f : Fields) (s : State) : Host.Outcome State Fault Refusal :=
  issue (.stb f) f .lanes (fun e s =>
    let t := towerOf e.ref.core
    withRecord e s 0x93 .wr false false fun s ps x outs =>
      let r := bufRec x
      let s := claimStores s e.ref.core e.ref.slot (elemPieces outs)
      let time := (s.tower t).pts
      let s := touchLoads s (.near e.ref.core) ps
      if (s.tower t).pts ≠ time ∨ leNat (loadBytes s t e.w ps) ≠ x then .park s (.other 219)
      else
        let conv := fun (L c : Nat) =>
          let n := e.dst + c * r.regs
          convertOut r (if r.regs = 2 then (e.v64 n L 4).toNat else (e.v n L 4).toNat)
        let (s, fl) := outs.foldl (fun (a : State × Nat) x => match x.2 with
          | .ok _ _ cs => (List.range cs.length).foldl (fun (a : State × Nat) c =>
              let (y, fl) := conv x.1 c
              (storeBytes a.1 e.ref.core e.ref.slot ((cs[c]?).getD []) (leBytes r.es y), a.2 ||| fl)) a
          | _ => a) (s, 0)
        .done (e.raise s fl)) s

end Sys2Proof.Machine
end

