-- ==== Sys2Proof/Machine/History.lean ====
section
/-!
DEFINITION. The chain table and history loads (spec/06 R126 to R149): FOPEN, FSEAL, FRET, HSTAT, FCOMP and HLD.
-/
namespace Sys2Proof.Machine

/-! ### Slots (R128, R129) -/

def slState (x : Nat) : Nat := bits x 1 0
def slGen (x : Nat) : Nat := bits x 63 48
def slPgen (x : Nat) : Nat := bits x 47 32
def slPred (x : Nat) : Nat := bits x 31 24
def slHp (x : Nat) : Bool := x.testBit 23
def slBrec (x : Nat) : Nat := bits x 15 4
def slFbase (x : Nat) : Nat := bits x 319 256
def slCell (x : Nat) : Nat := 2 ^ bits x 321 320
def slDim2 (x : Nat) : Bool := x.testBit 322
def slWid (x : Nat) : Nat := bits x 351 336
def slHgt (x : Nat) : Nat := bits x 367 352
def slNcov (x : Nat) : Nat := bits x 371 368
def slCov (x j : Nat) : Nat := bits x (455 + 8 * j) (448 + 8 * j)
/-- A shortcut link, 0 or 1. -/
def slLink (x n : Nat) : Nat := bits x (415 + 32 * n) (384 + 32 * n)
def lkLive (l : Nat) : Bool := l.testBit 31
def lkSpan (l : Nat) : Nat := bits l 30 27
def lkSlot (l : Nat) : Nat := bits l 23 16
def lkGen (l : Nat) : Nat := bits l 15 0
/-- The link words of a slot replaced. -/
def setLink (x n l : Nat) : Nat := setBits x (415 + 32 * n) (384 + 32 * n) l
/-- The state of a slot replaced. -/
def setSlState (x st : Nat) : Nat := setBits x 1 0 st

/-- Is a slot malformed (R129)? -/
def slMalformed (x : Nat) : Bool :=
  bits x 383 372 != 0 || bits x 335 323 != 0 || bits x 255 64 != 0 || bits x 22 16 != 0 || bits x 3 2 != 0 ||
    bits x 319 312 != 0 || bits x 257 256 != 0 || bits (slLink x 0) 26 24 != 0 || bits (slLink x 1) 26 24 != 0 ||
    decide (8 < slNcov x) ||
    [0, 1].any (fun n => lkLive (slLink x n) && (decide (lkSpan (slLink x n) < 2) || decide (8 < lkSpan (slLink x n)))) ||
    (slState x != 0 && (slWid x == 0 || slHgt x == 0 || (!slDim2 x && slHgt x != 1)))

/-- A slot reference (R133): slot and expected generation, or none when a zero field is not zero. -/
def slotRef (x : W64) : Option (Nat × Nat) :=
  let n := x.toNat
  if bits n 15 8 = 0 ∧ bits n 63 32 = 0 then some (bits n 7 0, bits n 31 16) else none

/-! ### The field caches (R134, R135) -/

/-- A field cache holds an entry. -/
def State.cacheField (s : State) (x : FieldEntry) : State :=
  let other := fun (y : FieldEntry) => !(y.comb == x.comb && y.ctxid == x.ctxid && y.slot == x.slot && y.word == x.word && y.va == x.va)
  { s with fields := s.fields.filter other ++ [x] }
/-- Every field cache drops the entries of a slot (R134). -/
def State.dropField (s : State) (ctxid : BitVec 16) (slot : Nat) : State :=
  if s.fields.isEmpty then s else { s with fields := s.fields.filter fun y => !(y.ctxid == ctxid && y.slot == slot) }

/-- A slot has been written by a chain-table step: a generation that has become SEALED is noted with the step, and one that
no longer is, is forgotten (R135). -/
def State.noteSeal (s : State) (ctxid : BitVec 16) (slot x : Nat) : State :=
  let rest := s.seals.filter fun z => !(z.ctxid == ctxid && z.slot == slot)
  if slState x = 2 then
    if s.seals.any fun z => z.ctxid == ctxid && z.slot == slot && z.gen == slGen x then s
    else { s with seals := rest ++ [⟨ctxid, slot, slGen x, s.tick⟩] }
  else { s with seals := rest, sealPast := if rest.isEmpty then [] else s.sealPast }

/-- The values of a range of bytes back to the step `since`, the latest store first. -/
def sealedValues (key since : Nat) : List Byte → List FieldPast → List (List Byte)
  | _, [] => []
  | bs, p :: ps =>
    if p.tick ≤ since then []
    else if meets p.addr p.old.length key bs.length then
      let b := undoBytes key bs p.addr p.old
      b :: sealedValues key since b ps
    else sealedValues key since bs ps

/-- What a read of an entry of a SEALED slot may return (R135): its present value, one that it has held since the slot was
sealed, or one that the comb's field cache holds with the slot's control word (R134). -/
def entryValues (s : State) (comb : Nat) (ctxid : BitVec 16) (slot gen va key now : Nat) : List Nat :=
  let mine := s.fields.filter fun y => y.comb == comb && y.ctxid == ctxid && y.slot == slot && y.gen == gen
  let cached := if mine.any FieldEntry.word then (mine.filter fun y => !y.word && y.va == va).map FieldEntry.val else []
  let past := match s.seals.find? fun z => z.ctxid == ctxid && z.slot == slot && z.gen == gen with
    | some z => (sealedValues key z.tick (s.bytes key 4) s.sealPast).map leNat
    | none => []
  now :: (past ++ cached).filter (· != now)

/-! ### Access to slots (R131, R132) -/

/-- A slot accessed as 64 bytes at its fld offset (R131). With `take`, its lines are to be taken for a chain-table step. -/
def slotAccess (e : Env) (s : State) (major i : Nat) (acc : Acc) (take : Bool) : State × ScalarOut :=
  match scalarAccess s e major 6 (64 * i) 64 acc with
  | (s, .ok ps) =>
    let rd : Reader := .near e.ref.core
    if ps.any fun p => if take then p.storeHeld s rd e.ref.core e.ref.slot else p.held s rd false then
      (holdPieces (if take then holdPends s e.ref.core e.ref.slot else s) rd take ps, .wait)
    else (s, .ok ps)
  | r => r

/-- The trap of cause 0x09 at a slot (R390). -/
def fieldTrap (e : Env) (major i : Nat) : Trap :=
  { cause := 9, va := (e.seg 6).base + BitVec.ofNat 64 (64 * i), aux := BitVec.ofNat 32 i, lanes := e.active,
    unit := unitOf major }

/-- A slot of a chain-table step, or the instruction's trap or wait. `k` receives its parts and its bits at its home. -/
def withSlot (e : Env) (s : State) (major i : Nat) (acc : Acc) (k : State → List Piece → Nat → Res) (take : Bool := true)
    (w : Wait := .other 166) : Res :=
  match slotAccess e s major i acc take with
  | (s, .bad t) => .trap s [t]
  | (s, .wait) => .park s w
  | (s, .ok ps) => k s ps (leNat (homeBytes s e.w ps))

/-- A slot as a chain-table step finds it: its number, its parts and its bits. -/
abbrev SlotView := Nat × List Piece × Nat

/-- Slots of a chain-table step, one after another. -/
def withSlots (e : Env) (major : Nat) (acc : Acc) (w : Wait) : State → List Nat → List SlotView → (State → List SlotView → Res) → Res
  | s, [], out, k => k s out
  | s, i :: is, out, k => withSlot e s major i acc (w := w) fun s ps x => withSlots e major acc w s is (out ++ [(i, ps, x)]) k

/-- A chain-table step (R132): the slots that it touches are taken at one logical time, and those that it changes are first
dropped from every field cache (R134). -/
def chainStep (e : Env) (s : State) (touched : List Piece) (new : List SlotView) : State :=
  let s := new.foldl (fun s y => s.dropField e.w.ctxid y.1) (claimStores s e.ref.core e.ref.slot touched)
  new.foldl (fun s y => (storeBytes s e.ref.core e.ref.slot y.2.1 (leBytes 64 y.2.2)).noteSeal e.w.ctxid y.1 y.2.2) s

/-! ### FOPEN (R136) -/

/-- FOPEN (R136). -/
def execFopen (f : Fields) (s : State) : Host.Outcome State Fault Refusal :=
  issue (.fopen f) f .lanes (fun e s =>
    let a := (e.s e.opa 1).toNat
    let b := (e.s e.opb 2).toNat
    let c := (e.s e.opc 3).toNat
    let wid := bits c 15 0
    let hgt := bits c 31 16
    let dim2 := c.testBit 34
    if 256 ≤ a ∨ bits c 51 49 ≠ 0 ∨ bits c 39 35 ≠ 0 ∨ wid = 0 ∨ hgt = 0 ∨ (!dim2 ∧ hgt ≠ 1) ∨ bits b 63 56 ≠ 0 ∨
        bits b 1 0 ≠ 0 ∨ 2 ^ 56 < b + wid * hgt * 4 then .trap s [regTrap e 0xD2]
    else withSlot e s 0xD2 a .rw fun s ps x =>
      if slMalformed x || slState x == 1 || slState x == 2 then .trap s [fieldTrap e 0xD2 a]
      else
        let hp := c.testBit 48
        let pred := bits c 47 40
        let go := fun (s : State) (others : List Piece) (pgen : Nat) => e.guardS s 0xD2 [e.dst] fun _ =>
          let gen := (slGen x + 1) % 2 ^ 16
          let y := 1 + bits c 63 52 * 2 ^ 4 + b2n hp * 2 ^ 23 + (if hp then pred else 0) * 2 ^ 24 + pgen * 2 ^ 32 + gen * 2 ^ 48 +
            b * 2 ^ 256 + bits c 33 32 * 2 ^ 320 + b2n dim2 * 2 ^ 322 + wid * 2 ^ 336 + hgt * 2 ^ 352
          .done (e.setS (chainStep e s (ps ++ others) [(a, ps, y)]) e.dst (BitVec.ofNat 64 gen))
        if !hp then go s [] 0
        else if pred = a then .trap s [fieldTrap e 0xD2 a]
        else withSlot e s 0xD2 pred .rd fun s pp p =>
          if slMalformed p || slState p == 0 || slNcov p != 0 || slDim2 p != dim2 then .trap s [fieldTrap e 0xD2 pred]
          else go s pp (slGen p)) s

/-! ### FSEAL, FRET, HSTAT (R137 to R139) -/

/-- Every warp of a workgroup drained of its pending stores; none while a line is held (R138). -/
def drainGroup (s : State) (wg : Nat) : Option State :=
  (s.warps.filter fun x => x.2.2.wg == wg).foldl (fun s x => s.bind fun s => drainStores s x.1 x.2.1) (some s)

/-- Has a warp an operation of its matrix or traversal unit that is not complete? -/
def Warp.unitBusy (w : Warp) : Bool := !w.m.queue.isEmpty || !w.trv.isEmpty

/-- Has a warp of the workgroup, resident or evicted, an engine operation that is not complete (R138)? -/
def groupBusy (s : State) (wg : Nat) : Bool :=
  (s.combs.any fun c => c.chain.any fun x => x.wg == wg) ||
    (s.warps.any fun x => x.2.2.wg == wg && x.2.2.unitBusy) ||
    s.images.any fun (i : Image) => i.warps.any fun x => x.2.wg == wg && x.2.unitBusy

/-- FSEAL (R137, R138). Its wait performs the pending stores of every warp of the workgroup; it faults for a discard of the
issuing warp alone (DESIGN CHOICE, log 103). -/
def execFseal (f : Fields) (s : State) : Host.Outcome State Fault Refusal :=
  issue (.fseal f) f .lanes (fun e s =>
    match slotRef (e.s e.opa 1) with
    | none => .trap s [regTrap e 0xD3]
    | some (i, g) => withDrain e s 0xD3 fun s =>
      match drainGroup s e.w.wg with
      | none => .park ((s.warps.filter fun x => x.2.2.wg == e.w.wg).foldl (fun s x => holdPends s x.1 x.2.1) s) (.other 166)
      | some s =>
        if groupBusy s e.w.wg then .park s (.other 138)
        else withSlot e s 0xD3 i .rw fun s ps x =>
          if slMalformed x || slGen x != g || slState x != 1 then .trap s [fieldTrap e 0xD3 i]
          else .done (chainStep e s ps [(i, ps, setSlState x 2)])) s

/-- The slots that FRET reads (R137): those whose 64 bytes lie within g6's limit. -/
def slotLimit (e : Env) : Nat := min 256 ((e.seg 6).lim.toNat * 256 / 64)

/-- The links of a slot that name shortcut `t` of generation `g`, cleared. -/
def unlink (t g x : Nat) : Nat :=
  [0, 1].foldl (fun x n =>
    let l := slLink x n
    if lkLive l && lkSlot l == t && lkGen l == g then setLink x n 0 else x) x

/-- What FRET of slot `i` makes of the table (R137). -/
def retireSlots (i : Nat) (table : List (Nat × Nat)) : List (Nat × Nat) :=
  let covers := fun (x : Nat) => (List.range (slNcov x)).any fun j => slCov x j == i
  let gone := table.filter fun y =>
    (y.1 == i && slNcov y.2 != 0) || (!slMalformed y.2 && slState y.2 == 2 && slNcov y.2 != 0 && covers y.2)
  let table := table.map fun y =>
    if y.1 = i || (!slMalformed y.2 && slState y.2 == 2 && slNcov y.2 != 0 && covers y.2) then (y.1, setSlState y.2 3) else y
  gone.foldl (fun tb t => tb.map fun y =>
    if y.1 = slCov t.2 0 && !slMalformed y.2 then (y.1, unlink t.1 (slGen t.2) y.2) else y) table

/-- FRET (R137). -/
def execFret (f : Fields) (s : State) : Host.Outcome State Fault Refusal :=
  issue (.fret f) f .lanes (fun e s =>
    match slotRef (e.s e.opa 1) with
    | none => .trap s [regTrap e 0xD5]
    | some (i, g) => withSlot e s 0xD5 i .rw fun s ps x =>
      if slMalformed x || slGen x != g || slState x != 2 then .trap s [fieldTrap e 0xD5 i]
      else withSlots e 0xD5 .rd (.other 166) s (List.range (slotLimit e)) [] fun s table =>
        let old := table.map fun y => (y.1, y.2.2)
        let changed := ((old.zip (retireSlots i old)).filter fun y => y.1.2 != y.2.2).map fun y => y.2
        withSlots e 0xD5 .rw (.other 166) s (changed.map fun y => y.1) [] fun s views =>
          .done (chainStep e s (ps ++ table.flatMap fun y => y.2.1)
            ((views.zip changed).map fun y => (y.1.1, y.1.2.1, y.2.2)))) s

/-- HSTAT (R139). -/
def execHstat (f : Fields) (s : State) : Host.Outcome State Fault Refusal :=
  issue (.hstat f) f .lanes (fun e s =>
    let a := (e.s e.opa 1).toNat
    if 256 ≤ a then .trap s [regTrap e 0xD1]
    else withSlot e s 0xD1 a .rd (take := false) fun s ps _ =>
      e.guardS s 0xD1 [e.dst] fun _ =>
        let s := touchLoads s (.near e.ref.core) ps
        .done (e.setS s e.dst (BitVec.ofNat 64 (bits (leNat (loadBytes s (towerOf e.ref.core) e.w ps)) 63 0)))) s

/-! ### Field entries (R126, R127) -/

/-- A displacement of 14 bits, in eighths. -/
def entryDx (x : Nat) : Int := sval 14 (bits x 31 18)
def entryDy (x : Nat) : Int := sval 14 (bits x 17 4)
/-- Is an entry valid? A non-zero reserved field makes it invalid. -/
def entryValid (x : Nat) : Bool := x.testBit 3 && bits x 2 0 == 0

/-- How an access to virtual memory by the instruction itself stands: its parts, a cause with its address, or a wait. -/
inductive VaRes (α : Type) where
  | ok (x : α)
  | bad (cause va : Nat)
  | wait

/-- An access of `n` bytes at a virtual address, in the context and through no segment (R127). -/
def vaAccess (e : Env) (s : State) (rd : Reader) (L : Nat) (acc : Acc) (va n : Nat) : State × VaRes (List Piece) :=
  let (s, x) := translateParts s rd e.w L acc false none none (splitPages va n)
  match withPoison s acc x with
  | .ok ps =>
    if ps.any fun p => if acc.writes then p.storeHeld s rd e.ref.core e.ref.slot else p.held s rd false then
      (holdPieces (if acc.writes then holdPends s e.ref.core e.ref.slot else s) rd acc.writes ps, .wait)
    else (s, .ok ps)
  | .bad c a => (s, .bad c a)
  | .absent a => (s, .bad 1 a)
  | .held => (s, .wait)

/-- The trap of an access through no segment (R390). -/
def vaTrap (e : Env) (major c va n : Nat) (acc : Acc) : Trap :=
  { cause := c, va := BitVec.ofNat 64 va, aux := BitVec.ofNat 32 (15 + 256 * n), acc := acc.code, lanes := e.active,
    unit := unitOf major }

/-- The address of the entry of a cell (R127). -/
def entryAddr (x cx cy : Nat) : Nat := slFbase x + (cy * slWid x + cx) * 4

/-- Where the path of the field caches reaches its lines (R134, R150): the tower's L2. -/
def Env.fieldPath (e : Env) : Reader := .l2 (towerOf e.ref.core)

/-- A read of an entry of a SEALED slot, through the comb's field cache (R134, R135). -/
def fieldRead (e : Env) (s : State) (L slot gen va : Nat) : State × VaRes Nat :=
  match vaAccess e s e.fieldPath L .rd va 4 with
  | (s, .ok ps) =>
    let s := touchLoads s e.fieldPath ps
    let now := leNat (loadBytes s (towerOf e.ref.core) e.w ps)
    let vals := entryValues s (combOf e.ref.core) e.w.ctxid slot gen va ((ps.head?.map Piece.addr).getD 0) now
    let v := (vals[choose s.tick (800 + L) vals.length]?).getD now
    (s.cacheField ⟨combOf e.ref.core, e.w.ctxid, slot, gen, false, va, v⟩, .ok v)
  | (s, .bad c a) => (s, .bad c a)
  | (s, .wait) => (s, .wait)

/-! ### FCOMP (R140) -/

/-- One hop of the composition for a point in eighths: its cell's entry address, or none when it is out of bounds. -/
def composeCell (x : Nat) (px py : Int) : Option Nat :=
  let c : Int := 8 * slCell x
  let inX := 0 ≤ px ∧ px < slWid x * c
  let inY := 0 ≤ py ∧ py < slHgt x * c
  if inX ∧ (slDim2 x = false ∨ inY) then
    some (entryAddr x (px / c).toNat (if slDim2 x then (py / c).toNat else 0))
  else none

/-- The composition at the start of a cell: its centre, and no displacement. -/
def Compose.at (c : Compose) (cell : Nat) : Compose :=
  let cs : Int := slCell c.target
  { c with cell := cell, hop := 0, x := (2 * (cell % slWid c.target) + 1 : Nat) * cs * 4,
           y := (2 * (cell / slWid c.target) + 1 : Nat) * cs * 4, dx := 0, dy := 0, ok := true }

/-- A hop made with an entry. -/
def Compose.move (c : Compose) (slot v : Nat) : Compose :=
  let ey := if slDim2 slot then entryDy v else 0
  { c with hop := c.hop + 1, x := c.x + entryDx v, y := c.y + ey, dx := c.dx + entryDx v, dy := c.dy + ey }

/-- The entry that a cell receives. -/
def Compose.entry (c : Compose) : Nat :=
  let fits := fun (d : Int) => decide (-8192 ≤ d) && decide (d ≤ 8191)
  if c.ok && c.hop == c.chain.length && fits c.dx && fits c.dy then wrapInt 14 c.dx * 2 ^ 18 + wrapInt 14 c.dy * 2 ^ 4 + 8 else 0

/-- The slot and the address of the entry that the composition reads next; none when the cell's hops are over. -/
def Compose.next (c : Compose) : Option ((Nat × Nat) × Nat) :=
  if c.ok then c.chain[c.hop]?.bind fun x => (composeCell x.2 c.x c.y).map fun va => (x, va) else none

/-- One access of the composition: the next entry of a field, or the store of a cell of the target's field. -/
def composeStep (e : Env) (s : State) (c : Compose) : Res :=
  match c.next with
  | some (x, va) => match fieldRead e s 0 x.1 (slGen x.2) va with
    | (s, .bad cause a) => .trap s [vaTrap e 0xD4 cause a 4 .rd]
    | (s, .wait) => .park s (.composing c)
    | (s, .ok v) => .park s (.composing (if entryValid v then c.move x.2 v else { c with ok := false }))
  | none =>
    let va := slFbase c.target + 4 * c.cell
    match vaAccess e s e.fieldPath 0 .wr va 4 with
    | (s, .bad cause a) => .trap s [vaTrap e 0xD4 cause a 4 .wr]
    | (s, .wait) => .park s (.composing c)
    | (s, .ok ps) =>
      let s := claimStoresAt s e.fieldPath e.ref.core e.ref.slot ps
      .park (storeBytes s e.ref.core e.ref.slot ps (leBytes 4 c.entry)) (.composing (c.at (c.cell + 1)))

/-- The chain X0 to Xk−1 and the landing slot (R140), read from the source: each requirement that fails is a trap at its
slot. -/
def composeChain (e : Env) : Nat → State → SlotView → List SlotView → (State → List SlotView → SlotView → Res) → Res
  | 0, s, x, done, k => k s done x
  | n + 1, s, x, done, k =>
    if slMalformed x.2.2 || slState x.2.2 != 2 || !slHp x.2.2 || slNcov x.2.2 != 0 then .trap s [fieldTrap e 0xD4 x.1]
    else withSlot e s 0xD4 (slPred x.2.2) .rd (take := false) fun s ps p =>
      if slMalformed p || slState p == 0 || slState p == 3 || slGen p != slPgen x.2.2 then
        .trap s [fieldTrap e 0xD4 (slPred x.2.2)]
      else composeChain e n s (slPred x.2.2, ps, p) (done ++ [x]) k

/-- Do the slots differ from one another? -/
def allDistinct : List Nat → Bool
  | [] => true
  | x :: xs => !xs.contains x && allDistinct xs

/-- The link that the source receives (R140). -/
def addLink (x k l : Nat) : Nat :=
  let hit := fun (n : Nat) => lkLive (slLink x n) && lkSpan (slLink x n) == k
  if hit 0 then setLink x 0 l else if hit 1 then setLink x 1 l
  else if !lkLive (slLink x 0) then setLink x 0 l else setLink x 1 l

/-- The first step of FCOMP (R140): the checks, as one atomic read of the slots named. -/
def composeChecks (e : Env) (s : State) (t gt i gi k : Nat) : Res :=
  withSlot e s 0xD4 t .rd (take := false) fun s pt xt =>
    if slMalformed xt || slState xt != 1 || slGen xt != gt then .trap s [fieldTrap e 0xD4 t]
    else withSlot e s 0xD4 i .rd (take := false) fun s ps xs =>
      if slMalformed xs || slState xs != 2 || slGen xs != gi then .trap s [fieldTrap e 0xD4 i]
      else if slDim2 xt != slDim2 xs || slWid xt != slWid xs || slHgt xt != slHgt xs || slCell xt != slCell xs then
        .trap s [fieldTrap e 0xD4 t]
      else composeChain e k s (i, ps, xs) [] fun s chain lnd =>
        if lnd.1 = t || !allDistinct (chain.map fun x => x.1) then .trap s [fieldTrap e 0xD4 t]
        else e.guardS s 0xD4 [e.dst] fun _ =>
          let all := pt ++ lnd.2.1 ++ chain.flatMap fun x => x.2.1
          let s := touchLoads s (.near e.ref.core) (all.map fun p => { p with cls := 0 })
          .park s (.composing (Compose.at ⟨t, gt, xt, chain.map fun x => (x.1, x.2.2), (lnd.1, slGen lnd.2.2), 0, 0, 0, 0, 0, 0, true⟩ 0))

/-- The final step of FCOMP (R140); a slot that it finds malformed is a fault (R129). -/
def composeFinal (e : Env) (s : State) (c : Compose) : Res :=
  let (t, gt, k) := (c.slot, c.gen, c.chain.length)
  e.guardS s 0xD4 [e.dst] fun _ =>
    let w := Wait.composing c
    withSlot e s 0xD4 t .rw (w := w) fun s pt xt =>
      withSlots e 0xD4 .rd w s (c.chain.map fun x => x.1) [] fun s now =>
        withSlot e s 0xD4 c.land.1 .rd (w := w) fun s pl xl =>
          match ((t, pt, xt) :: now ++ [(c.land.1, pl, xl)]).find? fun y => slMalformed y.2.2 with
          | some y => .trap s [fieldTrap e 0xD4 y.1]
          | none =>
            let touched := pt ++ pl ++ now.flatMap fun y => y.2.1
            let same := (now.zip c.chain).all fun y => slState y.1.2.2 == 2 && slGen y.1.2.2 == slGen y.2.2
            if same && slState xt == 1 && slGen xt == gt && slGen xl == c.land.2 then
              withSlot e s 0xD4 ((c.chain.head?.map fun x => x.1).getD 0) .rw (w := w) fun s ps xsrc =>
                let cov := (c.chain.zip (List.range 8)).foldl (fun n y => n + y.1.1 * 2 ^ (8 * y.2)) 0
                let y := setBits (setBits (setBits (setBits xt 31 24 c.land.1) 47 32 c.land.2) 511 448 cov) 371 368 k
                let y := setSlState (setBits y 23 23 1) 2
                let link := 2 ^ 31 + k * 2 ^ 27 + t * 2 ^ 16 + gt
                let s := chainStep e s touched
                  [(t, pt, y), ((c.chain.head?.map fun x => x.1).getD 0, ps, addLink xsrc k link)]
                .done (e.setS s e.dst 0)
            else .done (e.setS (chainStep e s touched []) e.dst 1)

/-- FCOMP (R140): the checks, then, each time that the fragment is tried again, one access of the composition, and the final
step. -/
def execFcomp (f : Fields) (s : State) : Host.Outcome State Fault Refusal :=
  issue (.fcomp f) f .lanes (fun e s =>
    match e.fr.wait with
    | some (.composing c) =>
      if slWid c.target * slHgt c.target ≤ c.cell then composeFinal e s c else composeStep e s c
    | _ => match slotRef (e.s e.opa 1), slotRef (e.s e.opb 2) with
      | some (t, gt), some (i, gi) => composeChecks e s t gt i gi (iv f)
      | _, _ => .trap s [regTrap e 0xD4]) s

end Sys2Proof.Machine
end

