-- ==== Sys2Proof/Machine/HistoryLoad.lean ====
section
/-!
DEFINITION. HLD (spec/06 R142 to R148): each lane's walk of the chain, the sample of the history surface, and waiting for
a slot to be sealed.
-/
namespace Sys2Proof.Machine

/-- The statuses of R145. -/
def hldOk : Nat := 0
def hldDisocc : Nat := 1
def hldUnsealed : Nat := 2
def hldChanged : Nat := 3

/-- One access of a walk (R143, R144). -/
inductive HldAsk where
  /-- the word y of operand A, read where the walk meets a 2-D slot (R142) -/
  | y
  /-- ReadSlot of a slot -/
  | slot (i : Nat)
  /-- ReadSlot of a slot once it is no longer OPEN with a generation -/
  | unopened (i gen : Nat)
  /-- the entry of a SEALED slot with a generation at an address -/
  | entry (slot gen va : Nat)
  /-- a buffer record -/
  | record (i : Nat)
  /-- `n` components of an element through a record -/
  | texel (record elem n : Nat)
  deriving DecidableEq, Repr

/-- What a lane's walk gives (R145): its status, its channels, whether it took a shortcut, and the flags it raises. -/
structure HldEnd where
  status : Nat
  used   : Bool
  data   : List W32 := []
  flags  : Nat := 0
  deriving DecidableEq, Repr

abbrev HldWalking := Walking HldAsk

/-- Is a coordinate in [0, n) (R127)? -/
def coordIn (x : W32) (n : Nat) : Bool :=
  match f32At x with
  | .fin neg a d => (!neg || a == 0) && decide (a < n * d)
  | _ => false
where
  f32At (x : W32) : Val := decodeVal fmtF32 x.toNat
/-- The floor of a coordinate that is in bounds. -/
def coordFloor (x : W32) : Nat :=
  match decodeVal fmtF32 x.toNat with
  | .fin _ a d => a / d
  | _ => 0
/-- A coordinate moved by a displacement in eighths (R143). -/
def coordMove (x : W32) (d : Int) : W32 :=
  BitVec.ofNat 32 (roundTo fmtF32 0 false ((decodeVal fmtF32 x.toNat).add false (.fin (decide (d < 0)) d.natAbs 8))).1

/-! ### Sample (R144) -/

/-- One texel's channel values and flags: zeros past the record's components, and for an element that is not accessed (R98). -/
def texel (r : BufRec) (rec ch i : Nat) : HldWalking (List Nat × Nat) :=
  let n := min ch r.chans
  .ask (.texel rec i n) fun a => .done (match a with
    | some (idx :: plane :: raws) =>
      let vs := r.components idx plane raws
      ((vs.map Prod.fst ++ List.replicate ch 0).take ch, orFlags (vs.map Prod.snd))
    | _ => (List.replicate ch 0, 0))

/-- The floor and the fraction, in units of 2^-24 × 2^-126 and so exact, of a coordinate minus one half. -/
def halfSplit (x : W32) : Int × Frac :=
  let u := ((decodeVal fmtF32 x.toNat).toFrac.sub ⟨1, 2⟩).norm
  (u.floor, (u.sub ⟨u.floor, 1⟩).norm)

/-- The taps of a bilinear sample with their weights, those of weight 0 left out (R144). -/
def taps (x y : W32) (dim2 : Bool) (wp hp : Nat) : List (Nat × Frac) :=
  let (i0, fx) := halfSplit x
  let (j0, fy) := if dim2 then halfSplit y else (0, ⟨0, 1⟩)
  let one : Frac := ⟨1, 1⟩
  let cl := fun (i : Int) (n : Nat) => (max 0 (min i ((n : Int) - 1))).toNat
  let at_ := fun (i j : Int) => cl j hp * wp + cl i wp
  [(at_ i0 j0, (one.sub fx).mul (one.sub fy)), (at_ (i0 + 1) j0, fx.mul (one.sub fy)),
   (at_ i0 (j0 + 1), (one.sub fx).mul fy), (at_ (i0 + 1) (j0 + 1), fx.mul fy)].filter fun t => !t.2.isZero

/-- The weighted sum of one channel, rounded once (R144). -/
def weigh (ws : List Frac) (xs : List Nat) : Nat × Nat :=
  let ps := List.zipWith (fun w x => (decodeVal fmtF32 x).mul w.toVal) ws xs
  roundTo fmtF32 0 false (sumVals ps)
where
  /-- The exact sum; a NaN texel, or infinities of both signs wherever they stand, are invalid (R144). -/
  sumVals (ps : List Val) : Val :=
    let both := ps.any (fun p => p == .inf false) && ps.any (fun p => p == .inf true)
    if both || ps.any Val.isNan then .nan true
    else match ps with
      | [] => .fin false 0 1
      | p :: rest => rest.foldl (Val.add false) p

/-- Sample (R144): the channels and their flags, or none for DISOCC. A quiet NaN texel under nearest filtering raises no flag
(DESIGN CHOICE, log 45). -/
def sample (f : Fields) (slot : Nat) (px py : W32) : HldWalking (Option (List W32 × Nat)) :=
  let ch := iv f / 16 % 4 + 1
  (Walking.read (.record (slBrec slot))).bind fun x =>
    let r := bufRec x
    if r.malformed false || r.rfmt != 5 then .fail { cause := 0x0D }
    else
      let wp := slWid slot * slCell slot
      let hp := if slDim2 slot then slHgt slot * slCell slot else 1
      if !coordIn px wp || (slDim2 slot && !coordIn py hp) then .done none
      else
        let bil := bitAt (qv f) 0
        let ts := if bil then taps px py (slDim2 slot) wp hp
          else [((if slDim2 slot then coordFloor py else 0) * wp + coordFloor px, ⟨1, 1⟩)]
        (Walking.each (fun out (t : Nat × Frac) => (texel r x ch t.1).bind fun y => .done (out ++ [y])) ts []).bind fun tx =>
          let chans := (List.range ch).map fun c =>
            if bil then weigh (ts.map fun t => t.2) (tx.map fun t => (t.1[c]?).getD 0)
            else (((tx.head?.bind fun t => t.1[c]?).getD 0), 0)
          .done (some (chans.map fun c => BitVec.ofNat 32 c.1, orFlags (tx.map fun t => t.2) ||| orFlags (chans.map fun c => c.2)))

/-! ### The walk (R143) -/

/-- Where a walk stands: its slot with the bits read, its point, the slots seen, and whether it took a shortcut. `y` is none
until the walk meets a 2-D slot. -/
structure HldAt where
  slot : Nat
  bits : Nat
  x    : W32
  y    : Option W32
  seen : List (Nat × Nat)
  used : Bool
  deriving DecidableEq, Repr

/-- A walk that ends with a status. -/
def HldAt.stop (w : HldAt) (status : Nat) : HldWalking HldEnd := .done ⟨status, w.used, [], 0⟩
/-- The walk stands at another slot, which it has read. -/
def HldAt.go (w : HldAt) (slot bits : Nat) : HldAt :=
  { w with slot := slot, bits := bits, seen := w.seen ++ [(slot, slGen bits)] }

/-- WaitSealed (R143): the walk goes on at its slot SEALED, or ends with a status. A slot found malformed is CHANGED (R129). -/
def HldAt.sealed (w : HldAt) (f : Fields) (k : HldAt → HldWalking HldEnd) : HldWalking HldEnd :=
  match slState w.bits with
  | 1 =>
    if bitAt (qv f) 1 then w.stop hldUnsealed
    else (Walking.read (.unopened w.slot (slGen w.bits))).bind fun x =>
      if slMalformed x || slGen x != slGen w.bits || slState x != 2 then w.stop hldChanged else k { w with bits := x }
  | 2 => k w
  | _ => w.stop hldChanged

/-- The walk with its y, read at the first 2-D slot (R142). -/
def HldAt.withY (w : HldAt) (k : HldAt → HldWalking HldEnd) : HldWalking HldEnd :=
  if slDim2 w.bits && w.y.isNone then (Walking.read .y).bind fun y => k { w with y := some (BitVec.ofNat 32 y) } else k w

/-- The final check over the slots seen (R143). A lane that fails it raises no flags of its sample either: R144 leaves that
open, and this is the model's choice (DESIGN CHOICE, log 85). -/
def checkSeen (used : Bool) (r : HldEnd) : List (Nat × Nat) → HldWalking HldEnd
  | [] => .done r
  | (i, g) :: rest => (Walking.read (.slot i)).bind fun z =>
    if slMalformed z || slState z != 2 || slGen z != g then .done ⟨hldChanged, used, [], 0⟩ else checkSeen used r rest

/-- The landing slot: sealed, sampled, and every slot seen checked. -/
def HldAt.land (w : HldAt) (f : Fields) : HldWalking HldEnd :=
  w.sealed f fun w => (sample f w.bits w.x (w.y.getD 0)).bind fun r => match r with
    | none => w.stop hldDisocc
    | some (data, fl) => checkSeen w.used ⟨hldOk, w.used, data, fl⟩ w.seen

/-- The hops that are left, one after another, and the landing slot. -/
def HldAt.hops (f : Fields) : Nat → HldAt → HldWalking HldEnd
  | 0, w => w.land f
  | n + 1, w => w.sealed f fun w =>
    let c := slCell w.bits
    let y := w.y.getD 0
    if !slHp w.bits || !coordIn w.x (slWid w.bits * c) || (slDim2 w.bits && !coordIn y (slHgt w.bits * c)) then w.stop hldDisocc
    else
      let va := entryAddr w.bits (coordFloor w.x / c) (if slDim2 w.bits then coordFloor y / c else 0)
      (Walking.read (.entry w.slot (slGen w.bits) va)).bind fun v =>
        if !entryValid v then w.stop hldDisocc
        else
          let w := { w with x := coordMove w.x (entryDx v), y := if slDim2 w.bits then w.y.map fun y => coordMove y (entryDy v) else w.y }
          (Walking.read (.slot (slPred w.bits))).bind fun p =>
            if slMalformed p || slGen p != slPgen w.bits then w.stop hldChanged
            else (w.go (slPred w.bits) p).withY (HldAt.hops f n)

/-- WalkField (R143): from the start slot, through its shortcut of n frames under .sc, or hop by hop. -/
def walkField (f : Fields) (i g : Nat) (x : W32) : HldWalking HldEnd :=
  let n := iv f % 16
  (Walking.read (.slot i)).bind fun b =>
    let w : HldAt := ⟨i, b, x, none, [(i, g)], false⟩
    if slMalformed b || slGen b != g then w.stop hldChanged
    else w.withY fun w => w.sealed f fun w =>
      match (if bitAt (qv f) 3 then ([0, 1].map (slLink w.bits)).find? fun l => lkLive l && lkSpan l == n else none) with
      | none => HldAt.hops f n w
      | some l => (Walking.read (.slot (lkSlot l))).bind fun y =>
        if !slMalformed y && slState y == 2 && slGen y == lkGen l then
          { w.go (lkSlot l) y with used := true }.withY (HldAt.hops f 1)
        else HldAt.hops f n w

/-- A lane's walk, which under .trap ends in a fault when it is DISOCC (R145). -/
def hldWalk (f : Fields) (root : W64) (w : LaneWalk) : HldWalking HldEnd :=
  match slotRef root with
  | none => .fail { cause := 0x0D }
  | some (i, g) => (walkField f i g ((w.args[0]?).getD 0)).bind fun r =>
    if bitAt (qv f) 2 && r.status == hldDisocc then .fail { cause := 8 } else .done r

/-! ### Its accesses -/

/-- The record of a fault of an access through no segment, for one lane. -/
def vaFail (c va n : Nat) (acc : Acc) : WalkFail := ⟨c, va, 15 + 256 * n, acc.code⟩
/-- The fields of a trap that a lane's walk keeps. -/
def Trap.fail (t : Trap) : WalkFail := ⟨t.cause, t.va.toNat, t.aux.toNat, t.acc⟩

/-- ReadSlot (R143): one atomic read of a slot, which the comb's field cache keeps when it is SEALED (R134). -/
def readSlot (e : Env) (s : State) (i : Nat) : State × Option (Except WalkFail Nat) :=
  match slotAccess e s 0xD0 i .rd false with
  | (s, .bad t) => (s, some (.error t.fail))
  | (s, .wait) => (s, none)
  | (s, .ok ps) =>
    let s := touchLoads s (.near e.ref.core) ps
    let x := leNat (loadBytes s (towerOf e.ref.core) e.w ps)
    ((if slState x = 2 then
        s.cacheField ⟨combOf e.ref.core, e.w.ctxid, i, slGen x, true, (e.seg 6).base.toNat + 64 * i, bits x 63 0⟩
      else s), some (.ok x))

/-- The answer of one access of a lane's walk; none where it must wait. -/
def hldAnswer (e : Env) (s : State) (L : Nat) : HldAsk → State × Option WalkAns
  | .y =>
    let word := RegWord.vec (e.ref.slot * e.width + L) (e.opa + 1)
    if (s.core e.ref.core).bad.contains word then
      (s, some (.bad { cause := 0x15, va := wordOffset e.ref.core word, acc := 1 }))
    else (correctWords s e.ref.core [word], some (.data [(e.v (e.opa + 1) L 1).toNat]))
  | .slot i => match readSlot e s i with
    | (s, some (.ok x)) => (s, some (.data [x]))
    | (s, some (.error t)) => (s, some (.bad t))
    | (s, none) => (s, none)
  | .unopened i gen => match readSlot e s i with
    | (s', some (.ok x)) => if slState x = 1 ∧ slGen x = gen then (s, none) else (s', some (.data [x]))
    | (s, some (.error t)) => (s, some (.bad t))
    | (s, none) => (s, none)
  | .entry slot gen va => match fieldRead e s L slot gen va with
    | (s, .ok v) => (s, some (.data [v]))
    | (s, .bad c a) => (s, some (.bad (vaFail c a 4 .rd)))
    | (s, .wait) => (s, none)
  | .record i => match scalarAccess s e 0xD0 7 (40 * i) 40 .rd with
    | (s, .bad t) => (s, some (.bad t.fail))
    | (s, .wait) => (s, none)
    | (s, .ok ps) =>
      if ps.any (Piece.held s (.near e.ref.core) false) then (holdPieces s (.near e.ref.core) false ps, none)
      else
        let s := touchLoads s (.near e.ref.core) ps
        (s, some (.data [leNat (loadBytes s (towerOf e.ref.core) e.w ps)]))
  | .texel rec i n =>
    let r := bufRec rec
    let size := if r.block then 1 else r.es
    match recordElem e s e.fieldPath r .rd false false L i n with
    | (s, .bad c va) => (s, some (.bad (vaFail c va size .rd)))
    | (s, .absent va) => (s, some (.bad (vaFail 1 va size .rd)))
    | (s, .held) => (s, none)
    | (s, .ok idx plane comps) =>
      if (plane ++ comps.flatten).any (Piece.held s e.fieldPath false) then
        (holdPieces s e.fieldPath false (plane ++ comps.flatten), none)
      else
        let s := touchLoads s e.fieldPath (plane ++ comps.flatten)
        let num := fun ps => leNat (loadBytes s (towerOf e.ref.core) e.w ps)
        (s, some (.data (idx :: num plane :: comps.map num)))
    | (s, _) => (s, some (.data []))

/-- The results of HLD (R145). -/
def hldWrite (e : Env) (s : State) (ws : List (Nat × HldEnd)) : State :=
  let ch := iv e.f / 16 % 4 + 1
  let kd := iv e.f / 256 % 8
  let s := ws.foldl (fun s w =>
    let s := (List.range ch).foldl (fun s c => e.setV s (e.dst + c) w.1 ((w.2.data[c]?).getD 0)) s
    e.setV s e.opc w.1 (BitVec.ofNat 32 (w.2.status + 256 * b2n w.2.used))) s
  let m := maskOf ((ws.filter fun w => w.2.status == hldDisocc).map fun w => w.1)
  let s := if kd = 0 then s else e.setKBits s kd e.active m
  e.raise s (orFlags (ws.map fun w => w.2.flags))

/-- HLD (R142 to R146). A fault of some lane's walk, that of R145 too, is taken when every lane's walk has ended: R145 and
R146 leave open whether lanes that still wait delay it, and this is the model's choice (DESIGN CHOICE, log 85). -/
def execHld (f : Fields) (s : State) : Host.Outcome State Fault Refusal :=
  issue (.hld f) f .lanes (fun e s =>
    if e.fr.wait.isNone && (slotRef (e.s e.opb 2)).isNone then .trap s [regTrap e 0xD0]
    else withWalks e s 0xD0 (e.s e.opb 2) (fun L => [e.v e.opa L 1]) (hldWalk f) (hldAnswer e) fun s ws => .done (hldWrite e s ws)) s

end Sys2Proof.Machine
end

