-- ==== Sys2Proof/Machine/Leases.lean ====
section
/-!
DEFINITION. Leases of outside agents (spec/07 R159 to R168): reads, stores and ownership at the home, physical expiry,
time reports and time-lost agents.
-/
namespace Sys2Proof.Machine

/-! ### Outside agents -/

/-- Is it an agent outside the package (R159)? -/
def isOutside : Agent → Bool
  | .tower _ => false
  | .host => true
  | .peer n => decide (n < 64)

/-- An agent as the homes see it; one that has not acted yet has its logical time at GTIME (log 28). -/
def State.agent (s : State) (a : Agent) : AgentState :=
  (s.agents.find? fun x => x.agent == a).getD ⟨a, none, s.pkg.gtime, s.pkg.gtime⟩
def State.setAgent (s : State) (x : AgentState) : State :=
  { s with agents := (s.agents.filter fun y => y.agent != x.agent) ++ [x] }
/-- An agent's logical time rises to a time (R161). -/
def State.raiseAgent (s : State) (a : Agent) (x : Nat) : State :=
  let y := s.agent a
  s.setAgent { y with pts := max y.pts x }
/-- May the home grant the agent anything: does its request arrive (R416), and is it not time-lost (R167)? -/
def State.granting (s : State) (a : Agent) : Bool :=
  s.pkg.powered && isOutside a && s.pkg.reaches a && (s.agent a).lost.isNone
/-- Is it a line of the device's own memory that others reach: neither metadata (R61) nor of the black-box region, which
only the device writes (R422, log 81)? -/
def homeLine (ln : Nat) : Bool :=
  (homeTower (ln * 128)).isSome && !inMetadata (ln * 128) && decide (2 ^ 20 ≤ ln * 128)

/-- May an outside agent act on a line: a home line, and for the host none of the context descriptor table, where its accesses
change nothing (R393, R415)? -/
def State.reachable (s : State) (a : Agent) (ln : Nat) : Bool :=
  homeLine ln && !(a == .host && s.pkg.cdtbase != 0 && (linesOf s.pkg.cdtbase.toNat 4096).contains ln)

/-! ### Actions at the home (R161) -/

/-- The length of an outside agent's lease (R163): the host's from the home tower's table by class, a peer's own length
capped at the table's largest entry. -/
def outLen (s : State) (a : Agent) (ln cls : Nat) : Nat :=
  let t := (homeTower (ln * 128)).getD 0
  match a with
  | .peer _ => min cls (s.maxLen t)
  | _ => s.leaseLen t cls

/-- A read or renewal by an outside agent (R161, R166): the line carries its lease with the latest physical expiry granted to
the agent. -/
def outsideRead (s : State) (a : Agent) (ln cls : Nat) : State :=
  let (wts, rts) := s.times ln
  let pts := (s.agent a).pts
  let len := outLen s a ln cls
  let s := s.setTimes ln wts (max rts (max pts wts + len))
  let x := s.line ln
  let until' := ((x.leases.filter fun l => l.agent == a).map OutLease.pexp).foldl max (s.pkg.gtime + len)
  let s := if len = 0 then s
    else s.setLine ln { x with leases := (x.leases.filter fun l => l.agent != a) ++ [⟨a, until'⟩] }
  s.raiseAgent a wts

/-- LEASE_READ (R161, R162). A tower reads a line homed in the other tower; an outside agent reads a line that no other
agent owns. -/
def execLeaseRead (agent : Agent) (line cls : Nat) (s : State) : Host.Outcome State Fault Refusal :=
  match agent with
  | .tower t =>
    if s.pkg.powered && decide (t < 2) && decide (cls < 8) && homeLine line && homeTower (line * 128) != some t &&
        !s.readHeld line then .next (s.readTime t line cls)
    else .next s
  | a => if s.granting a && s.reachable a line && !s.readHeld line then .next (outsideRead s a line cls) else .next s

/-- The home step of a store (R161): wts ← max(pts, rts + 1), rts ← wts. -/
def storeTime (s : State) (pts ln : Nat) : State × Nat :=
  let w := max pts ((s.times ln).2 + 1)
  (s.setTimes ln w w, w)

/-- A store by an outside agent at its home: near-cache tokens and copies of the towers are taken back, then the bytes
are written. -/
def outsideStore (s : State) (a : Agent) (key : Nat) (data : List Byte) : State :=
  let ln := lineOf key
  let (s, w) := storeTime s (s.agent a).pts ln
  let x := s.line ln
  let s := (s.setLine ln { x with dirty := true, leases := [] }).recallBoth ln
  (s.raiseAgent a w).poke .engine key data

/-- LEASE_STORE (R161, R166): a peer's store without ownership, inside one line, once no outside lease on it is live. The
host stores by ownership, and a tower's store is its lanes'. -/
def execLeaseStore (agent : Agent) (addr : Nat) (data : List Byte) (s : State) : Host.Outcome State Fault Refusal :=
  let ln := lineOf addr
  match agent with
  | .peer _ =>
    if s.granting agent && homeLine ln && data.length != 0 && lineOf (addr + data.length - 1) == ln &&
        !s.writeHeld ln && !s.poison.contains ln then .next (outsideStore s agent addr data)
    else .next s
  | _ => .next s

/-- A line granted to an agent as owned (R161). -/
def grantOwner (s : State) (a : Agent) (ln : Nat) : State :=
  let (s, w) := storeTime s (s.agent a).pts ln
  let x := s.line ln
  ((s.setLine ln { x with leases := [], owner := some a, wanted := x.wanted.filter (· != a) }).recallBoth ln).raiseAgent a w

/-- The waiting ownership grants of a line proceed once its leases have expired and no agent owns it (R166). -/
def settleWanted (s : State) (ln : Nat) : State :=
  if s.writeHeld ln then s
  else
    let s := s.setLine ln { s.line ln with leases := [] }
    match (s.line ln).wanted.find? fun a => (s.agent a).lost.isNone && s.pkg.reaches a with
    | some a => grantOwner s a ln
    | none => s

/-- OWNERSHIP_REQUEST (R161, R166): granted, or waiting for the line's outside leases and owner. -/
def execOwnershipRequest (agent : Agent) (line : Nat) (s : State) : Host.Outcome State Fault Refusal :=
  if s.granting agent && s.reachable agent line && !s.poison.contains line && (s.line line).owner != some agent then
    let x := s.line line
    .next (settleWanted (s.setLine line
      { x with wanted := if x.wanted.contains agent then x.wanted else x.wanted ++ [agent] }) line)
  else .next s

/-- LINE_RETURN (R161, R166, R167): the owner returns the line's 128 bytes with its wts; from a time-lost agent it is
refused. -/
def execLineReturn (agent : Agent) (line wts : Nat) (data : List Byte) (s : State) : Host.Outcome State Fault Refusal :=
  if s.granting agent && (s.line line).owner == some agent && data.length == 128 then
    let (w, r) := s.times line
    let s := s.setTimes line (max w wts) (max r (max w wts))
    let x := s.line line
    .next (settleWanted ((s.setLine line { x with owner := none, dirty := true }).poke .engine (line * 128) data) line)
  else .next s

/-- OUTSIDE_LEASE_EXPIRY (R166): pexp + 2 µs has passed for every outside lease of the line, and what waits proceeds. A
parked store or atomic is tried again by its own fragment. -/
def execOutsideLeaseExpiry (line : Nat) (s : State) : Host.Outcome State Fault Refusal :=
  if s.pkg.powered then .next (settleWanted s line) else .next s

/-! ### Time (R167, R168) -/

/-- The lines that an agent owns are poisoned, each with its event (R168). -/
def loseOwned (s : State) (a : Agent) : State :=
  ((s.lines.filter fun x => x.2.owner == some a).map fun x => x.1).foldl (fun s ln =>
    (s.setLine ln { s.line ln with owner := none }).poisonLine ln (agentNumber a) 2) s

/-- An agent waits for no ownership grant any more. -/
def dropWanted (s : State) (a : Agent) : State := s.mapLines fun _ x => { x with wanted := x.wanted.filter (· != a) }

/-- The homes declare an agent time-lost (R167, R168). -/
def declareLost (s : State) (a : Agent) (drift : Bool) : State :=
  if (s.agent a).lost.isSome then s
  else
    let y := s.agent a
    let s := (s.setAgent { y with lost := some s.pkg.gtime }).bbEvent 3 0xFF 0 (agentNumber a + 256 * b2n drift)
    loseOwned (dropWanted s a) a

/-- Does the agent hold a lease or own a line? -/
def holdsAny (s : State) (a : Agent) : Bool :=
  s.lines.any fun (x : Nat × LineState) => x.2.owner == some a || x.2.leases.any fun l => l.agent == a

/-- TIME_REPORT (R167): a report of an agent's global time; more than 2 µs of difference declares it time-lost. -/
def execTimeReport (agent : Agent) (time : Nat) (s : State) : Host.Outcome State Fault Refusal :=
  if s.pkg.powered && isOutside agent then
    let y := s.agent agent
    let s := s.setAgent { y with last := s.pkg.gtime }
    if time + 2000 < s.pkg.gtime ∨ s.pkg.gtime + 2000 < time then .next (declareLost s agent true) else .next s
  else .next s

/-- TIME_REPORT_TIMEOUT (R167): no report for 50 µs from an agent that holds leases or lines. -/
def execTimeReportTimeout (agent : Agent) (s : State) : Host.Outcome State Fault Refusal :=
  if s.pkg.powered && isOutside agent && holdsAny s agent && decide ((s.agent agent).last + 50000 ≤ s.pkg.gtime) then
    .next (declareLost s agent false)
  else .next s

/-- TIME_LOST_EXPIRY (R167): the largest lease length of the home tower plus 2 µs has passed since the declaration, and
the agent's leases hold back no store any more. -/
def execTimeLostExpiry (agent : Agent) (s : State) : Host.Outcome State Fault Refusal :=
  match (s.agent agent).lost with
  | none => .next s
  | some _ =>
    if !s.pkg.powered then .next s
    else .next (s.mapLines fun ln x =>
      { x with leases := x.leases.filter fun l => l.agent != agent || s.leaseLive ln l })

/-- AMNESTY (R167): the agent has discarded its leased copies, and rejoins. -/
def execAmnesty (agent : Agent) (s : State) : Host.Outcome State Fault Refusal :=
  if s.pkg.powered && (s.agent agent).lost.isSome then
    let y := s.agent agent
    .next ((s.mapLines fun _ x => { x with leases := x.leases.filter fun l => l.agent != agent }).setAgent
      { y with lost := none, last := s.pkg.gtime })
  else .next s

/-- TIME_REPORT_SEND (R167): the device reports its GTIME to a home that it holds leases from; the report is what the
outside sees. -/
def execTimeReportSend (agent : Agent) (s : State) : Host.Outcome State Fault Refusal :=
  if s.pkg.powered && isOutside agent then .next { s with reply := leBytes 8 s.pkg.gtime } else .next s

end Sys2Proof.Machine
end

