-- ==== Sys2Proof/Machine/LoadStore.lean ====
section
/-!
DEFINITION. Loads and stores (spec/09 R206 to R217, R223 to R226): LD, ST, GATH, SCAT, SLD, SST, the non-temporal
stores with their drains, FENCE and PFT.
-/
namespace Sys2Proof.Machine

/-- The bytes of a sized access (R211). -/
def sizeOf' (f : Fields) : Nat := 2 ^ (mv f % 4)
/-- The bytes that ST stores: 16 for .b128 (R212). -/
def stSize (f : Fields) : Nat := if bitAt (mv f) 2 then 16 else sizeOf' f
/-- The segment register that opc names (R206). -/
def Env.segNo (e : Env) : Nat := e.opc % 8

/-! ### LD and ST -/

/-- The lanes of a load with its substitutions (R214): a lane whose page is not resident under .fb, or whose line is
poisoned under .pz, fails no check. -/
def loadOut (s : State) (pz : Bool) (x : LaneOut) : LaneOut :=
  match x with
  | .ok _ => match withPoison s .rd x with
    | .bad 5 va => if pz then .absent va else .bad 5 va
    | y => y
  | y => y

/-- The lanes of a list of outcomes that were substituted. -/
def substituted (outs : List (Nat × LaneOut)) : Mask :=
  maskOf (outs.filterMap fun x => match x.2 with
    | .absent _ => some x.1
    | _ => none)

/-- The reports of the lanes whose pages are not resident (R214): wanted level 0. `pre` are the outcomes before poison
was looked at. -/
def reportLanes (e : Env) (s : State) (pre : List (Nat × LaneOut)) : State :=
  pre.foldl (fun s x => match x.2 with
    | .absent va => s.reportFeedback e.ref.core e.ref.slot va 0
    | _ => s) s

/-- The status mask of a load (R214). -/
def setStatus (e : Env) (s : State) (sub : Mask) : State :=
  if ksOf e.f = 0 then s else e.setKBits s (ksOf e.f) e.active sub

/-- LD (R213, R214). -/
def execLd (f : Fields) (s : State) : Host.Outcome State Fault Refusal :=
  issue (.ld f) f .lanes (fun e s =>
    let size := sizeOf' f
    let (s, pre) := accessLanes s e e.segNo size .rd (bitAt (qv f) 0) (e.lanes.map fun L => (L, e.laneOffset L))
    let outs := pre.map fun x => (x.1, loadOut s (bitAt (mv f) 2) x.2)
    onLanes e.ref.core 0x90 e.segNo size .rd s outs fun s xs =>
      let s := touchLoads s (.near e.ref.core) (xs.flatMap fun x => x.2)
      let data := outs.map fun x => (x.1, match x.2 with
        | .ok ps => loadBytes s (towerOf e.ref.core) e.w ps
        | _ => List.replicate size 0)
      let s := reportLanes e s pre
      .done (setStatus e (e.putLoads s e.dst xs data) (substituted outs))) s

/-- The trap of stores, those to staging windows judged, or their effect. -/
def storeAll (e : Env) (s : State) (major seg size : Nat) (data : Nat → List Byte) (outs : List (Nat × LaneOut)) : Res :=
  match onLanes e.ref.core major seg size .wr s (judgeStaging s e size data outs) fun s xs =>
    match storeLanes s e size data xs with
    | .ok s => .done s
    | .error (s, w) => .park s w with
  | .trap s ts => .trap s (ts.map (stagingTrap e))
  | r => r

/-- ST (R213). -/
def execSt (f : Fields) (s : State) : Host.Outcome State Fault Refusal :=
  issue (.st f) f .lanes (fun e s =>
    let size := stSize f
    let (s, outs) := checkLanes s e e.segNo size .wr e.lanes
    storeAll e s 0x91 e.segNo size (e.regBytes e.dst size) outs) s

/-! ### GATH and SCAT -/

/-- The 64 KiB page of a failing lane (R216): that of its segment offset in the on-chip map, else that of the address its
fault records, which for scratchpad is the segment offset too. -/
def Env.gatherPage (e : Env) (L va : Nat) : Nat := (if e.segNo = 4 then e.laneOffset L else va % 2 ^ 64) / 65536

/-- The records of a partial stop (R216): one for each pair of cause and 64 KiB page, in the order of its lowest lane. -/
def gatherTraps (e : Env) (major size : Nat) (acc : Acc) (pcm : Mask) (outs : List (Nat × LaneOut)) : List Trap :=
  let bad := outs.filterMap fun x => match x.2 with
    | .bad c va => some (x.1, c, va)
    | _ => none
  let pair := fun (x : Nat × Nat × Nat) => (x.2.1, e.gatherPage x.1 x.2.2)
  let pairs := bad.foldl (fun (ps : List (Nat × Nat)) x => if ps.contains (pair x) then ps else ps ++ [pair x]) []
  pairs.filterMap fun p =>
    (accessTrap major e.segNo size acc ((bad.filter fun x => pair x == p).map fun x => (x.1, .bad x.2.1 x.2.2))).map fun t =>
      { t with pcm := pcm }

/-- The end of an issue of GATH or SCAT (R215): k[kc] gains the lanes done, and failing lanes stop the fragment. -/
def gatherEnd (e : Env) (s : State) (major size : Nat) (acc : Acc) (done : Mask) (outs : List (Nat × LaneOut)) : Res :=
  let kc := ksOf e.f
  let s := if done = 0 then s else e.setKBits s kc done done
  let k := ((s.warp e.ref.core e.ref.slot).map fun w => kHeld w kc).getD 0
  match gatherTraps e major size acc k outs with
  | [] => .done s
  | ts => .trap s (ts.map (stagingTrap e))

/-- The lanes that an issue of GATH or SCAT performs (R215). -/
def Env.pending (e : Env) : List Nat := lanesOf (e.active &&& ~~~(e.k (ksOf e.f) 5))

/-- GATH (R215). -/
def execGath (f : Fields) (s : State) : Host.Outcome State Fault Refusal :=
  issue (.gath f) f .lanes (fun e s =>
    let size := sizeOf' f
    let (s, outs) := checkLanes s e e.segNo size .rd e.pending
    let xs := okLanes outs
    if walksHeld outs then .park s (.other 166)
    else if lanesHeld s e.ref.core false xs then parkLanes s e.ref.core false xs
    else
      let s := touchLoads s (.near e.ref.core) (xs.flatMap fun x => x.2)
      let data := xs.map fun x => (x.1, loadBytes s (towerOf e.ref.core) e.w x.2)
      gatherEnd e (e.putLoads s e.dst xs data) 0x94 size .rd (maskOf (xs.map fun x => x.1)) outs) s

/-- SCAT (R215). -/
def execScat (f : Fields) (s : State) : Host.Outcome State Fault Refusal :=
  issue (.scat f) f .lanes (fun e s =>
    let size := sizeOf' f
    let data := e.regBytes e.dst size
    let (s, outs) := checkLanes s e e.segNo size .wr e.pending
    let outs := judgeStaging s e size data outs
    let xs := okLanes outs
    if walksHeld outs then .park s (.other 166)
    else if lanesHeld s e.ref.core true xs then parkLanes s e.ref.core true xs
    else match storeLanes s e size data xs with
      | .ok s => gatherEnd e s 0x95 size .wr (maskOf (xs.map fun x => x.1)) outs
      | .error (s, w) => .park s w) s

/-! ### SLD and SST -/

/-- The value that SLD has loaded, or its map loads (R59). While these are still to come in a divergent warp, the shadow that
they will write stands with the value that s[dst] has (R352). -/
def Env.putScalar (e : Env) (s : State) (n : Nat) (ps : List Piece) (x : W64) : State :=
  match ps.flatMap (Piece.loads n none) with
  | [] => e.setS s n x
  | ms =>
    e.takeLoads (s.modWarp e.ref.core e.ref.slot fun w =>
      if w.divergent then writeS w e.ref.entry n (sHeld w (w.frag e.ref.entry) n) else w) ms

/-- SLD (R217). -/
def execSld (f : Fields) (s : State) : Host.Outcome State Fault Refusal :=
  issue (.sld f) f .lanes (fun e s =>
    let size := sizeOf' f
    match scalarAccess s e 0x37 e.segNo e.offset size .rd with
    | (s, .bad t) => .trap s [t]
    | (s, .wait) => .park s (.other 166)
    | (s, .ok ps) =>
      e.guardS s 0x37 [e.dst] fun _ =>
        if ps.any (Piece.held s (.near e.ref.core) false) then parkLines s (.near e.ref.core) false ps
        else
          let s := touchLoads s (.near e.ref.core) ps
          .done (e.putScalar s e.dst ps (BitVec.ofNat 64 (leNat (loadBytes s (towerOf e.ref.core) e.w ps))))) s

/-- SST (R217). A store to a staging window is the store of one lane (R193). -/
def execSst (f : Fields) (s : State) : Host.Outcome State Fault Refusal :=
  issue (.sst f) f .lanes (fun e s =>
    let size := sizeOf' f
    let data := fun (_ : Nat) => leBytes size (e.s e.dst 4).toNat
    let (s, x) := laneAccess s e e.segNo e.offset 0 size .wr false
    match storeAll e s 0x38 e.segNo size data [(0, withPoison s .wr x)] with
    | .trap s ts => .trap s (ts.map fun t => { t with lanes := e.active })
    | r => r) s

/-! ### Non-temporal stores -/

/-- One lane's pending store: its parts with their bytes. -/
def pendParts : List Piece → List Byte → List PendPart
  | [], _ => []
  | p :: ps, data => ⟨p.addr, BitVec.ofNat 64 p.va, data.take p.len, p.attr⟩ :: pendParts ps (data.drop p.len)

/-- STNT (R223): the checks of R208 steps 1 to 4, and each lane's store is pending. Of two lanes that store the same byte the
higher one's store counts as the later (the model's choice, DESIGN CHOICE, log 83: R223 orders stores of a warp to the same
byte in program order, which two lanes of one STNT do not have). -/
def execStnt (f : Fields) (s : State) : Host.Outcome State Fault Refusal :=
  issue (.stnt f) f .lanes (fun e s =>
    let size := sizeOf' f
    let (s, outs) := accessLanes s e e.segNo size .wr false (e.lanes.map fun L => (L, e.laneOffset L))
    if walksHeld outs then .park s (.other 166)
    else match accessTrap 0x98 e.segNo size .wr outs with
    | some t => .trap s [t]
    | none =>
      let new := (okLanes outs).map fun x => pendParts x.2 (e.regBytes e.dst size x.1)
      .done (s.modWarp e.ref.core e.ref.slot fun w => { w with stnt := w.stnt ++ new })) s

/-- STNT_PERFORM: one pending store of a warp is performed, in any order but after every earlier one to a byte of its
own (R223). -/
def execStntPerform (core slot idx : Nat) (s : State) : Host.Outcome State Fault Refusal :=
  match s.warp core slot with
  | none => .next s
  | some w => match w.stnt[idx]? with
    | none => .next s
    | some st =>
      if !s.pkg.powered || (w.stnt.take idx).any (pendOverlap st) || pendHeld s core st then .next s
      else .next ((performPend s core slot st).modWarp core slot fun w => { w with stnt := dropAt idx w.stnt })

/-- DRAINNT (R224). -/
def execDrainnt (f : Fields) (s : State) : Host.Outcome State Fault Refusal :=
  issue (.drainnt f) f .lanes (fun e s => withDrain e s 0x99 .done) s

/-! ### FENCE and PFT -/

/-- What is left of the stores that fetch may not see, the latest first, once a warp's own have reached their homes: earlier
ones to the same lines have reached them too. -/
def settleLag (mine : CodeLag → Bool) : List CodeLag → List Nat → List CodeLag
  | [], _ => []
  | x :: xs, done =>
    if mine x || done.contains (lineOf x.addr) then settleLag mine xs (lineOf x.addr :: done)
    else x :: settleLag mine xs done

/-- The warp's stores have reached their homes as instruction fetch sees them (R225, R408). -/
def clearLag (s : State) (w : Warp) : State :=
  if s.lag.isEmpty then s else { s with lag := settleLag (fun x => x.wtag == w.tag && x.ctxid == w.ctxid) s.lag [] }

/-- FENCE.code (R225): a drain, after which the warp's stores stand at their homes. -/
def execFenceCode (f : Fields) (s : State) : Host.Outcome State Fault Refusal :=
  issue (.fenceCode f) f .lanes (fun e s => withDrain e s 0x9A fun s => .done (clearLag s e.w)) s

/-- FENCE.io (R225, R414): every CFGWR of the warp has taken effect. A store to the host is performed in the step that makes
it, or is a pending non-temporal store, and those are performed here (R223). -/
def execFenceIo (f : Fields) (s : State) : Host.Outcome State Fault Refusal :=
  issue (.fenceIo f) f .lanes (fun e s =>
    let toHost := fun (p : PendPart) => p.addr / 2 ^ 52 == 65
    let s := performCfgs s e.ref.core e.ref.slot
    if e.w.stnt.any fun st => st.any toHost then
      match drainStores s e.ref.core e.ref.slot with
      | some s => .done s
      | none => .park (holdPends s e.ref.core e.ref.slot) (.other 225)
    else .done s) s

/-- FENCE.eng (R225): every map access and feedback update of the warp is performed, once no line of these is held (R166), and
its later accesses come after its map stores (R59). -/
def execFenceEng (f : Fields) (s : State) : Host.Outcome State Fault Refusal :=
  issue (.fenceEng f) f .lanes (fun e s =>
    if reportsHeld s e.w then .park s (.other 166)
    else
      let s := settleWarpLoads (performMaps s e.ref.core e.ref.slot) e.ref.core e.ref.slot
      .done (performReports (e.observe s [.maps e.w.ctxid e.w.tag]) e.ref.core e.ref.slot)) s

/-- PFT (R226): copies of the lanes' lines, at the near cache or at the L2; a lane that would fail, or whose line is poisoned
or must be waited for, is dropped. R226 gives no access size for the checks of R208: the model takes 1 byte (DESIGN CHOICE,
log 84). -/
def execPft (f : Fields) (s : State) : Host.Outcome State Fault Refusal :=
  issue (.pft f) f .lanes (fun e s =>
    let (s, outs) := checkLanes s e e.segNo 1 .rd e.lanes
    let rd : Reader := if mv f = 1 then .l2 (towerOf e.ref.core) else .near e.ref.core
    let lines := ((okLanes outs).flatMap fun x => x.2.flatMap Piece.lines).filter fun x => !s.lineHeld rd false x.1
    .done (lines.foldl (fun s x => s.prefetch rd x.2 x.1) s)) s

end Sys2Proof.Machine
end

