-- ==== Sys2Proof/Machine/Masks.lean ====
section
/-!
DEFINITION. The mask instructions (spec/11 R254, R255).
-/
namespace Sys2Proof.Machine

/-- The operation of KOP (R254). -/
def kopFn (minor : Nat) (a b : Mask) : Mask :=
  match minor with
  | 0 => a
  | 1 => a &&& b
  | 2 => a ||| b
  | 3 => a ^^^ b
  | 4 => a &&& ~~~b
  | _ => ~~~a

/-- KOP (R254). -/
def execKop (f : Fields) (s : State) : Host.Outcome State Fault Refusal :=
  issue (.kop f) f .lanes (fun e s => .done (e.setK s e.dst (kopFn (mv f) (e.k e.opa 1) (e.k e.opb 2)))) s

/-- KPOP (R254). -/
def execKpop (f : Fields) (s : State) : Host.Outcome State Fault Refusal :=
  issue (.kpop f) f .lanes (scalarRes 0x19 fun e => (BitVec.ofNat 64 (laneCount (e.k e.opa 1)), 0)) s

/-- KFF1 (R254): all ones when no bit is set. -/
def execKff1 (f : Fields) (s : State) : Host.Outcome State Fault Refusal :=
  issue (.kff1 f) f .lanes (scalarRes 0x1A fun e =>
    let m := e.k e.opa 1
    (if m = 0 then BitVec.allOnes 64 else BitVec.ofNat 64 (lowestLane m), 0)) s

/-- KTOS (R254). -/
def execKtos (f : Fields) (s : State) : Host.Outcome State Fault Refusal :=
  issue (.ktos f) f .lanes (scalarRes 0x1B fun e => (e.k e.opa 1, 0)) s

/-- STOK (R254). -/
def execStok (f : Fields) (s : State) : Host.Outcome State Fault Refusal :=
  issue (.stok f) f .lanes (fun e s => .done (e.setK s e.dst (e.s e.opa 1))) s

/-- EXMRD (R254). -/
def execExmrd (f : Fields) (s : State) : Host.Outcome State Fault Refusal :=
  issue (.exmrd f) f .lanes (fun e s => .done (e.setK s e.dst e.exm)) s

/-- exm ← x, as a register result of the fragment (R32, R35, R229). -/
def Env.setExm (e : Env) (s : State) (x : Mask) : State :=
  s.modFrag e.ref fun fr =>
    let (y, log) := runWrite64 e.t fr.run (keyExm 0) fr.exm (x &&& fr.mem)
    { fr with exm := y, run := log }

/-- EXMWR (R254, R255): it executes whatever exm holds. -/
def execExmwr (f : Fields) (s : State) : Host.Outcome State Fault Refusal :=
  issue (.exmwr f) f .always (fun e s => .done (e.setExm s (e.k e.opa 1))) s

end Sys2Proof.Machine
end

