-- ==== Sys2Proof/Machine/MatInstr.lean ====
section
/-!
DEFINITION. The matrix instructions as they issue (spec/14 R291 to R311), and WAITC (spec/11 R252).
-/
namespace Sys2Proof.Machine

/-! ### Issue into the queue (R291, R292, R295, R299) -/

/-- Scalar operands read at issue: `n` registers from each listed one (R292). -/
def Env.scalars (e : Env) (n : Nat) (regs : List Nat) : List W64 := regs.flatMap fun r => (List.range n).map fun i => e.s (r + i) 1

/-- The operation enters its warp's queue (R292): at issue its barrier is checked under R77, and
a failure faults with 0x03 (R299). It waits while the
matrix count stands at 255 (R252), and the warp's stores before it are performed (R293). -/
def enqueue (i : Instr) (major : Nat) (args : Env → List W64) (words : Env → List ((Nat × Nat) × W32)) (e : Env) (s : State) :
    Res :=
  let bar := if bitAt (mv e.f) 3 then some (iv e.f % 2 ^ 23) else none
  match bar.filter fun b => (segCheck (e.seg 1) b 32 true).isSome with
  | some b =>
    .trap s [{ cause := 3, va := BitVec.ofNat 64 b, aux := BitVec.ofNat 32 (1 + 256 * 32), acc := 2, lanes := e.active,
               unit := unitOf major }]
  | none =>
    if 255 ≤ e.w.m.queue.length then .park s (.other 252)
    else match settleStores s e.ref.core e.ref.slot with
    | none => e.parkPends s
    | some s =>
      let (s, n) := s.fresh
      let op : MatOp := ⟨i, e.fr.pc, e.active, args e, words e, n, (s.tower (towerOf e.ref.core)).clock, 0, false, 0⟩
      let s := (s.flow e.w.allBefore (.operation n)).flow e.w.allBefore (.operands n)
      .done (s.modWarp e.ref.core e.ref.slot fun w => { w with m := { w.m with queue := w.m.queue ++ [op] } })

/-- The issuing warp's later accesses come after the completed operations of its queue (R293). -/
def Env.seesMatrix (e : Env) (s : State) : State := e.observe s [.matrix e.w.ctxid e.w.tag]

/-- No operand, and no word of MMOVM. -/
def noArgs (_ : Env) : List W64 := []
def noWords (_ : Env) : List ((Nat × Nat) × W32) := []

/-- MFREE (R300). -/
def execMfree (f : Fields) (s : State) : Host.Outcome State Fault Refusal :=
  issue (.mfree f) f .lanes (enqueue (.mfree f) 0xC1 noArgs noWords) s

/-- MZERO (R301). -/
def execMzero (f : Fields) (s : State) : Host.Outcome State Fault Refusal :=
  issue (.mzero f) f .lanes (enqueue (.mzero f) 0xC2 noArgs noWords) s

/-- MLD.d (R303). -/
def execMldD (f : Fields) (s : State) : Host.Outcome State Fault Refusal :=
  issue (.mldD f) f .lanes (enqueue (.mldD f) 0xC3 (fun e => e.scalars 2 [e.opa]) noWords) s

/-- MLD.f (R303): every lane or none (R295). -/
def execMldF (f : Fields) (s : State) : Host.Outcome State Fault Refusal :=
  issue (.mldF f) f .lanes (fun e s =>
    if e.active ≠ fullMask e.w.width then .trap s [regTrap e 0xC3]
    else enqueue (.mldF f) 0xC3 (fun e => e.scalars 2 [e.opa, e.opb]) noWords e s) s

/-- MST.d (R304). -/
def execMstD (f : Fields) (s : State) : Host.Outcome State Fault Refusal :=
  issue (.mstD f) f .lanes (enqueue (.mstD f) 0xC4 (fun e => e.scalars 2 [e.opa]) noWords) s

/-- MST.f (R304). -/
def execMstF (f : Fields) (s : State) : Host.Outcome State Fault Refusal :=
  issue (.mstF f) f .lanes (enqueue (.mstF f) 0xC4 (fun e => e.scalars 2 [e.opa, e.opb]) noWords) s

/-- MMA (R305). -/
def execMma (f : Fields) (s : State) : Host.Outcome State Fault Refusal :=
  issue (.mma f) f .lanes
    (enqueue (.mma f) 0xC5 (fun e => e.scalars (if 11 ≤ tv f ∧ tv f ≤ 13 then 4 else 2) [e.opa, e.opb]) noWords) s

/-- MADDF (R307). -/
def execMaddf (f : Fields) (s : State) : Host.Outcome State Fault Refusal :=
  issue (.maddf f) f .lanes (enqueue (.maddf f) 0xC6 (fun e => e.scalars 2 [e.opa, e.opb]) noWords) s

/-- MADDM (R307). -/
def execMaddm (f : Fields) (s : State) : Host.Outcome State Fault Refusal :=
  issue (.maddm f) f .lanes (enqueue (.maddm f) 0xC7 noArgs noWords) s

/-- MMULF (R307). -/
def execMmulf (f : Fields) (s : State) : Host.Outcome State Fault Refusal :=
  issue (.mmulf f) f .lanes (enqueue (.mmulf f) 0xC8 noArgs noWords) s

/-- MRCMP (R313): every lane or none (R295). -/
def execMrcmp (f : Fields) (s : State) : Host.Outcome State Fault Refusal :=
  issue (.mrcmp f) f .lanes (fun e s =>
    if e.active ≠ fullMask e.w.width then .trap s [regTrap e 0xC9] else enqueue (.mrcmp f) 0xC9 noArgs noWords e s) s

/-- MDNS (R308). -/
def execMdns (f : Fields) (s : State) : Host.Outcome State Fault Refusal :=
  issue (.mdns f) f .lanes (enqueue (.mdns f) 0xCA noArgs noWords) s

/-- MSCL (R308). -/
def execMscl (f : Fields) (s : State) : Host.Outcome State Fault Refusal :=
  issue (.mscl f) f .lanes (enqueue (.mscl f) 0xCD (fun e => if f.bimm then [] else [e.s e.opb 2]) noWords) s

/-! ### Moves between tiles and lanes (R309) -/

/-- The 8n registers from `first` upward are not all there: above v255 or outside the grant (R309, R232). -/
def moveRefused (e : Env) (first : Nat) : Bool :=
  let n := 8 * (64 / e.w.width)
  decide (256 < first + n) || decide (64 + 32 * e.w.r.xgrant < first + n)

/-- MMOVM (R309): its vector registers are read at issue. -/
def execMmovm (f : Fields) (s : State) : Host.Outcome State Fault Refusal :=
  issue (.mmovm f) f .always (fun e s =>
    let n := 8 * (64 / e.w.width)
    if moveRefused e e.opa then .trap s [illegal e (.mmovm f)]
    else if e.active = 0 then .done s
    else
      let ws := Opd.words (.vec n 1) e.opa e.ref.slot e.w.width e.lanes
      match ws.find? fun x => (s.core e.ref.core).bad.contains x with
      | some x => .trap s [{ cause := 0x15, va := BitVec.ofNat 64 (wordOffset e.ref.core x), lanes := e.active,
                             unit := unitOf 0xCF, acc := 1 }]
      | none =>
        let s := correctWords s e.ref.core ws
        enqueue (.mmovm f) 0xCF noArgs
          (fun e => e.lanes.flatMap fun L => (List.range n).map fun q => ((L, q), e.v (e.opa + q) L 1)) e s) s

/-- What an instruction that is not counted waits for: the last operation issued before it, or none when the queue holds
no earlier one (R292). -/
def matWait (e : Env) : Option Nat :=
  match e.fr.wait with
  | some (.matrix n) => if e.w.m.queue.any fun o => decide (o.seq ≤ n) then some n else none
  | _ => (e.w.m.queue.getLast?).map fun o => o.seq

/-- MMOVV (R309). -/
def execMmovv (f : Fields) (s : State) : Host.Outcome State Fault Refusal :=
  issue (.mmovv f) f .always (fun e s =>
    let n := 64 / e.w.width
    if moveRefused e e.dst then .trap s [illegal e (.mmovv f)]
    else if e.active = 0 then .done s
    else match matWait e with
    | some x => .park s (.matrix x)
    | none =>
      let k := s.core e.ref.core
      let m := e.w.mreg e.opa
      let rows := rowSet e.w.width e.active
      match (goodRows k m.valueWords rows).2 with
      | some (_, x) => .trap s [{ cause := 0x15, va := BitVec.ofNat 64 (wordOffset e.ref.core (.cell x.1 x.2)), acc := 1,
                                  lanes := e.active, unit := unitOf 0xCE }]
      | none =>
        let c := iv f % 8
        let vs := rows.map fun i =>
          if m.dense then (i, ((k.cellWords (m.rowWords i)).drop (8 * c)).take 8, 0)
          else
            let (x, fl) := dotRow (List.replicate 8 0) (uRow k m i) (((columns 64 (vRows k m)).drop (8 * c)).take 8)
            (i, x, fl)
        let s := correctCells s e.ref.core (rows.flatMap m.valueWords)
        let s := vs.foldl (fun s x => ((x.2.1).zip (List.range 8)).foldl (fun s y =>
          e.setV s (e.dst + 8 * (x.1 % n) + y.2) (x.1 / n) (BitVec.ofNat 32 y.1)) s) s
        .done (e.seesMatrix (e.raise s (orFlags (vs.map fun x => x.2.2))))) s

/-! ### Reserving and reading state (R300, R310, R311) -/

/-- MRSV (R300): first the earlier operations, then its place in the core's reservation order. -/
def execMrsv (f : Fields) (s : State) : Host.Outcome State Fault Refusal :=
  issue (.mrsv f) f .lanes (fun e s =>
    let mine := fun (x : Nat × Nat × Nat × Nat) => x.1 == e.ref.slot && x.2.1 == e.ref.entry
    let queued := e.fr.wait == some (.other 300) && (s.core e.ref.core).mrsv.any mine
    match (if queued then none else matWait e) with
    | some x => .park s (.matrix x)
    | none =>
      let need := iv f - (e.w.mreg e.dst).res
      if need = 0 then .done (s.modCore e.ref.core fun k => { k with mrsv := k.mrsv.filter fun x => !mine x })
      else
        let s := if queued then s
          else s.modCore e.ref.core fun k => { k with mrsv := k.mrsv ++ [(e.ref.slot, e.ref.entry, e.dst, iv f)] }
        if ((s.core e.ref.core).mrsv.head?.any mine) then
          match takeCells s e.ref.core e.ref.slot e.dst (iv f) with
          | some s => .done (s.modCore e.ref.core fun k => { k with mrsv := k.mrsv.drop 1 })
          | none => .park s (.other 300)
        else .park s (.other 300)) s

/-- MRANK (R310). -/
def execMrank (f : Fields) (s : State) : Host.Outcome State Fault Refusal :=
  issue (.mrank f) f .lanes (fun e s =>
    match matWait e with
    | some x => .park s (.matrix x)
    | none =>
      let m := e.w.mreg e.opa
      e.guardS s 0xCB [e.dst] fun _ =>
        .done (e.seesMatrix (e.setS s e.dst (BitVec.ofNat 64 (m.res * 2 ^ 16 + (if m.dense then 2 ^ 8 else m.rank)))))) s

/-- MRANK.err (R310): the latch is read and cleared. -/
def execMrankErr (f : Fields) (s : State) : Host.Outcome State Fault Refusal :=
  issue (.mrankErr f) f .lanes (fun e s =>
    match matWait e with
    | some x => .park s (.matrix x)
    | none =>
      e.guardS s 0xCB [e.dst] fun _ =>
        let x := match e.w.m.err with
          | some (cause, row) => 2 ^ 15 + row * 2 ^ 8 + cause
          | none => 0
        .done (e.seesMatrix (e.setS (s.modWarp e.ref.core e.ref.slot fun w => { w with m := { w.m with err := none } }) e.dst
          (BitVec.ofNat 64 x)))) s

/-- The warp in a slot of the issuing core, when a fragment of it is stopped (R311). -/
def stoppedWarp (e : Env) (s : State) (slot : Nat) : Option Warp :=
  (s.warp e.ref.core slot).bind fun w => if w.frags.any fun fr => fr.st == .stopped then some w else none

/-- The trap of a privileged target that names no suitable warp (R386). -/
def noTarget (e : Env) (major : Nat) : Trap := { cause := 2, aux := 15, lanes := e.active, unit := unitOf major }

/-- MROWP (R311), in supervisor warps only (R295). -/
def execMrowp (f : Fields) (s : State) : Host.Outcome State Fault Refusal :=
  issue (.mrowp f) f .always (fun e s =>
    if !s.ctxSup e.w.cslot then .trap s [illegal e (.mrowp f)]
    else if e.active = 0 then .done s
    else
      let a := (e.s e.opa 1).toNat
      if 128 ≤ a then .trap s [regTrap e 0xCC]
      else match stoppedWarp e s a with
      | none => .trap s [noTarget e 0xCC]
      | some w => e.guardS s 0xCC [e.dst] fun _ =>
        .done (e.setS s e.dst (BitVec.ofNat 64 (if w.m.held then w.m.rowp else 0)))) s

/-- MROWP.set (R311), in supervisor warps only (R295). -/
def execMrowpSet (f : Fields) (s : State) : Host.Outcome State Fault Refusal :=
  issue (.mrowpSet f) f .always (fun e s =>
    if !s.ctxSup e.w.cslot then .trap s [illegal e (.mrowpSet f)]
    else if e.active = 0 then .done s
    else
      let a := (e.s e.opa 1).toNat
      let x := (e.s e.opb 2).toNat
      if 128 ≤ a ∨ 64 < x then .trap s [regTrap e 0xCC]
      else match stoppedWarp e s a with
      | none => .trap s [noTarget e 0xCC]
      | some w =>
        if w.m.held then .done (s.modWarp e.ref.core a fun w => { w with m := { w.m with rowp := x } })
        else .trap s [noTarget e 0xCC]) s

/-! ### WAITC (R252) -/

/-- WAITC (R252): .mat, .trv or .all. -/
def execWaitc (f : Fields) (s : State) : Host.Outcome State Fault Refusal :=
  issue (.waitc f) f .flow (fun e s =>
    let mat := e.w.m.queue.length
    let trv := e.w.trv.length
    let ok := match mv f with
      | 0 => decide (mat ≤ iv f)
      | 1 => decide (trv ≤ iv f)
      | _ => decide (mat ≤ iv f) && decide (trv ≤ iv f)
    if e.active = 0 then .done s
    else if ok then .done (if mv f = 1 then s else e.seesMatrix s)
    else .park s (.other 252)) s

end Sys2Proof.Machine
end

