-- ==== Sys2Proof/Machine/Tokens.lean ====
section
/-!
DEFINITION. The token messages as steps of the device (spec/07 R155 to R158, spec/12 R283). An access that a lane makes
performs the moves its tokens need in its own step (Coherence.lean); these steps move tokens besides.
-/
namespace Sys2Proof.Machine

/-! ### Messages -/

/-- The first message to a destination. -/
def TokenBank.firstTo (b : TokenBank) (dest : Option Nat) : Option Nat := findIdxFrom (fun m => m.dest == dest) 0 b.msgs
/-- A near cache's request for the line. -/
def TokenBank.req (b : TokenBank) (core : Nat) : Option LineReq := b.reqs.find? fun r => r.core == core
/-- A near cache's request changed or ended. -/
def TokenBank.setReq (b : TokenBank) (core : Nat) (r : Option LineReq) : TokenBank :=
  { b with reqs := (b.reqs.filter fun x => x.core != core) ++ r.toList }

/-- Everything a near cache holds, sent to a destination; it holds the line no more (R155). -/
def TokenBank.sendAll (b : TokenBank) (core : Nat) (dest : Option Nat) : TokenBank :=
  match b.held core with
  | none => b
  | some h => { b with near := b.near.filter fun x => x.core != core }.send dest h.tokens h.owner h.owner
/-- A message arrives at its destination. Under an active persistent request what arrives anywhere else is forwarded
to the requester (R157). -/
def TokenBank.arrive (b : TokenBank) (i : Nat) (active : Option Nat) : TokenBank :=
  match b.msgs[i]? with
  | none => b
  | some m =>
    let b := { b with msgs := dropAt i b.msgs }
    match m.dest, active with
    | none, some r => { b.send (some r) m.tokens m.owner m.owner with sentTo := if m.owner then some r else b.sentTo }
    | none, none => { b with home := b.home + m.tokens, homeOwner := b.homeOwner || m.owner }
    | some c, some r => if c = r then b.give c m.tokens m.owner m.data else (b.give c m.tokens m.owner m.data).sendAll c (some r)
    | some c, none => b.give c m.tokens m.owner m.data

/-! ### Persistent requests (R157, R283) -/

/-- The tokens move to the requester of the active persistent request: the home's and every other near cache's. -/
def TokenBank.forwardAll (b : TokenBank) (core : Nat) : TokenBank :=
  let b := b.near.foldl (fun b h => if h.core = core then b else b.sendAll h.core (some core)) b
  b.homeAll core

/-- What a request does at the home when it arrives or is served after being held (R155). -/
def TokenBank.serve (b : TokenBank) (r : LineReq) : TokenBank :=
  if b.satisfied r then b
  else if r.write then
    let b := b.near.foldl (fun b h => if h.core = r.core then b else b.sendAll h.core (some r.core)) b
    b.homeAll r.core
  else if b.homeOwner then
    if b.home = 1 then b.homeAll r.core
    else { b.send (some r.core) 1 false true with home := b.home - 1 }
  else match b.sentTo with
    | some h => { b with fwd := b.fwd ++ [(h, r.core)] }
    | none => b

/-- A line's bank of a tower replaced. -/
def State.setBankOf (s : State) (ln tower : Nat) (b : TokenBank) : State := s.setLine ln ((s.line ln).setBank tower b)
/-- Has the layer of a core been flushed by a change that takes it out of the compute role (R53)? -/
def State.flushed (s : State) (core : Nat) : Bool :=
  let t := s.tower (towerOf core)
  t.changing.any fun x => x.1 == layerOf core && decide (x.2 < t.k) && t.step != 1
/-- May a near cache of a core act now? -/
def nearLive (s : State) (core ln : Nat) : Bool :=
  s.pkg.powered && s.running core && !s.flushed core && (isRemote (ln * 128) || (homeTower (ln * 128)).isSome)

/-- A request by a near cache that has none for the line (R155); the home holds it while a persistent request for the
line is active (R283). -/
def newRequest (core ln : Nat) (write : Bool) (s : State) : Host.Outcome State Fault Refusal :=
  let t := towerOf core
  let b := (s.line ln).bank t
  let r : LineReq := ⟨core, write, 0, false, (s.tower t).clock, (activeReq s t ln).isSome, false⟩
  if nearLive s core ln && (b.req core).isNone && !b.satisfied r then
    let b := b.setReq core (some r)
    .next (s.setBankOf ln t (if r.held then b else b.serve r))
  else .next s

/-- READ_REQUEST (R155). -/
def execReadRequest (core line : Nat) (s : State) : Host.Outcome State Fault Refusal := newRequest core line false s

/-- WRITE_REQUEST (R155): every holder sends what it holds. -/
def execWriteRequest (core line : Nat) (s : State) : Host.Outcome State Fault Refusal := newRequest core line true s

/-- The first message to a near cache arrives; its transient request ends once it holds what R154 asks. -/
def replyArrives (core ln : Nat) (write : Bool) (s : State) : Host.Outcome State Fault Refusal :=
  let t := towerOf core
  let b := (s.line ln).bank t
  match b.firstTo (some core) with
  | none => .next s
  | some i =>
    if !s.pkg.powered || !((b.req core).all fun r => r.write == write) then .next s
    else
      let b := b.arrive i (activeReq s t ln)
      let b := match b.req core with
        | some r => if b.satisfied r && !r.persistent then b.setReq core none else b
        | none => b
      .next (s.setBankOf ln t b)

/-- READ_REPLY (R155): a token and data arrive at the near cache. -/
def execReadReply (core line : Nat) (s : State) : Host.Outcome State Fault Refusal := replyArrives core line false s

/-- WRITE_REPLY (R155): a holder's tokens arrive at the writer. -/
def execWriteReply (core line : Nat) (s : State) : Host.Outcome State Fault Refusal := replyArrives core line true s

/-- FORWARDED_READ (R155, R283): the oldest read forwarded for a core reaches its holder, which answers when it holds
the owner token and another; else it is discarded. -/
def execForwardedRead (core line : Nat) (s : State) : Host.Outcome State Fault Refusal :=
  let t := towerOf core
  let b := (s.line line).bank t
  match findIdxFrom (fun x => x.2 == core) 0 b.fwd with
  | none => .next s
  | some i =>
    if !s.pkg.powered then .next s
    else
      let h := ((b.fwd[i]?).map fun x => x.1).getD 0
      let b := { b with fwd := dropAt i b.fwd }
      let answers := (b.held h).any (fun x => x.owner && decide (2 ≤ x.tokens)) && activeReq s t line != some h
      .next (s.setBankOf line t (if answers then
        TokenBank.send { b with near := b.near.map fun x => if x.core = h then { x with tokens := x.tokens - 1 } else x }
          (some core) 1 false true else b))

/-- A near cache's tokens sent home, or to the requester of an active persistent request (R155, R157). -/
def evictLine (s : State) (core ln : Nat) : State :=
  let t := towerOf core
  let b := ((s.line ln).bank t).sendAll core (activeReq s t ln)
  s.setBankOf ln t b

/-- EVICTION (R155): the eviction's tokens are in flight until they land; a later EVICTION of the same core, which then
holds nothing, is its landing (R158). -/
def execEviction (core line : Nat) (s : State) : Host.Outcome State Fault Refusal :=
  let t := towerOf core
  let b := (s.line line).bank t
  if !s.pkg.powered then .next s
  else if (b.held core).isSome then .next (evictLine s core line)
  else match b.firstTo none with
    | some i => .next (s.setBankOf line t (b.arrive i (activeReq s t line)))
    | none => .next s

/-- RECALL (R155): every near cache of the tower answers with an eviction. -/
def execRecall (tower line : Nat) (s : State) : Host.Outcome State Fault Refusal :=
  if s.pkg.powered && decide (tower < 2) then
    .next (((s.line line).bank tower).near.foldl (fun s h => evictLine s h.core line) s)
  else .next s

/-- TRANSIENT_TIMEOUT (R156, R283): a try that 256 cycles of the tower's clock have not satisfied fails, unless the home
holds it; the requester keeps its tokens and tries again, and after the fourth failure its request becomes persistent. The
new try is held in turn while a persistent request for the line is active. -/
def execTransientTimeout (core line : Nat) (s : State) : Host.Outcome State Fault Refusal :=
  let t := towerOf core
  let b := (s.line line).bank t
  let now := (s.tower t).clock
  match b.req core with
  | none => .next s
  | some r =>
    if !s.pkg.powered || r.persistent || b.satisfied r || r.held || decide (now < r.since + 256) then .next s
    else if r.tries = 3 then .next (s.setBankOf line t (b.setReq core (some { r with tries := 4, persistent := true })))
    else
      let r := { r with tries := r.tries + 1, since := now, held := (activeReq s t line).isSome, served := false }
      let b := b.setReq core (some r)
      .next (s.setBankOf line t (if r.held then b else b.serve r))

/-- The persistent request that is active for a line collects every token of the tower. -/
def forwardActive (s : State) (t ln : Nat) : State :=
  match activeReq s t ln with
  | some c => s.setBankOf ln t (((s.line ln).bank t).forwardAll c)
  | none => s

/-- PERSISTENT_REQUEST (R157): the request enters its slice's table, or the queue behind it, in arrival order. -/
def execPersistentRequest (core line : Nat) (s : State) : Host.Outcome State Fault Refusal :=
  let t := towerOf core
  let b := (s.line line).bank t
  if s.pkg.powered && ((b.req core).any fun r => r.persistent) && !(s.pers.any fun p => p.core == core && p.line == line) then
    .next (forwardActive { s with pers := s.pers ++ [⟨reqSlice t line, line, core⟩] } t line)
  else .next s

/-- The requests that are active in a slice's table collect their tokens, those that have just entered it among them. -/
def forwardSlice (s : State) (t slice : Nat) : State :=
  ((s.pers.filter fun p => p.slice == slice).take 16).foldl (fun s p => forwardActive s t p.line) s

/-- Where no persistent request for a line is active, the tries that the home held are served in arrival order; the time they
were held does not count (R283). -/
def serveHeld (s : State) (t ln : Nat) : State :=
  let b := (s.line ln).bank t
  if (activeReq s t ln).isSome || !b.reqs.any LineReq.held then s
  else
    let held := b.reqs.filter LineReq.held
    let b := { b with reqs := b.reqs.map fun r =>
      if r.held then { r with since := (s.tower t).clock, held := false, served := true } else r }
    s.setBankOf ln t (held.foldl TokenBank.serve b)

/-- PERSISTENT_REQUEST_END (R157, R283): the satisfied requester deactivates its request, and the table takes the next of
its queue; then the held tries are served. -/
def execPersistentRequestEnd (core line : Nat) (s : State) : Host.Outcome State Fault Refusal :=
  let t := towerOf core
  let b := (s.line line).bank t
  match b.req core with
  | none => .next s
  | some r =>
    if s.pkg.powered && activeReq s t line = some core && b.satisfied r then
      let s := { s with pers := s.pers.filter fun p => !(p.core == core && p.line == line) }
      .next (serveHeld (forwardSlice (s.setBankOf line t (b.setReq core none)) t (reqSlice t line)) t line)
    else .next s

end Sys2Proof.Machine
end

