-- ==== Sys2Proof/Machine/Roles.lean ====
section
/-!
DEFINITION. Changing a layer's role (spec/02 R50 to R54), writes of registers as steps of their own (spec/22 R411 to
R415), and the histogram monitors (spec/22 R426, R427).
-/
namespace Sys2Proof.Machine

/-! ### The role register (R50 to R52) -/

/-- TROLE_KTARGET (R51). -/
def execTroleKtarget (tower k : Nat) (clear : Bool) (s : State) : Host.Outcome State Fault Refusal :=
  if s.pkg.powered && decide (tower < 2) then .next (putTarget (if clear then clearErr s tower else s) tower (k % 8))
  else .next s

/-- TROLE_DMASK (R50, R52). -/
def execTroleDmask (tower mask : Nat) (s : State) : Host.Outcome State Fault Refusal :=
  if s.pkg.powered && decide (tower < 2) then .next (putDmask s tower (BitVec.ofNat 4 mask)) else .next s

/-- TROLE_ERR_CLEAR (R50). -/
def execTroleErrClear (tower : Nat) (s : State) : Host.Outcome State Fault Refusal :=
  if s.pkg.powered && decide (tower < 2) then .next (clearErr s tower) else .next s

/-! ### The steps of a role change (R53) -/

/-- Tokens that come home. -/
def TokenBank.home1 (b : TokenBank) (tokens : Nat) (owner : Bool) : TokenBank :=
  { b with home := b.home + tokens, homeOwner := b.homeOwner || owner, sentTo := if owner then none else b.sentTo }

/-- The near caches of some cores return all their tokens, those in flight to them too, and ask for nothing more. -/
def TokenBank.flush (b : TokenBank) (on : Nat → Bool) : TokenBank :=
  let toOn := fun (m : TokenMsg) => m.dest.any on
  let b' := { b with near := b.near.filter fun h => !on h.core, msgs := b.msgs.filter fun m => !toOn m,
                     reqs := b.reqs.filter fun r => !on r.core, fwd := b.fwd.filter fun x => !on x.1 && !on x.2 }
  let b' := (b.near.filter fun h => on h.core).foldl (fun b h => b.home1 h.tokens h.owner) b'
  (b.msgs.filter toOn).foldl (fun b m => b.home1 m.tokens m.owner) b'

/-- A core with its storage zeroed and its granules empty (R53). -/
def Core.zeroed (k : Core) : Core := { ({} : Core) with xplim := k.xplim, purse := k.purse, records := k.records }

/-- The near caches and the storage of a layer's cores empty (R53): at the flush of a layer that leaves the compute role,
and when one that takes it is ungated. -/
def flushLayer (s : State) (t j : Nat) : State :=
  let on := fun (p : Nat) => decide (p / 32 = 4 * t + j)
  let s := { s with pers := s.pers.filter fun p => !on p.core }
  let s := s.mapLines fun _ x => x.setBank t ((x.bank t).flush on)
  let s := s.pers.foldl (fun s p => forwardActive s t p.line) s
  let s := s.lines.foldl (fun s x => serveHeld s t x.1) s
  { s with cores := (s.cores.zip (List.range 256)).map fun x => if on x.2 then x.1.zeroed else x.1,
           past := s.past.filter fun m => !on m.core }

/-- Re-enumeration (R53): the new count, the epoch, the event, and the layer's dmask bit. -/
def reEnumerate (s : State) (t j new : Nat) : State :=
  let old := (s.tower t).k
  let s := s.modTower t fun w =>
    { w with k := new, changing := none, step := 0, dmask := w.dmask &&& ~~~(BitVec.ofNat 4 (2 ^ j)) }
  let s := { s with pkg := { s.pkg with epoch := s.pkg.epoch + 1 } }
  s.bbEvent 4 0xFF 0 (t + 4 * old + 32 * new + 2 ^ 16 * s.pkg.epoch.toNat)

/-- ROLE_CHANGE (R53): the step that a tower's change stands at is performed, and the next one begins. -/
def execRoleChange (tower : Nat) (s : State) : Host.Outcome State Fault Refusal :=
  match (s.tower tower).changing with
  | none => .next s
  | some (j, new) =>
    if !s.pkg.powered then .next s
    else
      let falls := decide (new < (s.tower tower).k)
      match (s.tower tower).step.toNat with
      | 1 => .next ((if falls then flushLayer s tower j else s).modTower tower fun w => { w with step := 2 })
      | 2 => .next ((if falls then s else flushLayer s tower j).modTower tower fun w => { w with step := 3 })
      | _ => .next (reEnumerate s tower j new)

/-! ### Register writes as steps of their own (R411 to R415) -/

/-- QCTL_WRITE (R364). -/
def execQctlWrite (cslot queue : Nat) (val : W64) (s : State) : Host.Outcome State Fault Refusal :=
  if s.pkg.powered && decide (cslot < 64) && decide (queue < 16) then .next (putQctl s cslot queue val.toNat) else .next s

/-- QCTL_ERR_CLEAR (R364). -/
def execQctlErrClear (cslot queue : Nat) (s : State) : Host.Outcome State Fault Refusal :=
  if s.pkg.powered && decide (cslot < 64) && decide (queue < 16) then
    .next (checkOverrun (s.modQueue cslot queue fun q => { q with err := false }) cslot queue)
  else .next s

/-- May the host write to a context slot's block (R393, R415)? -/
def hostMayWrite (s : State) (cslot : Nat) : Bool := s.pkg.hostLink && !s.ctxSup cslot

/-- QTAIL_WRITE (R364, R415): a doorbell of the host, or a write by system software. -/
def execQtailWrite (host : Bool) (cslot queue : Nat) (val : W32) (s : State) : Host.Outcome State Fault Refusal :=
  if s.pkg.powered && decide (cslot < 64) && decide (queue < 16) && (!host || hostMayWrite s cslot) then
    .next (putQtail s cslot queue val.toNat)
  else .next s

/-- LLEN_WRITE (R163). -/
def execLlenWrite (tower cls : Nat) (val : W32) (s : State) : Host.Outcome State Fault Refusal :=
  if s.pkg.powered && decide (tower < 2) then .next (putLlen s tower cls val.toNat) else .next s

/-- MCOINR_WRITE (R316). -/
def execMcoinrWrite (tower : Nat) (val : W32) (s : State) : Host.Outcome State Fault Refusal :=
  if s.pkg.powered && decide (tower < 2) then .next (putMcoinr s tower val.toNat) else .next s

/-- XPLIM_WRITE (R233). -/
def execXplimWrite (core : Nat) (val : W32) (s : State) : Host.Outcome State Fault Refusal :=
  if s.pkg.powered then .next (putXplim s core val.toNat) else .next s

/-- ECBASE_WRITE (R411). -/
def execEcbaseWrite (comb : Nat) (val : W64) (s : State) : Host.Outcome State Fault Refusal :=
  if s.pkg.powered then .next (putEcbase s comb val.toNat) else .next s

/-- ECSIZE_WRITE (R411). -/
def execEcsizeWrite (comb : Nat) (val : W32) (s : State) : Host.Outcome State Fault Refusal :=
  if s.pkg.powered then .next (putEcsize s comb val.toNat) else .next s

/-- REGISTER_WRITE (R412, R415): by the host in the context blocks, by the management cluster, or by a supervisor warp. -/
def execRegisterWrite (writer : MmioWriter) (offset size : Nat) (val : W64) (s : State) :
    Host.Outcome State Fault Refusal :=
  match mmioPart offset size with
  | none => .next s
  | some (r, p) =>
    let may := match writer with
      | .host => decide (0x10000 ≤ offset ∧ offset < 0x50000) && hostMayWrite s ((offset - 0x10000) / 0x1000)
      | .management => true
      | .supervisorWarp => s.warps.any fun x => s.ctxSup x.2.2.cslot
    if s.pkg.powered && may then .next (mmioWrite s (writer == .management) r p (val.toNat % 2 ^ (8 * size)))
    else .next s

/-! ### Histogram monitors (R426, R427) -/

/-- MONITOR_CLEAR (R427). -/
def execMonitorClear (m : Nat) (s : State) : Host.Outcome State Fault Refusal :=
  if s.pkg.powered then .next (s.modMonitor m Monitor.cleared) else .next s

/-- The bin that takes a value (R427). -/
def monitorBin (v : Nat) : Nat := if v = 0 then 0 else min 15 (Nat.log2 v + 1)

/-- A value counted (R427). -/
def Monitor.count (m : Monitor) (v : Nat) : Monitor :=
  { m with
    mmin := BitVec.ofNat 32 (min m.mmin.toNat v)
    mmax := BitVec.ofNat 32 (min 0xFFFFFFFF (max m.mmax.toNat v))
    bins := modAt (fun b => if b = 0xFFFFFFFF then b else b + 1) (monitorBin v) m.bins }

/-- Is a value the one that a monitor counts next (R426)? It is what was seen, or no less where that is a bound (log 61). -/
def sampleFits (m : Monitor) (v : Nat) : Bool :=
  match m.seen with
  | [] => false
  | (x, exact) :: _ => if exact then v == x else decide (x ≤ v)

/-- MONITOR_SAMPLE (R426, R427). -/
def execMonitorSample (m val : Nat) (s : State) : Host.Outcome State Fault Refusal :=
  if s.pkg.powered && sampleFits (s.monitor m) val then
    .next (s.modMonitor m fun x => { x.count val with seen := x.seen.drop 1 })
  else .next s

end Sys2Proof.Machine
end

