-- ==== Sys2Proof/Machine/Platform.lean ====
section
/-!
DEFINITION. Starts, the life cycle and attestation (spec/22 R421 to R425), the host and the management cluster (R415,
spec/03 R60), links (R416), the global time base (R418), and thermal protection and the purse refill (R419, spec/14 R316).
-/
namespace Sys2Proof.Machine

/-! ### Starts (R421 to R423) -/

/-- GTIME set from its reference at a start: it never decreases, so a reference that is behind is waited for. -/
def startTime (s : State) (time : Nat) : Nat := if s.pkg.powered then max s.pkg.gtime time else time

/-- Does memory at a key outlive a start: an outside agent's always, the black box at a warm start (R421)? -/
def outlives (warm : Bool) (key : Nat) : Bool := isRemote key || (warm && decide (key < 2 ^ 20))

/-- A port trained: every one at a cold start, those that went down at a warm start. It reaches the peers it reached. -/
def trainPort (warm : Bool) (p : Port) : Port := if warm && p.up then p else { peers := p.peers }

/-- The package after a start. The link identifier is the resident kernel's to write during boot (R416). -/
def startPackage (s : State) (warm : Bool) (time : Nat) : Package :=
  let p := s.pkg
  { gtime := startTime s time
    hold := startTime s time - time
    timeRef := p.timeRef
    hostLink := p.hostLink
    bootWarm := warm
    lcstate := if warm then p.lcstate else p.lcNext.getD p.lcstate
    lcNext := if warm then p.lcNext else none
    bbseq := if warm then p.bbseq else 0
    epoch := if warm then p.epoch else 0
    quotes := p.quotes
    ports := p.ports.map (trainPort warm)
    hosted := p.hosted }

/-- The device after a start with given compute-layer counts (R421). -/
def startState (s : State) (warm fell : Bool) (k0 k1 time : Nat) : State :=
  let g := startTime s time
  State.bbEvent
    { State.reset with
      pkg := startPackage s warm time
      towers := [{ k := k0, pts := g }, { k := k1, pts := g }]
      mem := s.mem.filter fun x => outlives warm x.1
      poison := s.poison.filter fun ln => outlives warm (ln * 128)
      packed := s.packed.filter fun b => outlives warm (b * 256)
      agenda := s.agenda
      tick := s.tick
      cur := s.cur
      seq := s.seq }
    8 0xFF 0 (b2n warm + 2 * (startPackage s warm time).lcstate.toNat + 16 * b2n fell)

/-- COLD_START (R421): the boot firmware chooses each tower's count. -/
def execColdStart (k0 k1 time : Nat) (s : State) : Host.Outcome State Fault Refusal :=
  if k0 ≤ 3 ∧ k1 ≤ 3 then .next (startState s false false k0 k1 time) else .next s

/-- The count that a tower's ktarget reads: the last accepted one, also while its change is in progress (R50). -/
def Tower.target (t : Tower) : Nat := (t.changing.map fun x => x.2).getD t.k

/-- WARM_START (R421): a stored training result or digest cache that fails its check makes it a cold start; else each tower
starts with its previous ktarget. -/
def execWarmStart (time : Nat) (checkFails : Bool) (s : State) : Host.Outcome State Fault Refusal :=
  if !s.pkg.powered then .next s
  else if checkFails then .next (startState s false true (choose s.tick 7100 4) (choose s.tick 7101 4) time)
  else .next (startState s true false (s.tower 0).target (s.tower 1).target time)

/-- Is a change of the life-cycle state allowed (R423)? -/
def lcAllowed (a b : Nat) : Bool := [(0, 1), (1, 2), (2, 3), (3, 1), (3, 4)].contains (a, b)

/-- LIFECYCLE_CHANGE (R423): recorded for the next cold start, or refused with its event. -/
def execLifecycleChange (signed : Bool) (state : Nat) (s : State) : Host.Outcome State Fault Refusal :=
  if !s.pkg.powered then .next s
  else if signed && lcAllowed s.pkg.lcstate.toNat state then
    .next { s with pkg := { s.pkg with lcNext := some (BitVec.ofNat 3 state) } }
  else .next (s.bbEvent 9 0xFF 0 0xF)

/-- The identity key of a life-cycle state (R424), by a number in which the state stands too, so that the keys of two states
differ. -/
def identityKey (lc : Nat) : Nat := Config.identityKey lc * 8 + lc % 8

/-- QUOTE (R424): none in RETIRED. -/
def execQuote (nonce : Nat) (s : State) : Host.Outcome State Fault Refusal :=
  let lc := s.pkg.lcstate.toNat
  if s.pkg.powered && s.pkg.bootStep == 0xFF && lc != 4 then
    let n := nonce % 2 ^ 256
    let k0 := (s.tower 0).k
    let k1 := (s.tower 1).k
    let ep := s.pkg.epoch.toNat
    let sig := Config.quoteSignature (identityKey lc) ([n, lc, k0, k1, ep] ++ Config.firmwareMeasurements)
    .next { s with pkg := { s.pkg with quotes := s.pkg.quotes ++ [⟨n, lc, k0, k1, ep, Config.firmwareMeasurements, sig⟩] } }
  else .next s

/-- POWER_LOSS (R425): nothing happens any more until a cold start; what cores still held for the black box is lost. -/
def execPowerLoss (s : State) : Host.Outcome State Fault Refusal :=
  .next { s with pkg := { s.pkg with powered := false, hostLink := false } }

/-! ### Physical accesses from outside programs (R60, R415) -/

/-- Does every byte of a range lie in memory that programs use: backed, not metadata (R60, R61)? -/
def plainMemory (a n : Nat) : Bool :=
  let window := if inHbm a then 2 ^ 36 else 2 ^ 37
  n != 0 && (homeTower a).isSome && inHbm a == inHbm (a + n - 1) && a / window == (a + n - 1) / window &&
    !inMetadata a && !inMetadata (a + n - 1)

/-- May the host reach a range (R415)? -/
def hostReaches (s : State) (a n : Nat) : Bool :=
  plainMemory a n && decide (2 ^ 20 ≤ a) && !(s.pkg.cdtbase != 0 && meets a n s.pkg.cdtbase.toNat 4096)

/-- A host read: a class-4 lease on each line (R415). -/
def hostRead (s : State) (a n : Nat) : State :=
  let bs := s.bytes a n
  { (linesOf a n).foldl (fun s ln => outsideRead s .host ln 4) s with reply := bs }

/-- The parts of a range in its lines. -/
def lineParts (a : Nat) (data : List Byte) : List (Nat × List Byte) :=
  (linesOf a data.length).map fun ln =>
    let lo := max a (ln * 128)
    (lo, (data.drop (lo - a)).take (ln * 128 + 128 - lo))

/-- A host write: each line is owned, written and returned (R161); its attribute becomes 0 (R89). -/
def hostWrite (s : State) (a : Nat) (data : List Byte) : State :=
  (lineParts a data).foldl (fun s x =>
    let s := outsideStore s .host x.1 x.2
    s.setLine (lineOf x.1) { s.line (lineOf x.1) with attr := false }) { s with reply := [] }

/-- A host access through BAR index 4, which must wait as R166 says, or which reaches nothing and reads all ones. A poisoned
line answers with no data. -/
def hostMemory (addr len : Nat) (data : Option (List Byte)) (s : State) : Host.Outcome State Fault Refusal :=
  let n := (data.map List.length).getD len
  if n = 0 || decide (2 ^ 42 < addr + n) then .next s
  else if !hostReaches s addr n then
    .next { s with reply := match data with
      | some _ => []
      | none => List.replicate n 0xFF }
  else if !s.granting .host || (linesOf addr n).any (fun ln => if data.isSome then s.writeHeld ln else s.readHeld ln) then .next s
  else if s.poisoned addr n then .next { s with reply := [] }
  else match data with
    | some bs => .next (hostWrite s addr bs)
    | none => .next (hostRead s addr n)

/-- A host access through BAR index 0, the doorbells: QTAIL of a queue, and from 0x1000 on nothing, which reads zero. -/
def hostDoorbell (off len : Nat) (data : Option (List Byte)) (s : State) : State :=
  let slot := off / 0x40
  let queue := off % 0x40 / 4
  let ok := off % 4 == 0 && decide (off < 0x1000)
  match data with
  | some bs => { (if ok && bs.length == 4 && !s.ctxSup slot then putQtail s slot queue (leNat bs) else s) with reply := [] }
  | none => { s with reply := if ok && len == 4 then leBytes 4 ((s.ctx slot).queue queue).tail.toNat else List.replicate len 0 }

/-- A host access through BAR index 2, the context blocks; writes to the block of a supervisor context are ignored. -/
def hostContext (off len : Nat) (data : Option (List Byte)) (s : State) : State :=
  let n := (data.map List.length).getD len
  match (if off + n ≤ 0x40000 then mmioPart (0x10000 + off) n else none) with
  | none => { s with reply := [] }
  | some (r, p) => match data with
    | some bs => { (if s.ctxSup (off / 0x1000) then s else mmioWrite s false r p (leNat bs)) with reply := [] }
    | none => { s with reply := leBytes n (mmioRead s r p) }

/-- HOST_MEMORY_ACCESS (R415): a host access through one of the three BARs. A write that depends on a descriptor waits while the
table must be waited for (R166). -/
def execHostMemoryAccess (addr : HostAddr) (len : Nat) (data : Option (List Byte)) (s : State) : Host.Outcome State Fault Refusal :=
  if !s.pkg.powered || !s.pkg.hostLink || (data.isSome && addr.bar != 4 && s.tableHeld) then .next s
  else match addr.bar with
    | 0 => .next (hostDoorbell addr.off len data s)
    | 2 => .next (hostContext addr.off len data s)
    | 4 => hostMemory addr.off len data s
    | _ => .next s

/-- The on-chip map and the register window in physical space (R60). -/
def mapBase : Nat := 0xE000000000000
def mmioBase : Nat := 0xE010000000000

/-- A physical load or store of the management cluster to the on-chip map: refused where R58 refuses a lane, and at
staging windows for a store (R193). -/
def managementMap (s : State) (off n : Nat) (data : Option (List Byte)) : State :=
  let p := off / 2 ^ 24
  let o := off % 2 ^ 24
  if 2 ^ 32 ≤ off || (mapCause s p off n data.isSome).isSome || (data.isSome && mapRegion o = .staging) then { s with reply := [] }
  else match data with
    | some bs => { mapWrite s [] p o bs with reply := [] }
    | none => match mapBad s p o n with
      | some x => { s.bbEvent 6 p 0 (wordUnit x + 256 * wordOffset p x) with reply := [] }
      | none => { correctWords s p (mapWords o n) with reply := mapBytes s p o n }

/-- A physical load or store of the management cluster to memory, with attribute 0 (R89). -/
def managementMemory (s : State) (a n : Nat) (data : Option (List Byte)) : State :=
  let t := (homeTower a).getD 0
  if (linesOf a n).any (fun ln => if data.isSome then s.writeHeld ln else s.readHeld ln) then s
  else if s.poisoned a n then { s with reply := [] }
  else match data with
    | some bs => { s.devStore .engine t (some false) a bs with reply := [] }
    | none =>
      let bs := s.bytes a n
      { (linesOf a n).foldl (fun s ln => s.touch (.l2 t) 0 ln) s with reply := bs }

/-- A load or store of the management cluster to the register window (R411, R412). -/
def managementMmio (s : State) (x n : Nat) (data : Option (List Byte)) : State :=
  match mmioPart x n with
  | none => { s with reply := [] }
  | some (r, p) => match data with
    | some bs => { mmioWrite s true r p (leNat bs) with reply := [] }
    | none => { s with reply := leBytes n (mmioRead s r p) }

/-- MANAGEMENT_CLUSTER_ACCESS (R60, R193, R411): an address that R60 does not list, or metadata, is no access. -/
def execManagementClusterAccess (addr len : Nat) (data : Option (List Byte)) (s : State) :
    Host.Outcome State Fault Refusal :=
  let n := (data.map List.length).getD len
  if !s.pkg.powered || n = 0 then .next s
  else if plainMemory addr n then .next (managementMemory s addr n data)
  else if mmioBase ≤ addr ∧ addr + n ≤ mmioBase + 2 ^ 32 then .next (managementMmio s (addr - mmioBase) n data)
  else if mapBase ≤ addr ∧ addr < mmioBase then .next (managementMap s (addr - mapBase) n data)
  else .next { s with reply := [] }

/-! ### Links (R416) -/

/-- FLIT_RECEIVE (R416): a port delivers the flit of a peer that it expects, once, in order, and so reaches that peer; any
other, or one that fails its CRC, is not delivered and is sent again. -/
def execFlitReceive (port : Nat) (seq : FlitHead) (crcOk : Bool) (s : State) : Host.Outcome State Fault Refusal :=
  match s.pkg.ports[port]? with
  | none => .next s
  | some p =>
    if s.pkg.powered && p.up && crcOk && p.next == seq.num then
      .next { s with pkg := { s.pkg with ports := modAt (fun p =>
        { p with next := p.next + 1, peers := if seq.peer < 64 then setInsert seq.peer p.peers else p.peers }) port s.pkg.ports } }
    else .next s

/-- The reference that a device without a live host link takes time from (R418): the reachable peer with the lowest LINKID
that has a host link; where none has one, the device with the lowest LINKID of those that reach one another. -/
def Package.reference (p : Package) : TimeRef :=
  let reached := fun n => p.reaches (.peer n)
  match (List.range 64).find? fun n => reached n && p.hosted.contains n with
  | some n => .peer n
  | none => match (List.range 64).find? fun n => reached n || n == p.linkid.toNat with
    | some n => if n = p.linkid.toNat then .own else .peer n
    | none => .own

/-- PORT_DOWN (R416): the port is down, with its event, and the homes declare the peers that no port reaches time-lost. -/
def execPortDown (port : Nat) (s : State) : Host.Outcome State Fault Refusal :=
  match s.pkg.ports[port]? with
  | none => .next s
  | some p =>
    if s.pkg.powered && p.up then
      let pkg := { s.pkg with ports := modAt (fun p => { p with up := false }) port s.pkg.ports }
      let pkg := { pkg with timeRef := if pkg.hostLink then pkg.timeRef else pkg.reference }
      let gone := ((List.range 64).map Agent.peer).filter fun a => s.pkg.reaches a && !pkg.reaches a
      .next (gone.foldl (fun s a => declareLost s a false) ({ s with pkg := pkg }.bbEvent 9 0xFF 0 port))
    else .next s

/-! ### The global time base (R418) -/

/-- GTIME goes forward, and with it the logical times of the towers and of the outside agents, one for each nanosecond
(R159). -/
def passTime (s : State) (p : Package) : State :=
  let d := p.gtime - s.pkg.gtime
  { s with pkg := p
           towers := s.towers.map fun (t : Tower) => { t with pts := t.pts + d }
           agents := s.agents.map fun (a : AgentState) => { a with pts := a.pts + d } }

/-- GTIME compared with its reference: up to 1 µs is slewed, more is a jump forward or a hold, which lasts until the reference
has caught up. -/
def correctTime (s : State) (time : Nat) : State :=
  let g := s.pkg.gtime
  let p := s.pkg
  passTime s
    (if g + 1000 < time then { p with gtime := time, hold := 0, slew := 0, slewTime := 0 }
     else if time + 1000 < g ∨ (p.hold ≠ 0 ∧ time < g) then { p with hold := g - time, slew := 0, slewTime := 0 }
     else { p with hold := 0, slew := (time : Int) - g })

/-- GTIME after `ns` nanoseconds: held while its reference catches up, and slewed by at most 100 ns in a millisecond: one for
every 10 µs that have passed. Time for which nothing was slewed is not saved up. -/
def advanceGtime (p : Package) (ns amount : Nat) : Package :=
  let held := min p.hold ns
  let run := ns - held
  let room := (p.slewTime + run) / 10000
  let adj := min amount (min room p.slew.natAbs)
  let left := if p.slew = 0 then 0 else min 9999 (p.slewTime + run - adj * 10000)
  if 0 ≤ p.slew then { p with gtime := p.gtime + run + adj, hold := p.hold - held, slew := p.slew - adj, slewTime := left }
  else { p with gtime := p.gtime + (run - adj), hold := p.hold - held, slew := p.slew + (adj : Int), slewTime := left }

/-- PTM_SYNC (R418): with a live host link GTIME is compared with the host. -/
def execPtmSync (time : Nat) (s : State) : Host.Outcome State Fault Refusal :=
  if s.pkg.powered && s.pkg.hostLink then
    .next (correctTime { s with pkg := { s.pkg with timeRef := .host } } time)
  else .next s

/-- LINK_TIME_MESSAGE (R418): a reachable peer sends its time, and whether it has a live host link; without one of its own
the device takes it when that peer is its reference. -/
def execLinkTimeMessage (peer : Nat) (time : LinkTime) (s : State) : Host.Outcome State Fault Refusal :=
  if s.pkg.powered && s.pkg.reaches (.peer peer) && peer != s.pkg.linkid.toNat then
    let pkg := { s.pkg with hosted := if time.hosted then setInsert peer s.pkg.hosted else setErase peer s.pkg.hosted }
    if pkg.hostLink then .next { s with pkg := pkg }
    else
      let s := { s with pkg := { pkg with timeRef := pkg.reference } }
      .next (if pkg.reference = .peer peer then correctTime s time.ns else s)
  else .next s

/-- HOST_LINK_LOSS (R418, R168): the reference changes, the host is reachable no more (R417), the lines it owns are
lost, and what it waits for it is not granted. -/
def execHostLinkLoss (s : State) : Host.Outcome State Fault Refusal :=
  if s.pkg.powered && s.pkg.hostLink then
    let pkg := { s.pkg with hostLink := false }
    let s := { s with pkg := { pkg with timeRef := pkg.reference } }
    .next (loseOwned (dropWanted s .host) .host)
  else .next s

/-- HOST_LINK_RETURN (R418): the reference is the host again, and the difference is corrected. -/
def execHostLinkReturn (time : Nat) (s : State) : Host.Outcome State Fault Refusal :=
  if s.pkg.powered && !s.pkg.hostLink then
    .next (correctTime { s with pkg := { s.pkg with hostLink := true, timeRef := .host } } time)
  else .next s

/-! ### Thermal protection (R419) -/

/-- The hottest of a tower's sensors, with its place: 0 to 3 the layers, 4 the base die. -/
def hottest (temps : List Int) : Nat × Int :=
  (temps.zip (List.range temps.length)).foldl (fun m x => if m.2 < x.1 then (x.2, x.1) else m) (0, (temps.head?).getD 0)

/-- The stages of a tower after a reading of its hottest sensor (R419). -/
def thermalStage (old : Thermal) (t : Int) : Thermal :=
  if 110 ≤ t ∨ (old = .issueStopped ∧ 100 ≤ t) then .issueStopped
  else if 100 ≤ t ∨ (old ≠ .normal ∧ 95 ≤ t) then .clockHeld
  else .normal

/-- The event of a stage entered. The layer field of a base die is not stated, and is a free value. -/
def thermalEvent (s : State) (tower place : Nat) (temp : Int) (stage : Nat) : State :=
  let layer := if place < 4 then 4 * tower + place else choose s.tick 7400 16
  s.bbEvent 5 0xFF 0 (layer + 2 ^ 16 * wrapInt 16 temp + 2 ^ 32 * stage)

/-- THERMAL_SAMPLE (R419): the readings of a tower's four layer dies and of its base die. -/
def execThermalSample (tower : Nat) (temps : List Int) (s : State) : Host.Outcome State Fault Refusal :=
  if s.pkg.powered && decide (tower < 2) && temps.length == 5 then
    let (place, t) := hottest temps
    let old := (s.tower tower).thermal
    let new := thermalStage old t
    let s := s.modTower tower fun w => { w with thermal := new, skip := if new = .normal then false else w.skip }
    let s := ((temps.take 4).zip (List.range 4)).foldl (fun s x => s.seesValue 0x0E (4 * tower + x.2) x.1.toNat true) s
    let s := if old = .normal ∧ new ≠ .normal then thermalEvent s tower place t 1 else s
    .next (if old ≠ .issueStopped ∧ new = .issueStopped then thermalEvent s tower place t 2 else s)
  else .next s

/-! ### Cycles of a tower's clock (R4, R316, R419) -/

/-- Hundredths of a cycle of a tower's arithmetic clock in a nanosecond (R4, R53). -/
def Tower.rate (t : Tower) : Nat := if t.gated = 3 then 135 else 170

/-- Time passes: GTIME by R418, and the towers' clocks have cycles to run. -/
def passNs (s : State) (ns : Nat) : State :=
  if s.pkg.powered then
    let s := passTime s (advanceGtime s.pkg ns (choose s.tick 7500 (2 ^ 32)))
    { s with towers := s.towers.map fun (t : Tower) => { t with due := t.due + ns * t.rate } }
  else s

/-- What a monitor sees at a tower's multiple of 1,024 cycles (R426): of a core of the tower, or of a context slot, for which
tower 0's clock counts (DESIGN CHOICE, log 61). -/
def State.sampled (s : State) (tower : Nat) (m : Monitor) : Option Nat :=
  let x := m.scope.toNat
  let core := if towerOf x = tower then some (s.core x) else none
  let ctx := if tower = 0 ∧ x < 64 then some (s.ctx x) else none
  match m.src.toNat with
  | 0x0B => core.map fun k => k.purse
  | 0x0C => ctx.map fun c => (c.queue m.sub.toNat).fill
  | 0x0D => ctx.map fun c => c.tasks.length
  | 0x0F => core.map fun k => k.slots.foldl (fun n x => n + (x.map fun w => w.m.queue.length).getD 0) 0
  | _ => none

/-- The samples of a tower's cycle (R426). -/
def sampleCycle (s : State) (tower : Nat) : State :=
  if (s.tower tower).clock % 1024 = 0 && s.monitors.any Monitor.en then
    { s with monitors := s.monitors.map fun m => match (if m.en then s.sampled tower m else none) with
      | some v => { m with seen := m.seen ++ [(v, true)] }
      | none => m }
  else s

/-- PURSE_REFILL (R316): one cycle of a tower's clock, when one is due. CLOCK counts it and every purse gains the rate's
coins; of a held clock every second cycle runs (R419). -/
def execPurseRefill (tower : Nat) (s : State) : Host.Outcome State Fault Refusal :=
  let t := s.tower tower
  if !s.pkg.powered || decide (2 ≤ tower) || decide (t.due < 100) || t.agingDue then .next s
  else
    let held := t.thermal != .normal
    let s := s.modTower tower fun t =>
      { t with due := t.due - 100, skip := held && !t.skip, clock := if held && t.skip then t.clock else t.clock + 1 }
    let fill := fun (k : Core) => { k with purse := min 65536 (k.purse + t.mcoinr.toNat) }
    if held && t.skip then .next s
    else
      let filled := (s.cores.zip (List.range 256)).map fun x => if towerOf x.2 = tower then fill x.1 else x.1
      .next (sampleCycle { s with cores := filled } tower)

end Sys2Proof.Machine
end

