-- ==== Sys2Proof/Machine/Special.lean ====
section
/-!
DEFINITION. The special-function instructions (spec/11 R269 to R274).
-/
namespace Sys2Proof.Machine

/-- RCP (R272, R274). -/
def execRcp (f : Fields) (s : State) : Host.Outcome State Fault Refusal :=
  issue (.rcp f) f .lanes (perLane false fun e L => fnRcp (e.a 5 L)) s

/-- RSQ (R273, R274). -/
def execRsq (f : Fields) (s : State) : Host.Outcome State Fault Refusal :=
  issue (.rsq f) f .lanes (perLane false fun e L => fnRsq (e.a 5 L)) s

/-- SQRT (R270, R274). -/
def execSqrt (f : Fields) (s : State) : Host.Outcome State Fault Refusal :=
  issue (.sqrt f) f .lanes (perLane false fun e L => fnSqrt (modeOf f) (e.a 5 L)) s

/-- EXP2 (R273, R274). -/
def execExp2 (f : Fields) (s : State) : Host.Outcome State Fault Refusal :=
  issue (.exp2 f) f .lanes (perLane false fun e L => fnExp2 (e.a 5 L)) s

/-- LOG2 (R273, R274). -/
def execLog2 (f : Fields) (s : State) : Host.Outcome State Fault Refusal :=
  issue (.log2 f) f .lanes (perLane false fun e L => fnLog2 (e.a 5 L)) s

/-- SINPI (R273, R274). -/
def execSinpi (f : Fields) (s : State) : Host.Outcome State Fault Refusal :=
  issue (.sinpi f) f .lanes (perLane false fun e L => fnSinpi (e.a 5 L)) s

/-- COSPI (R273, R274). -/
def execCospi (f : Fields) (s : State) : Host.Outcome State Fault Refusal :=
  issue (.cospi f) f .lanes (perLane false fun e L => fnCospi (e.a 5 L)) s

/-- TANH (R273, R274). -/
def execTanh (f : Fields) (s : State) : Host.Outcome State Fault Refusal :=
  issue (.tanh f) f .lanes (perLane false fun e L => fnTanh (e.a 5 L)) s

end Sys2Proof.Machine
end

