-- ==== Sys2Proof/Machine/Stream.lean ====
section
/-!
DEFINITION. The wave-wide decoder: DECW and PACKW (spec/04 R101 to R105).
-/
namespace Sys2Proof.Machine

/-- Bits [n − 1:0] of the stream at bit `at`, of which `bytes` is the number that the bytes from bit `at` − `at` mod 8
on make. -/
def streamBits (bytes start p n : Nat) : Nat := bytes / 2 ^ (p - start / 8 * 8) % 2 ^ n

/-- The field of `w` bits extended to an element of `el` bits (R104). -/
def extBits (sg : Bool) (w el x : Nat) : Nat := wrapInt el (ival w sg x)

/-- What a mode of DECW gives: the elements in lane order, the bits consumed, and the new state register. -/
structure Decoded where
  elems : List Nat
  used  : Nat
  state : Option W64
  deriving DecidableEq, Repr

/-- The sums of .for: each adds the next field to the running value. -/
def forElems (el w cur : Nat) (field : Nat → Nat) : Nat → Nat → List Nat
  | _, 0 => []
  | j, n + 1 =>
    let x := (cur + field j) % 2 ^ el
    x :: forElems el w x field (j + 1) n

/-- The runs of .rle: the elements, the cursor, and r and v afterwards. -/
def rleElems (el w : Nat) (sg : Bool) (get : Nat → Nat → Nat) : Nat → Nat → Nat → Nat → List Nat × Nat × Nat × Nat
  | 0, p, r, v => ([], p, r, v)
  | n + 1, p, r, v =>
    let (p, r, v) := if r = 0 then (p + w + 16, get (p + w) 16 + 1, get p w) else (p, r, v)
    let (xs, q) := rleElems el w sg get n p (r - 1) v
    (extBits sg w el v :: xs, q)

/-- One value of .zvl: its 7-bit groups until a byte has bit 7 clear, `k` bytes at most; the value and its bytes. -/
def zvlOne (get : Nat → Nat → Nat) (p : Nat) : Nat → Nat → Nat × Nat
  | _, 0 => (0, 0)
  | i, k + 1 =>
    let b := get (p + 8 * i) 8
    if b < 128 then (b * 2 ^ (7 * i), 1)
    else
      let (x, n) := zvlOne get p (i + 1) k
      (b % 128 * 2 ^ (7 * i) + x, n + 1)

/-- The values of .zvl and the cursor after them. -/
def zvlElems (el : Nat) (sg : Bool) (get : Nat → Nat → Nat) : Nat → Nat → List Nat × Nat
  | 0, p => ([], p)
  | n + 1, p =>
    let (u, k) := zvlOne get p 0 (if el = 32 then 5 else 10)
    let u := u % 2 ^ el
    let x := if sg then (u / 2) ^^^ (if u % 2 = 1 then 2 ^ el - 1 else 0) else u
    let (xs, q) := zvlElems el sg get n (p + 8 * k)
    (x :: xs, q)

/-- The modes of DECW (R104): `get p n` is the n bits at stream bit p, `p` the cursor and `st` the state register. -/
def decodeStream (mode el w : Nat) (sg : Bool) (get : Nat → Nat → Nat) (p n : Nat) (st : W64) : Decoded :=
  match mode with
  | 0 => ⟨(List.range n).map fun k => extBits sg w el (get (p + k * w) w), n * w, none⟩
  | 1 =>
    let xs := forElems el w (st.toNat % 2 ^ el) (fun j => get (p + j * w) w) 0 n
    ⟨xs, n * w, some (extend64 el sg ((xs.getLast?).getD (st.toNat % 2 ^ el)))⟩
  | 2 =>
    let (xs, q, r, v) := rleElems el w sg get n p (st.toNat / 2 ^ 32) (st.toNat % 2 ^ 32)
    ⟨xs, q - p, some (BitVec.ofNat 64 (r * 2 ^ 32 + v))⟩
  | 3 =>
    let (xs, q) := zvlElems el sg get n p
    ⟨xs, q - p, none⟩
  | _ =>
    ⟨(List.range n).map fun k =>
      extBits sg w el ((List.range w).foldl (fun x b => x + get (p + b * n + k) 1 * 2 ^ b) 0), n * w, none⟩

/-- The check under R77 of the bytes of a bit range, as one access (R101): a trap, or the scratchpad address of the
first byte. -/
def streamCheck (e : Env) (major p nbits : Nat) (store : Bool) : Except Trap Nat :=
  let g := e.seg 1
  let o := p / 8
  let size := (p + nbits + 7) / 8 - o
  let bad := fun (c : Nat) => Except.error
    { cause := c, va := BitVec.ofNat 64 o, acc := if store then 2 else 1, unit := unitOf major,
      aux := BitVec.ofNat 32 (1 + 256 * size), lanes := e.active }
  if nbits = 0 then .ok (g.base.toNat + o)
  else match segCheck g o size store with
    | some c => bad c
    | none => if 2 ^ 23 < g.base.toNat + o + size then bad 3 else .ok (g.base.toNat + o)

/-- The width operand of DECW and PACKW (R102): a scalar or the immediate. -/
def streamWidth (e : Env) : Nat := if e.f.bimm then iv e.f else (e.s e.opb 2).toNat

/-- DECW (R104). The stream is read from the scratchpad as far as the elements need, then checked as one access. A misaligned
cursor of .zvl comes before the bounds of R77 (DESIGN CHOICE, log 99). Where opa and opc are one register its new cursor and its
new state are both written, and either remains, word by word (DESIGN CHOICE, log 100). -/
def execDecw (f : Fields) (s : State) : Host.Outcome State Fault Refusal :=
  issue (.decw f) f .lanes (fun e s =>
    let p := (e.s e.opa 1).toNat
    let el := wide f
    let w := if mv f = 3 then 8 else streamWidth e
    if 2 ^ 26 ≤ p ∨ w = 0 ∨ el < w then .trap s [regTrap e 0x82]
    else
      let n := e.lanes.length
      let start := (e.seg 1).base.toNat + p / 8
      let raw := leNat (s.scrBytes e.ref.core start ((n * 88 + 16) / 8 + 2))
      let d := decodeStream (mv f) el w (isSigned f) (streamBits raw p) p n (if mv f = 1 ∨ mv f = 2 then e.s e.opc 3 else 0)
      if mv f = 3 ∧ p % 8 ≠ 0 then
        .trap s [{ cause := 4, va := BitVec.ofNat 64 (p / 8), acc := 1, unit := 3, lanes := e.active,
                   aux := BitVec.ofNat 32 (1 + 256 * ((p + d.used + 7) / 8 - p / 8)) }]
      else match streamCheck e 0x82 p d.used false with
      | .error t => .trap s [t]
      | .ok _ =>
        e.guardS s 0x82 (e.opa :: (if d.state.isSome then [e.opc] else [])) fun _ =>
          let s := (e.lanes.zip d.elems).foldl (fun s x => e.put s (el == 64) e.dst x.1 x.2) s
          let s := e.setS s e.opa (BitVec.ofNat 64 (p + d.used))
          .done (match d.state with
            | some x => e.setS s e.opc x
            | none => s)) s

/-- PACKW (R105): the fields in lane order; every bit outside the range stays. -/
def execPackw (f : Fields) (s : State) : Host.Outcome State Fault Refusal :=
  issue (.packw f) f .lanes (fun e s =>
    let p := (e.s e.dst 4).toNat
    let el := wide f
    let w := streamWidth e
    if 2 ^ 26 ≤ p ∨ w = 0 ∨ el < w then .trap s [regTrap e 0x83]
    else
      let n := e.lanes.length
      match streamCheck e 0x83 p (n * w) true with
      | .error t => .trap s [t]
      | .ok a =>
        e.guardS s 0x83 [e.dst] fun _ =>
          let fields := e.lanes.map fun L =>
            let x := e.a (tv f) L
            if qv f % 2 = 1 then clampInt w (isSigned f) (ival el (isSigned f) x) else x % 2 ^ w
          let size := (p + n * w + 7) / 8 - p / 8
          let old := leNat (s.scrBytes e.ref.core a size)
          let new := (List.range n).foldl (fun b k =>
            setBits b (p % 8 + k * w + w - 1) (p % 8 + k * w) ((fields[k]?).getD 0)) old
          .done (e.setS (s.scrWrite e.ref.core a (leBytes size new)) e.dst (BitVec.ofNat 64 (p + n * w)))) s

end Sys2Proof.Machine
end

