-- ==== Sys2Proof/Machine/Dispatch.lean ====
section
/-!
DEFINITION. One arm per constructor of Instr: each calls its own meaning.
-/
namespace Sys2Proof.Machine

def exec (i : Instr) (s : State) : Host.Outcome State Fault Refusal :=
  match i with
  | .nop f => Sys2Proof.Machine.execNop f s
  | .bra f => Sys2Proof.Machine.execBra f s
  | .brs f => Sys2Proof.Machine.execBrs f s
  | .brv f => Sys2Proof.Machine.execBrv f s
  | .jmpx f => Sys2Proof.Machine.execJmpx f s
  | .call f => Sys2Proof.Machine.execCall f s
  | .callx f => Sys2Proof.Machine.execCallx f s
  | .ret f => Sys2Proof.Machine.execRet f s
  | .rcvg f => Sys2Proof.Machine.execRcvg f s
  | .exit f => Sys2Proof.Machine.execExit f s
  | .yield f => Sys2Proof.Machine.execYield f s
  | .waitc f => Sys2Proof.Machine.execWaitc f s
  | .trapf f => Sys2Proof.Machine.execTrapf f s
  | .sysc f => Sys2Proof.Machine.execSysc f s
  | .bkpt f => Sys2Proof.Machine.execBkpt f s
  | .elect f => Sys2Proof.Machine.execElect f s
  | .loop f => Sys2Proof.Machine.execLoop f s
  | .sget f => Sys2Proof.Machine.execSget f s
  | .sput f => Sys2Proof.Machine.execSput f s
  | .xacq f => Sys2Proof.Machine.execXacq f s
  | .xrel f => Sys2Proof.Machine.execXrel f s
  | .isync f => Sys2Proof.Machine.execIsync f s
  | .kop f => Sys2Proof.Machine.execKop f s
  | .kpop f => Sys2Proof.Machine.execKpop f s
  | .kff1 f => Sys2Proof.Machine.execKff1 f s
  | .ktos f => Sys2Proof.Machine.execKtos f s
  | .stok f => Sys2Proof.Machine.execStok f s
  | .exmrd f => Sys2Proof.Machine.execExmrd f s
  | .exmwr f => Sys2Proof.Machine.execExmwr f s
  | .sadd f => Sys2Proof.Machine.execSadd f s
  | .ssub f => Sys2Proof.Machine.execSsub f s
  | .smul f => Sys2Proof.Machine.execSmul f s
  | .smulh f => Sys2Proof.Machine.execSmulh f s
  | .sdiv f => Sys2Proof.Machine.execSdiv f s
  | .srem f => Sys2Proof.Machine.execSrem f s
  | .sand f => Sys2Proof.Machine.execSand f s
  | .sor f => Sys2Proof.Machine.execSor f s
  | .sxor f => Sys2Proof.Machine.execSxor f s
  | .sshl f => Sys2Proof.Machine.execSshl f s
  | .sshr f => Sys2Proof.Machine.execSshr f s
  | .ssra f => Sys2Proof.Machine.execSsra f s
  | .smin f => Sys2Proof.Machine.execSmin f s
  | .smax f => Sys2Proof.Machine.execSmax f s
  | .scmp f => Sys2Proof.Machine.execScmp f s
  | .ssel f => Sys2Proof.Machine.execSsel f s
  | .smov f => Sys2Proof.Machine.execSmov f s
  | .sli f => Sys2Proof.Machine.execSli f s
  | .slea f => Sys2Proof.Machine.execSlea f s
  | .sclz f => Sys2Proof.Machine.execSclz f s
  | .spop f => Sys2Proof.Machine.execSpop f s
  | .sbfe f => Sys2Proof.Machine.execSbfe f s
  | .sbfi f => Sys2Proof.Machine.execSbfi f s
  | .sld f => Sys2Proof.Machine.execSld f s
  | .sst f => Sys2Proof.Machine.execSst f s
  | .vadd f => Sys2Proof.Machine.execVadd f s
  | .vsub f => Sys2Proof.Machine.execVsub f s
  | .vmul f => Sys2Proof.Machine.execVmul f s
  | .vmulh f => Sys2Proof.Machine.execVmulh f s
  | .vmad f => Sys2Proof.Machine.execVmad f s
  | .vand f => Sys2Proof.Machine.execVand f s
  | .vor f => Sys2Proof.Machine.execVor f s
  | .vxor f => Sys2Proof.Machine.execVxor f s
  | .vnot f => Sys2Proof.Machine.execVnot f s
  | .vshl f => Sys2Proof.Machine.execVshl f s
  | .vshr f => Sys2Proof.Machine.execVshr f s
  | .vsra f => Sys2Proof.Machine.execVsra f s
  | .vmin f => Sys2Proof.Machine.execVmin f s
  | .vmax f => Sys2Proof.Machine.execVmax f s
  | .vabs f => Sys2Proof.Machine.execVabs f s
  | .vneg f => Sys2Proof.Machine.execVneg f s
  | .vclz f => Sys2Proof.Machine.execVclz f s
  | .vpop f => Sys2Proof.Machine.execVpop f s
  | .vbrev f => Sys2Proof.Machine.execVbrev f s
  | .vbfe f => Sys2Proof.Machine.execVbfe f s
  | .vbfi f => Sys2Proof.Machine.execVbfi f s
  | .vsad f => Sys2Proof.Machine.execVsad f s
  | .vdot4 f => Sys2Proof.Machine.execVdot4 f s
  | .vcmp f => Sys2Proof.Machine.execVcmp f s
  | .vsel f => Sys2Proof.Machine.execVsel f s
  | .vmov f => Sys2Proof.Machine.execVmov f s
  | .vli f => Sys2Proof.Machine.execVli f s
  | .vlane f => Sys2Proof.Machine.execVlane f s
  | .vcvt f => Sys2Proof.Machine.execVcvt f s
  | .fadd f => Sys2Proof.Machine.execFadd f s
  | .fsub f => Sys2Proof.Machine.execFsub f s
  | .fmul f => Sys2Proof.Machine.execFmul f s
  | .ffma f => Sys2Proof.Machine.execFfma f s
  | .fmin f => Sys2Proof.Machine.execFmin f s
  | .fmax f => Sys2Proof.Machine.execFmax f s
  | .fabs f => Sys2Proof.Machine.execFabs f s
  | .fneg f => Sys2Proof.Machine.execFneg f s
  | .fcps f => Sys2Proof.Machine.execFcps f s
  | .fcmp f => Sys2Proof.Machine.execFcmp f s
  | .fclass f => Sys2Proof.Machine.execFclass f s
  | .frnd f => Sys2Proof.Machine.execFrnd f s
  | .fcvt f => Sys2Proof.Machine.execFcvt f s
  | .fcvti f => Sys2Proof.Machine.execFcvti f s
  | .icvtf f => Sys2Proof.Machine.execIcvtf f s
  | .fscale f => Sys2Proof.Machine.execFscale f s
  | .fdot2 f => Sys2Proof.Machine.execFdot2 f s
  | .rcp f => Sys2Proof.Machine.execRcp f s
  | .rsq f => Sys2Proof.Machine.execRsq f s
  | .sqrt f => Sys2Proof.Machine.execSqrt f s
  | .exp2 f => Sys2Proof.Machine.execExp2 f s
  | .log2 f => Sys2Proof.Machine.execLog2 f s
  | .sinpi f => Sys2Proof.Machine.execSinpi f s
  | .cospi f => Sys2Proof.Machine.execCospi f s
  | .tanh f => Sys2Proof.Machine.execTanh f s
  | .rng f => Sys2Proof.Machine.execRng f s
  | .rngseed f => Sys2Proof.Machine.execRngseed f s
  | .decw f => Sys2Proof.Machine.execDecw f s
  | .packw f => Sys2Proof.Machine.execPackw f s
  | .shfl f => Sys2Proof.Machine.execShfl f s
  | .bcast f => Sys2Proof.Machine.execBcast f s
  | .vred f => Sys2Proof.Machine.execVred f s
  | .vscan f => Sys2Proof.Machine.execVscan f s
  | .vcmprs f => Sys2Proof.Machine.execVcmprs f s
  | .vexpnd f => Sys2Proof.Machine.execVexpnd f s
  | .ballot f => Sys2Proof.Machine.execBallot f s
  | .matchL f => Sys2Proof.Machine.execMatchL f s
  | .ld f => Sys2Proof.Machine.execLd f s
  | .st f => Sys2Proof.Machine.execSt f s
  | .gath f => Sys2Proof.Machine.execGath f s
  | .scat f => Sys2Proof.Machine.execScat f s
  | .ldb f => Sys2Proof.Machine.execLdb f s
  | .stb f => Sys2Proof.Machine.execStb f s
  | .atom f => Sys2Proof.Machine.execAtom f s
  | .atomw f => Sys2Proof.Machine.execAtomw f s
  | .stnt f => Sys2Proof.Machine.execStnt f s
  | .stntPerform core slot idx => Sys2Proof.Machine.execStntPerform core slot idx s
  | .drainnt f => Sys2Proof.Machine.execDrainnt f s
  | .fenceCode f => Sys2Proof.Machine.execFenceCode f s
  | .fenceIo f => Sys2Proof.Machine.execFenceIo f s
  | .fenceEng f => Sys2Proof.Machine.execFenceEng f s
  | .ldfe f => Sys2Proof.Machine.execLdfe f s
  | .stfe f => Sys2Proof.Machine.execStfe f s
  | .pft f => Sys2Proof.Machine.execPft f s
  | .cflush f => Sys2Proof.Machine.execCflush f s
  | .iflush f => Sys2Proof.Machine.execIflush f s
  | .llock f => Sys2Proof.Machine.execLlock f s
  | .lunlk f => Sys2Proof.Machine.execLunlk f s
  | .lnclaim f => Sys2Proof.Machine.execLnclaim f s
  | .binit f => Sys2Proof.Machine.execBinit f s
  | .barv f => Sys2Proof.Machine.execBarv f s
  | .bexp f => Sys2Proof.Machine.execBexp f s
  | .bwait f => Sys2Proof.Machine.execBwait f s
  | .btest f => Sys2Proof.Machine.execBtest f s
  | .bdrop f => Sys2Proof.Machine.execBdrop f s
  | .seqw f => Sys2Proof.Machine.execSeqw f s
  | .grpsync f => Sys2Proof.Machine.execGrpsync f s
  | .spawn f => Sys2Proof.Machine.execSpawn f s
  | .watch f => Sys2Proof.Machine.execWatch f s
  | .unwatch f => Sys2Proof.Machine.execUnwatch f s
  | .iter f => Sys2Proof.Machine.execIter f s
  | .rqpush f => Sys2Proof.Machine.execRqpush f s
  | .mrsv f => Sys2Proof.Machine.execMrsv f s
  | .mfree f => Sys2Proof.Machine.execMfree f s
  | .mzero f => Sys2Proof.Machine.execMzero f s
  | .mldD f => Sys2Proof.Machine.execMldD f s
  | .mldF f => Sys2Proof.Machine.execMldF f s
  | .mstD f => Sys2Proof.Machine.execMstD f s
  | .mstF f => Sys2Proof.Machine.execMstF f s
  | .mma f => Sys2Proof.Machine.execMma f s
  | .maddf f => Sys2Proof.Machine.execMaddf f s
  | .maddm f => Sys2Proof.Machine.execMaddm f s
  | .mmulf f => Sys2Proof.Machine.execMmulf f s
  | .mrcmp f => Sys2Proof.Machine.execMrcmp f s
  | .mdns f => Sys2Proof.Machine.execMdns f s
  | .mrank f => Sys2Proof.Machine.execMrank f s
  | .mrankErr f => Sys2Proof.Machine.execMrankErr f s
  | .mrowp f => Sys2Proof.Machine.execMrowp f s
  | .mrowpSet f => Sys2Proof.Machine.execMrowpSet f s
  | .mscl f => Sys2Proof.Machine.execMscl f s
  | .mmovv f => Sys2Proof.Machine.execMmovv f s
  | .mmovm f => Sys2Proof.Machine.execMmovm f s
  | .matrixOpStart core => Sys2Proof.Machine.execMatrixOpStart core s
  | .matrixOpComplete core => Sys2Proof.Machine.execMatrixOpComplete core s
  | .operandsConsumed core => Sys2Proof.Machine.execOperandsConsumed core s
  | .matrixOpStop core => Sys2Proof.Machine.execMatrixOpStop core s
  | .matrixErrorCompletion core => Sys2Proof.Machine.execMatrixErrorCompletion core s
  | .hld f => Sys2Proof.Machine.execHld f s
  | .hstat f => Sys2Proof.Machine.execHstat f s
  | .fopen f => Sys2Proof.Machine.execFopen f s
  | .fseal f => Sys2Proof.Machine.execFseal f s
  | .fcomp f => Sys2Proof.Machine.execFcomp f s
  | .fret f => Sys2Proof.Machine.execFret f s
  | .trace f => Sys2Proof.Machine.execTrace f s
  | .pair f => Sys2Proof.Machine.execPair f s
  | .pairx f => Sys2Proof.Machine.execPairx f s
  | .pairOperationRun core slot idx => Sys2Proof.Machine.execPairOperationRun core slot idx s
  | .pairOperationComplete core slot idx => Sys2Proof.Machine.execPairOperationComplete core slot idx s
  | .pairOperationStop core slot idx => Sys2Proof.Machine.execPairOperationStop core slot idx s
  | .cover f => Sys2Proof.Machine.execCover f s
  | .ztst f => Sys2Proof.Machine.execZtst f s
  | .ordwWait f => Sys2Proof.Machine.execOrdwWait f s
  | .ordwAdv f => Sys2Proof.Machine.execOrdwAdv f s
  | .tlacq f => Sys2Proof.Machine.execTlacq f s
  | .tlrel f => Sys2Proof.Machine.execTlrel f s
  | .segld f => Sys2Proof.Machine.execSegld f s
  | .segldW f => Sys2Proof.Machine.execSegldW f s
  | .tlbinvAll f => Sys2Proof.Machine.execTlbinvAll f s
  | .tlbinvCtx f => Sys2Proof.Machine.execTlbinvCtx f s
  | .tlbinvPage f => Sys2Proof.Machine.execTlbinvPage f s
  | .tlbinvRange f => Sys2Proof.Machine.execTlbinvRange f s
  | .wresume f => Sys2Proof.Machine.execWresume f s
  | .wkill f => Sys2Proof.Machine.execWkill f s
  | .wkillCtx f => Sys2Proof.Machine.execWkillCtx f s
  | .frqack f => Sys2Proof.Machine.execFrqack f s
  | .cfgrd f => Sys2Proof.Machine.execCfgrd f s
  | .cfgwr f => Sys2Proof.Machine.execCfgwr f s
  | .ctxsave f => Sys2Proof.Machine.execCtxsave f s
  | .ctxsaveCtx f => Sys2Proof.Machine.execCtxsaveCtx f s
  | .haltc f => Sys2Proof.Machine.execHaltc f s
  | .haltcGo f => Sys2Proof.Machine.execHaltcGo f s
  | .lineFetch core quarter cslot va => Sys2Proof.Machine.execLineFetch core quarter cslot va s
  | .faultRecordPost core idx => Sys2Proof.Machine.execFaultRecordPost core idx s
  | .feedbackUpdate core slot idx => Sys2Proof.Machine.execFeedbackUpdate core slot idx s
  | .readRequest core line => Sys2Proof.Machine.execReadRequest core line s
  | .readReply core line => Sys2Proof.Machine.execReadReply core line s
  | .forwardedRead core line => Sys2Proof.Machine.execForwardedRead core line s
  | .writeRequest core line => Sys2Proof.Machine.execWriteRequest core line s
  | .writeReply core line => Sys2Proof.Machine.execWriteReply core line s
  | .eviction core line => Sys2Proof.Machine.execEviction core line s
  | .recall tower line => Sys2Proof.Machine.execRecall tower line s
  | .transientTimeout core line => Sys2Proof.Machine.execTransientTimeout core line s
  | .persistentRequest core line => Sys2Proof.Machine.execPersistentRequest core line s
  | .persistentRequestEnd core line => Sys2Proof.Machine.execPersistentRequestEnd core line s
  | .leaseRead agent line cls => Sys2Proof.Machine.execLeaseRead agent line cls s
  | .leaseStore agent addr data => Sys2Proof.Machine.execLeaseStore agent addr data s
  | .ownershipRequest agent line => Sys2Proof.Machine.execOwnershipRequest agent line s
  | .lineReturn agent line wts data => Sys2Proof.Machine.execLineReturn agent line wts data s
  | .outsideLeaseExpiry line => Sys2Proof.Machine.execOutsideLeaseExpiry line s
  | .timeReport agent time => Sys2Proof.Machine.execTimeReport agent time s
  | .timeReportTimeout agent => Sys2Proof.Machine.execTimeReportTimeout agent s
  | .timeLostExpiry agent => Sys2Proof.Machine.execTimeLostExpiry agent s
  | .amnesty agent => Sys2Proof.Machine.execAmnesty agent s
  | .writeBack line => Sys2Proof.Machine.execWriteBack line s
  | .mergePath block => Sys2Proof.Machine.execMergePath block s
  | .uncorrectableSoftError place line => Sys2Proof.Machine.execUncorrectableSoftError place line s
  | .scrub core word => Sys2Proof.Machine.execScrub core word s
  | .engineCommandStart comb => Sys2Proof.Machine.execEngineCommandStart comb s
  | .engineCommandComplete comb => Sys2Proof.Machine.execEngineCommandComplete comb s
  | .engineErrorCompletion comb => Sys2Proof.Machine.execEngineErrorCompletion comb s
  | .engineCommandCancel comb => Sys2Proof.Machine.execEngineCommandCancel comb s
  | .orphanedWaitTimeout core slot entry => Sys2Proof.Machine.execOrphanedWaitTimeout core slot entry s
  | .launchTake cslot queue => Sys2Proof.Machine.execLaunchTake cslot queue s
  | .workgroupPlacement cslot queue => Sys2Proof.Machine.execWorkgroupPlacement cslot queue s
  | .taskStart cslot idx => Sys2Proof.Machine.execTaskStart cslot idx s
  | .consumerDispatch idx => Sys2Proof.Machine.execConsumerDispatch idx s
  | .evictionSave wg warp => Sys2Proof.Machine.execEvictionSave wg warp s
  | .restore image core => Sys2Proof.Machine.execRestore image core s
  | .warpEnd core slot => Sys2Proof.Machine.execWarpEnd core slot s
  | .workgroupEnd wg => Sys2Proof.Machine.execWorkgroupEnd wg s
  | .launchEnd launch => Sys2Proof.Machine.execLaunchEnd launch s
  | .priorityAging tower => Sys2Proof.Machine.execPriorityAging tower s
  | .troleKtarget tower k clearErr => Sys2Proof.Machine.execTroleKtarget tower k clearErr s
  | .troleDmask tower mask => Sys2Proof.Machine.execTroleDmask tower mask s
  | .troleErrClear tower => Sys2Proof.Machine.execTroleErrClear tower s
  | .roleChange tower => Sys2Proof.Machine.execRoleChange tower s
  | .qctlWrite cslot queue val => Sys2Proof.Machine.execQctlWrite cslot queue val s
  | .qctlErrClear cslot queue => Sys2Proof.Machine.execQctlErrClear cslot queue s
  | .qtailWrite host cslot queue val => Sys2Proof.Machine.execQtailWrite host cslot queue val s
  | .llenWrite tower cls val => Sys2Proof.Machine.execLlenWrite tower cls val s
  | .mcoinrWrite tower val => Sys2Proof.Machine.execMcoinrWrite tower val s
  | .xplimWrite core val => Sys2Proof.Machine.execXplimWrite core val s
  | .ecbaseWrite comb val => Sys2Proof.Machine.execEcbaseWrite comb val s
  | .ecsizeWrite comb val => Sys2Proof.Machine.execEcsizeWrite comb val s
  | .monitorClear m => Sys2Proof.Machine.execMonitorClear m s
  | .monitorSample m val => Sys2Proof.Machine.execMonitorSample m val s
  | .registerWrite writer offset size val => Sys2Proof.Machine.execRegisterWrite writer offset size val s
  | .coldStart k0 k1 time => Sys2Proof.Machine.execColdStart k0 k1 time s
  | .warmStart time checkFails => Sys2Proof.Machine.execWarmStart time checkFails s
  | .lifecycleChange signed state => Sys2Proof.Machine.execLifecycleChange signed state s
  | .quote nonce => Sys2Proof.Machine.execQuote nonce s
  | .powerLoss => Sys2Proof.Machine.execPowerLoss s
  | .hostMemoryAccess addr len data => Sys2Proof.Machine.execHostMemoryAccess addr len data s
  | .flitReceive port seq crcOk => Sys2Proof.Machine.execFlitReceive port seq crcOk s
  | .portDown port => Sys2Proof.Machine.execPortDown port s
  | .linkTimeMessage peer time => Sys2Proof.Machine.execLinkTimeMessage peer time s
  | .ptmSync time => Sys2Proof.Machine.execPtmSync time s
  | .thermalSample tower temps => Sys2Proof.Machine.execThermalSample tower temps s
  | .purseRefill tower => Sys2Proof.Machine.execPurseRefill tower s
  | .hostLinkLoss => Sys2Proof.Machine.execHostLinkLoss s
  | .hostLinkReturn time => Sys2Proof.Machine.execHostLinkReturn time s
  | .registerSoftError core word double => Sys2Proof.Machine.execRegisterSoftError core word double s
  | .managementClusterAccess addr len data => Sys2Proof.Machine.execManagementClusterAccess addr len data s
  | .timeReportSend agent => Sys2Proof.Machine.execTimeReportSend agent s

end Sys2Proof.Machine
end

