-- ==== Sys2Proof/Machine/Moves.lean ====
section
/-!
DEFINITION. The moves of the machine (log 1): a fragment issuing the instruction at its PC, a step of the device, time
passing; and how one instruction is placed for the next step.
-/
namespace Sys2Proof.Machine

/-! ### Issue (R369) -/

/-- The order in which a quarter prefers ready fragments: priority, then the earlier ready-since time, then the lower warp
slot and the lower entry (R369). Is the first one preferred? -/
def preferred (a : Frag) (ra : FragRef) (b : Frag) (rb : FragRef) : Bool :=
  if a.pri ≠ b.pri then decide (b.pri < a.pri)
  else if a.since ≠ b.since then decide (a.since < b.since)
  else if ra.slot ≠ rb.slot then decide (ra.slot < rb.slot)
  else decide (ra.entry < rb.entry)

/-- May a warp go on: it is not at rest (R402), and what WRESUME restarted of its matrix queue has run (R296)? -/
def Warp.goesOn (w : Warp) : Bool := !w.resting && (!w.m.resumed || w.m.queue.isEmpty)

/-- Does a fragment of the warp in a slot stand before a fragment of the same quarter (R369)? -/
def slotBefore (s : State) (r : FragRef) (fr : Frag) (slot : Nat) (w : Warp) : Bool :=
  slot % 4 == r.slot % 4 && w.goesOn && (w.frags.zip (List.range 8)).any fun x =>
    x.1.st == .ready && preferred x.1 ⟨r.core, slot, x.2⟩ fr r && hasLine s r.core slot w x.1

/-- Does another ready fragment of the quarter stand before the fragment? -/
def anyBefore (s : State) (r : FragRef) (fr : Frag) : Nat → List (Option Warp) → Bool
  | _, [] => false
  | i, none :: xs => anyBefore s r fr (i + 1) xs
  | i, some w :: xs => slotBefore s r fr i w || anyBefore s r fr (i + 1) xs

/-- Does a tower's clock change now, while its towers' issue stops (R53, R54)? -/
def Tower.clockChanging (t : Tower) : Bool :=
  t.step == 2 && (t.changing.any fun x => (x.2 == 3) != (t.k == 3))

/-- May a core issue: powered and started, its layer runs, its tower's issue is not stopped (R48, R54, R419, R421), its
fragments have aged (R370), and the descriptor table need not be waited for (R166)? -/
def coreIssues (s : State) (core : Nat) : Bool :=
  let t := s.tower (towerOf core)
  s.pkg.powered && s.pkg.bootStep == 0xFF && s.running core && t.thermal != .issueStopped && !t.clockChanging && !t.agingDue &&
    !s.tableHeld

/-- May the fragment issue now? A parked fragment is tried again, but for one that waits in XACQ (R234); a ready one whose line is present issues when its quarter
chooses it (R369). -/
def canIssue (s : State) (r : FragRef) (w : Warp) (fr : Frag) : Bool :=
  coreIssues s r.core && w.goesOn &&
    ((fr.st == .parked && !fr.awaitsGrant) || (fr.st == .ready && hasLine s r.core r.slot w fr && !anyBefore s r fr 0 (s.core r.core).slots))

/-- Does the fragment wait for its line alone (R369)? -/
def wantsLine (s : State) (r : FragRef) (w : Warp) (fr : Frag) : Bool :=
  coreIssues s r.core && w.goesOn && fr.st == .ready && !hasLine s r.core r.slot w fr

/-- A word that is no instruction (R39), as its fragment reaches it: fault 0x0D (log 15). -/
def illegalWord (s : State) (r : FragRef) (w : Warp) (fr : Frag) (word : BitVec 96) : Trap :=
  { cause := 0x0D, lanes := (mkEnv s.tick r w fr (unpack word)).active, unit := unitOf (majorOf word) }

/-- Before a run begins, and before a flow instruction, the map loads of the run before have read, and what they wrote stands
(R32, R33). -/
def beginsRun (s : State) (r : FragRef) (i : Instr) : State :=
  if (s.frag r).runOver || i.isFlow then (settleLoads s r).modFrag r fun fr => { fr with run := [] } else s

/-- A fragment issues the instruction at its PC (R25): its line is entered, the slot's word is decoded, and the
instruction runs; a line that cannot be entered, or a word that is no instruction, is a fault. Nothing is done while the
line must be waited for (R166). -/
def issueAt (r : FragRef) (s : State) : Host.Outcome State Fault Refusal :=
  match s.warp r.core r.slot with
  | none => .next s
  | some w =>
    let fr := w.frag r.entry
    match issueLine { s with cur := r } r w fr with
    | (s, .bad c) => .next (takeTraps r s [fetchTrap fr c])
    | (s, .wait) => .next s
    | (s, .ok line) =>
      let bs := lineSlot line (pcSlot fr.pc)
      match decodeBytes bs with
      | .ok i => exec i (beginsRun s r i)
      | .error _ => .next (takeTraps r s [illegalWord s r w fr (BitVec.ofNat 96 (leNat bs))])

/-- The line that a ready fragment goes on in is brought into its quarter; a fault is that of a line entered sequentially
(R25, R369). -/
def lineMove (r : FragRef) (w : Warp) (fr : Frag) (s : State) : State :=
  match enterLine s r.core r.slot w.cslot w.ctxid (pcLine fr.pc) with
  | (s, .bad c) => takeTraps r s [fetchTrap fr c]
  | (s, _) => s

/-- A fragment goes on: one that still stands at its warp's entry is checked there (R346), one that lacks its line has it
fetched, one that waits in XACQ is served (R234), and one that may issue issues. -/
def issueMove (r : FragRef) (s : State) : Host.Outcome State Fault Refusal :=
  match s.warp r.core r.slot with
  | none => .next s
  | some w =>
    let fr := w.frag r.entry
    if fr.entering && fr.st == .ready then .next (if coreIssues s r.core && w.goesOn then checkEntry s r else s)
    else if wantsLine s r w fr then .next (lineMove r w fr s)
    else if fr.awaitsGrant then .next (if coreIssues s r.core && w.goesOn then grantMove r w s else s)
    else if canIssue s r w fr then issueAt r s
    else .next s

/-! ### The other moves -/

/-- A pending map store performed at its target (R59). -/
def mapMove (core slot idx : Nat) (s : State) : State :=
  match s.warp core slot with
  | none => s
  | some w => match w.maps[idx]? with
    | none => s
    | some m => (performMap s core w m).modWarp core slot fun w => { w with maps := dropAt idx w.maps }

/-- A map load that is still to come reads its unit (R59). -/
def loadMove (r : FragRef) (idx : Nat) (s : State) : State :=
  match (s.frag r).loads[idx]? with
  | none => s
  | some m => (performLoad r s m).modFrag r fun fr => { fr with loads := dropAt idx fr.loads }

/-- A fragment fetches a line ahead of its issue (R176, R408); one that cannot be fetched is not kept. -/
def aheadMove (r : FragRef) (va : Nat) (s : State) : State :=
  match s.warp r.core r.slot with
  | none => s
  | some w =>
    if (w.frag r.entry).issuable && coreIssues s r.core && va % 64 == 0 then
      match enterLine s r.core r.slot w.cslot w.ctxid va with
      | (s, .ok line) => s.modFrag r fun fr => { fr with ahead := fr.ahead ++ [(va, line)] }
      | (s, _) => s
    else s

/-- One move. A row of the table that is an instruction is made by the issue of a fragment alone. -/
def performMove (m : Move) (s : State) : Host.Outcome State Fault Refusal :=
  match m with
  | .issue r => issueMove r s
  | .event i => if i.fields.isSome then .next s else exec i s
  | .time ns => .next (passNs s ns)
  | .mapPerform core slot idx => if s.pkg.powered then .next (mapMove core slot idx s) else .next s
  | .fetchAhead r va => .next (aheadMove r va s)
  | .cfgPerform core slot => if s.pkg.powered then .next (performCfgsUpTo s core slot 1) else .next s
  | .mapLoad r idx => if s.pkg.powered then .next (loadMove r idx s) else .next s

/-! ### The moves that the device may make of its own (log 1) -/

/-- A move as it acts on the state. -/
abbrev Act := State → Host.Outcome State Fault Refusal

/-- The numbers below a length. -/
def below {α : Type} (xs : List α) : List Nat := List.range xs.length

/-- The moves of a warp's fragments. -/
def fragMoves (s : State) (c slot : Nat) (w : Warp) : List Act :=
  ((w.frags.zip (List.range 8)).filter fun x => (x.1.entering && x.1.st == .ready) || x.1.awaitsGrant || wantsLine s ⟨c, slot, x.2⟩ w x.1 ||
      canIssue s ⟨c, slot, x.2⟩ w x.1).flatMap fun x =>
    let r : FragRef := ⟨c, slot, x.2⟩
    [issueMove r, performMove (.fetchAhead r (pcLine x.1.pc)), performMove (.fetchAhead r (pcLine x.1.pc + 64)),
      execOrphanedWaitTimeout c slot x.2]

/-- The moves of a resident warp's operations, of its stores and reports, and of its end. -/
def warpMoves (c slot : Nat) (w : Warp) : List Act :=
  (below w.trv).flatMap (fun i => [execPairOperationRun c slot i, execPairOperationComplete c slot i,
      execPairOperationStop c slot i]) ++
    (if w.done then [execWarpEnd c slot] else []) ++
    (if w.resting then [execEvictionSave w.wg none, (execEvictionSave w.wg (some slot))] else []) ++
    (below w.maps).map (fun i => performMove (.mapPerform c slot i)) ++
    (w.frags.zip (List.range 8)).flatMap (fun x => (below x.1.loads).map fun i => performMove (.mapLoad ⟨c, slot, x.2⟩ i)) ++
    (if w.cfgs.isEmpty then [] else [performMove (.cfgPerform c slot)]) ++
    (below w.stnt).map (fun i => execStntPerform c slot i) ++
    (below w.fbs).map (fun i => execFeedbackUpdate c slot i)

/-- The moves of a core's units. -/
def coreMoves (s : State) (c : Nat) : List Act :=
  let k := s.core c
  (if k.slots.any fun x => x.any fun w => !w.m.queue.isEmpty then
      [execMatrixOpStart c, execOperandsConsumed c, execMatrixOpComplete c, execMatrixOpStop c,
        execMatrixErrorCompletion c]
    else []) ++
    (below k.records).map (fun i => execFaultRecordPost c i) ++ (k.weak ++ k.bad).map (fun x => execScrub c x)

/-- The moves of a context's queues, tasks and consumer batches. -/
def contextMoves (s : State) (i : Nat) : List Act :=
  if s.placing i then
    (List.range 16).flatMap (fun q => [execLaunchTake i q, execWorkgroupPlacement i q]) ++
      (below (poolOf s i)).map fun n => execTaskStart i n
  else []

/-- The moves of bindings, launches and workgroups. -/
def workMoves (s : State) : List Act :=
  (below s.binds).map (fun i => execConsumerDispatch i) ++ s.launches.map (fun l => execLaunchEnd l.id) ++
    s.groups.map (fun g => execWorkgroupEnd g.id)

/-- The moves of evicted work: the eviction that is due, and the restores. -/
def imageMoves (s : State) : List Act :=
  (match nextVictim s with
    | some (_, wg, slot) => [execEvictionSave wg slot]
    | none => []) ++
    s.images.flatMap fun x => ((List.range 256).filter (canRestore s x)).map fun c => execRestore x.id c

/-- The moves of one line's tokens, leases and data. -/
def lineMoves (ln : Nat) (x : LineState) : List Act :=
  let bank := fun (b : TokenBank) =>
    b.near.map (fun h => execEviction h.core ln) ++
      b.reqs.flatMap (fun r => [execTransientTimeout r.core ln, execPersistentRequest r.core ln,
        execPersistentRequestEnd r.core ln, execForwardedRead r.core ln]) ++
      b.msgs.flatMap fun m => match m.dest with
        | some c => [execReadReply c ln, execWriteReply c ln]
        | none => (b.near.map fun h => execEviction h.core ln) ++ (List.range 256).map fun c => execEviction c ln
  bank x.bank0 ++ bank x.bank1 ++ [execRecall 0 ln, execRecall 1 ln] ++
    (if x.leases.isEmpty && x.wanted.isEmpty then [] else [execOutsideLeaseExpiry ln]) ++
    if x.dirty then [execWriteBack ln] else []

/-- The value that a monitor counts next (R426): the one seen, or a measured one by the free choice. -/
def monitorValues (s : State) (m : Nat) : List Nat :=
  match (s.monitor m).seen with
  | [] => []
  | (x, exact) :: _ => [if exact then x else x + choose s.tick (8100 + m) (2 ^ 32)]

/-- The moves of the towers, the combs, the memory controllers, the agents and the monitors. -/
def packageMoves (s : State) : List Act :=
  (List.range 2).flatMap (fun t => [execPriorityAging t, execRoleChange t]) ++
    ((List.range 32).filter fun c => !(s.comb c).chain.isEmpty).flatMap (fun c =>
      [execEngineCommandStart c, execEngineCommandComplete c, execEngineErrorCompletion c,
        execEngineCommandCancel c]) ++
    s.merges.map (fun m => execMergePath m.block) ++
    s.agents.flatMap (fun a => [execTimeReportTimeout a.agent, execTimeLostExpiry a.agent,
      execTimeReportSend a.agent]) ++
    (List.range 64).flatMap fun m => (monitorValues s m).map fun n => execMonitorSample m n

/-- Every move that the device may make of its own, time passing among them. -/
def deviceMoves (s : State) : List Act :=
  performMove (.time (choose s.tick 8001 1000 + 1)) :: (s.warps.flatMap fun x => fragMoves s x.1 x.2.1 x.2.2 ++ warpMoves x.1 x.2.1 x.2.2) ++
    (List.range 256).flatMap (coreMoves s) ++ (List.range 64).flatMap (contextMoves s) ++ workMoves s ++ imageMoves s ++
    s.lines.flatMap (fun x => lineMoves x.1 x.2) ++ packageMoves s

/-- The fragment that a quarter of a core issues next (R369). -/
def quarterNext (s : State) (core quarter : Nat) : Option FragRef :=
  (((List.range 128).filter fun slot => slot % 4 == quarter).flatMap fun slot =>
    (List.range 8).map fun i => (⟨core, slot, i⟩ : FragRef)).find? fun r =>
      (s.warp r.core r.slot).any fun w => (w.frag r.entry).st == .ready && canIssue s r w (w.frag r.entry)

/-- Places in a list of moves that take turns. -/
def turnPlaces : Nat := 2 ^ 20
/-- The move at a place of a list, if there is one there. -/
def moveAt (ms : List Act) (i : Nat) : Act :=
  match ms[i % turnPlaces]? with
  | some m => m
  | none => .next

/-- The moves that come round for ever (R362, R385): time passes; each quarter issues the fragment it prefers; each fragment is
tried, so that it waits for its line or its condition no longer than these last; and the moves of each warp, core, context,
line and of the rest of the device take turns. -/
def fairMove (n : Nat) (s : State) : Host.Outcome State Fault Refusal :=
  let m := n / 9
  match n % 9 with
  | 0 => .next (passNs s 1)
  | 1 => match quarterNext s (m / 4 % 256) (m % 4) with
    | some r => issueMove r s
    | none => .next s
  | 2 => issueMove ⟨m / 1024 % 256, m / 8 % 128, m % 8⟩ s
  | 3 => match s.warp (m % 256) (m / 256 % 128) with
    | some w => moveAt (warpMoves (m % 256) (m / 256 % 128) w) (m / 32768) s
    | none => .next s
  | 4 => moveAt (coreMoves s (m % 256)) (m / 256) s
  | 5 => moveAt (contextMoves s (m % 64)) (m / 64) s
  | 6 => moveAt (workMoves s) m s
  | 7 => moveAt (imageMoves s ++ packageMoves s) m s
  | _ => match s.lines[m % turnPlaces]? with
    | some x => moveAt (lineMoves x.1 x.2) (m / turnPlaces) s
    | none => .next s

/-- The move the device makes when the agenda is empty: a start that has been asked for, a cycle of a clock or an aging that
is due, or any of its moves; of a fixed number of the latter one is kept for the moves that come round (R362, log 77). -/
def freeMove (s : State) : Host.Outcome State Fault Refusal :=
  if !s.pkg.powered then .next (passNs s 1)
  else if s.pkg.bootStep ≠ 0xFF then execWarmStart s.pkg.gtime (choose s.tick 8002 2 == 1) s
  else if (s.tower 0).agingDue then execPriorityAging 0 s
  else if (s.tower 1).agingDue then execPriorityAging 1 s
  else if 100 ≤ (s.tower 0).due then execPurseRefill 0 s
  else if 100 ≤ (s.tower 1).due then execPurseRefill 1 s
  else
    let s := { s with rounds := s.rounds + 1 }
    if s.rounds % (Config.patience + 1) = 0 then fairMove (s.rounds / (Config.patience + 1)) s
    else
      let ms := deviceMoves s
      match ms[choose s.tick 8000 ms.length]? with
    | some m => m s
    | none => .next s

/-! ### Placing one instruction -/

/-- The fetch line that holds one word in slot 0, every slot a legal target. -/
def wordLine (w : Nat) : List Byte := leBytes 12 w ++ List.replicate 48 0 ++ [0, 0, 0, 0xF8]

/-- A warp of sixteen lanes as it stands at a PC, one fragment holding all of them (R345). -/
def freshWarp (tag : W32) (cslot : Nat) (ctxid : BitVec 16) (launch wg idx width : Nat) (pc : W64) : Warp :=
  { tag := tag, cslot := cslot, ctxid := ctxid, launch := launch, wg := wg, idx := idx, width := width, ended := 0,
    r := { g := List.replicate 8 {} }, m := { regs := List.replicate 16 {} }, stg := {},
    frags := { st := .ready, pc := pc, mem := fullMask width, exm := fullMask width } :: List.replicate 7 {},
    joins := List.replicate 32 none, part := [], stnt := [], latch := none, trv := [], maps := [], fbs := [], cfgs := [], grp := [],
    resting := false }

/-- The address at which the context descriptor table of `placeWord` lies. -/
def placeTable : Nat := 0x2000000

/-- One instruction placed for the next step (log 9): a supervisor context in slot 0, a warp of it in slot 0 of core
96, the line with the word in that warp's quarter, and the warp's issue as the next move. -/
def placeWord (s : State) (w : Nat) : State :=
  { (s.modCore 96 fun k =>
      { k with slots := modAt (fun _ => some (freshWarp 1 0 0 0 0 0 16 0x100000)) 0 k.slots,
               icache := [⟨0, 0, 0x100000, 0x100000, wordLine w⟩] }) with
    pkg := { s.pkg with cdtbase := BitVec.ofNat 64 placeTable }, mem := spSet 0 s.mem placeTable 3,
    agenda := [.issue ⟨96, 0, 0⟩] }

end Sys2Proof.Machine
end

