-- ==== Sys2Proof/Machine/Step.lean ====
section
/-!
DEFINITION. One step of the machine: the next move of the agenda, or, when it is empty, a move that the device makes
of its own (log 1).
-/
namespace Sys2Proof.Machine

/-- One step: the number of the step advances, and one move is made. -/
def step (s : State) : Host.Outcome State Fault Refusal :=
  let t := { s with tick := s.tick + 1 }
  match t.agenda with
  | m :: ms => performMove m { t with agenda := ms }
  | [] => freeMove t

/-- The state with one instruction placed where the next step fetches (log 9). -/
def State.withFetchWord (s : State) (nbits w : Nat) : State := placeWord s (w % 2 ^ nbits)

end Sys2Proof.Machine
end

