-- ==== Sys2Proof/WellFormed.lean ====
section
/-!
DEFINITION. Well-formed instructions: those whose word the spec gives a meaning (spec/01 R39). A step of the device,
which has no encoding, is no well-formed instruction.
-/
namespace Sys2Proof

/-- The instruction's fields pass every check of its word (R13 to R21, R39). -/
abbrev Instr.WellFormed (i : Instr) : Prop := i.check = none

end Sys2Proof
end

