-- ==== Sys2Proof/Certificates/Slice0/Obligations.lean ====
section
/-!
DEFINITION. The statements for the provers, and the words they are stated in: the fragment that issues, the registers of
its warp as the spec reads them, when an instruction stands ready to run, and what it is to complete.
-/
namespace Sys2Proof.Claims
open Sys2Proof.Machine

/-! ### The registers of the issuing fragment -/

/-- The issuing fragment of a warp. -/
abbrev frag (s : State) (w : Warp) : Frag := w.frag s.cur.entry
/-- v[n] in lane L (R228). -/
abbrev v (w : Warp) (n L : Nat) : W32 := spGet 0 w.r.v (n * 64 + L)
/-- The pair v[n], v[n + 1] in lane L (R112). -/
abbrev v64 (w : Warp) (n L : Nat) : W64 := (v w (n + 1) L ++ v w n L : BitVec 64)
/-- s[n] as the fragment reads it: its uniform shadow, else the warp's register (R352). -/
abbrev sr (s : State) (w : Warp) (n : Nat) : W64 := sHeld w (frag s w) n
/-- k[n], which reads as all ones for n = 0 and as zero at and above W (R229). -/
abbrev kr (w : Warp) (n : Nat) : Mask := if n = 0 then fullMask w.width else spGet 0 w.r.k n &&& fullMask w.width
/-- exm (R229). -/
abbrev exm (s : State) (w : Warp) : Mask := (frag s w).exm &&& (frag s w).mem
/-- Active, for a predicate field of an instruction (R16). -/
abbrev active (s : State) (w : Warp) (f : Fields) : Mask :=
  exm s w &&& (if f.pneg then fullMask w.width &&& ~~~kr w f.pk.toNat else kr w f.pk.toNat)
/-- What the instruction with the fields `f` sees, at the first instruction of a run. -/
abbrev env (s : State) (w : Warp) (f : Fields) : Env :=
  { ref := s.cur, w := w, fr := frag s w, f := f, active := active s w f, exm := exm s w, t := s.tick }

/-! ### Ready to run, and complete -/

/-- The current fragment stands ready at the legal instruction `i`, the first of a run: its warp may run it (R38), its
blocks cover the operands (R232), and no code word of the core is in error (R238). -/
structure Ready (i : Instr) (s : State) (w : Warp) : Prop where
  warp : s.warp s.cur.core s.cur.slot = some w
  st : (frag s w).st = .ready
  wait : (frag s w).wait = none
  run : (frag s w).run = []
  legal : i.WellFormed
  mode : i.privileged = true → s.ctxSup w.cslot = true
  grant : (match i.shape, i.fields with
    | some sh, some f => grantOk sh f w.r.xgrant
    | _, _ => true) = true
  codes : (s.core s.cur.core).bad = [] ∧ (s.core s.cur.core).weak = []

/-- The state differs from the one before in the issuing warp alone, and there in its registers and its issuing fragment
alone, which stands ready at a PC with its lanes as before; every byte of memory reads as before. -/
structure OnlyWarp (s t : State) (w w' : Warp) (pc : W64) : Prop where
  only : t = s.setWarp s.cur.core s.cur.slot (some w')
  same : w' = { w with r := w'.r, frags := w'.frags }
  others : ∀ j, j ≠ s.cur.entry → w'.frag j = w.frag j
  pc : (frag s w').pc = pc
  st : (frag s w').st = .ready ∧ (frag s w').wait = none
  lanes : (frag s w').exm = (frag s w).exm ∧ (frag s w').mem = (frag s w).mem ∧ (frag s w').jr = (frag s w).jr
  mem : ∀ a, t.byte a = s.byte a

/-- The instruction completes: it answers a next state that differs in the issuing warp's registers alone, with the
fragment at the next slot (R246). -/
structure Completes (i : Instr) (s t : State) (w w' : Warp) : Prop where
  next : exec i s = .next t
  only : OnlyWarp s t w w' (nextPC (frag s w).pc)

/-- The state in which the issuing warp's ordinary accesses have taken their place in the one order of R162 (R428): what is kept
of past stores to the on-chip map says what they come after, and no other field differs. -/
abbrev ordered (s : State) (w : Warp) : State :=
  (s.flow [.warp w.ctxid w.tag] .order).flow [.order] (.made w.ctxid w.tag)
/-- The state in which what the carriers stand for comes before the warp's later accesses (R428), and no other field differs. -/
abbrev joined (s : State) (w : Warp) (src : List Carrier) : State := s.flow src (.warp w.ctxid w.tag)

/-- The instruction completes: it answers a next state that differs in the issuing warp's registers alone from `u`, a state that
is as the one before but for what is kept of past map stores. -/
structure CompletesFrom (i : Instr) (s u t : State) (w w' : Warp) : Prop where
  next : exec i s = .next t
  only : OnlyWarp u t w w' (nextPC (frag s w).pc)

/-- The registers but s[n] are as before; FLAGS gained `fl`. -/
structure OnlyS (s : State) (w w' : Warp) (n : Nat) (x : W64) (fl : Nat) : Prop where
  value : sr s w' n = x
  others : ∀ m, m ≠ n → sr s w' m = sr s w m
  rest : w'.r = { w.r with s := w'.r.s, flags := w.r.flags ||| BitVec.ofNat 14 fl }

/-- The registers but k[n] are as before. -/
structure OnlyK (s : State) (w w' : Warp) (n : Nat) (x : Mask) (fl : Nat) : Prop where
  value : kr w' n = x
  others : ∀ m, m ≠ n → kr w' m = kr w m
  scalars : ∀ m, sr s w' m = sr s w m
  rest : w'.r = { w.r with k := w'.r.k, flags := w.r.flags ||| BitVec.ofNat 14 fl }

/-- The registers but the words that `x` gives a value are as before: `x n L` is the new value of v[n] in lane L. -/
structure OnlyV (s : State) (w w' : Warp) (x : Nat → Nat → Option W32) (fl : Nat) : Prop where
  value : ∀ n L, L < 64 → v w' n L = (x n L).getD (v w n L)
  scalars : ∀ m, sr s w' m = sr s w m
  rest : w'.r = { w.r with v := w'.r.v, flags := w.r.flags ||| BitVec.ofNat 14 fl }

/-- No s register of the list would need a fifth shadow (R352). -/
abbrev ShadowsFit (s : State) (w : Warp) (regs : List Nat) : Prop := shadowRefused w (frag s w) regs = none

/-- The state after a precise fault with one trap (R36, R41): the fragment stands stopped with its PC as it was, its
registers, its warp and memory are as before, and its core holds one record more. -/
structure Faulted (s t : State) (w : Warp) (x : Trap) : Prop where
  state : t = takeTraps s.cur s [x]
  stopped : (t.frag s.cur).st = .stopped
  pc : (t.frag s.cur).pc = (frag s w).pc
  regs : (t.warp s.cur.core s.cur.slot).map (fun w => w.r) = some w.r
  mem : ∀ a, t.byte a = s.byte a
  record : (t.core s.cur.core).records =
    (s.core s.cur.core).records ++ [recordOf s s.cur w (frag s w).pc 0 x]

/-- The fields of a word with every operand, control and immediate bit zero. -/
abbrev blank : Fields :=
  { sw := false, minor := 0, dst := 0, opa := 0, opb := 0, opc := 0, pneg := false, pk := 0, typ := 0, ascl := false,
    bscl := false, bimm := false, cscl := false, qual := 0, imm := 0 }

end Sys2Proof.Claims

open Sys2Proof Sys2Proof.Machine Sys2Proof.Claims

/-! ### Encoding -/

/-- R12 to R21 and R39: every legal instruction is what its own word decodes to, and what the 12 bytes of a slot that
hold the word in little-endian order decode to. -/
def Obligations.DecodeOfEncode : Prop :=
  ∀ (i : Instr) (w : BitVec 96), i.WellFormed → encode i = some w →
    decode w = .ok i ∧ decodeBytes (leBytes 12 w.toNat) = .ok i

/-- R12 and R39: a word that decodes is the word of the instruction it decodes to, which is legal: no bit of a legal
word is left out of the instruction. -/
def Obligations.EncodeOfDecode : Prop :=
  ∀ (w : BitVec 96) (i : Instr), decode w = .ok i → i.WellFormed ∧ encode i = some w

/-- Words written out from the encodings of the spec (R12 with R37, R78, R142, R174, R189, R234, R240, R245, R256, R281, R357,
R371, R382, R394 and R413), field by field, and two words that are no instruction (R39). -/
def Obligations.WrittenWords : Prop :=
  decode 0x010000000000000000000000 = .ok (.nop blank) ∧
  decode 0x018000000000000000000000 = .ok (.nop { blank with sw := true }) ∧
  decode 0x040300000000200000000010 = .ok (.brv { blank with minor := 3, pk := 2, imm := 0x10 }) ∧
  decode 0x090000000000000000000001 = .ok (.rcvg { blank with imm := 1 }) ∧
  decode 0x12000700000000000000000B = .ok (.sget { blank with dst := 7, imm := 11 }) ∧
  decode 0x13000007000000000000000B = .ok (.sput { blank with opa := 7, imm := 11 }) ∧
  decode 0x140000000000000000000003 = .ok (.xacq { blank with imm := 3 }) ∧
  decode 0x200003040000042000000064 = .ok (.sadd { blank with dst := 3, opa := 4, typ := 4, bimm := true, imm := 100 }) ∧
  decode 0x8C0005010208000000000000 = .ok (.vcmprs { blank with dst := 5, opa := 1, opb := 2, opc := 8 }) ∧
  decode 0x9E0700040500000000000100 = .ok (.cflush { blank with minor := 7, opa := 4, opb := 5, imm := 0x100 }) ∧
  decode 0xB18009040000002000000001 = .ok (.barv { blank with sw := true, dst := 9, opa := 4, bimm := true, imm := 1 }) ∧
  decode 0xB70000000000000000000003 = .ok (.grpsync { blank with imm := 3 }) ∧
  decode 0xBB800A000000000000000000 = .ok (.iter { blank with sw := true, dst := 10 }) ∧
  decode 0xBC0006080400000000000000 = .ok (.rqpush { blank with dst := 6, opa := 8, opb := 4 }) ∧
  decode 0xD0800802050C050100000302 = .ok (.hld { blank with
    sw := true, dst := 8, opa := 2, opb := 5, opc := 12, typ := 5, qual := 1, imm := 0x302 }) ∧
  decode 0xF00003040500000000000000 = .ok (.segld { blank with dst := 3, opa := 4, opb := 5 }) ∧
  decode 0xF20400040000000000000000 = .ok (.wresume { blank with minor := 4, opa := 4 }) ∧
  decode 0xF50002030500000000000000 = .ok (.frqack { blank with dst := 2, opa := 3, opb := 5 }) ∧
  decode 0xF70100040600000000000000 = .ok (.cfgwr { blank with minor := 1, opa := 4, opb := 6 }) ∧
  decode 0 = .error .major ∧ decode 0xE00000000000000000000000 = .error .major

/-- R31, R37, R39 (log 1): a step whose agenda is headed by an issue. When the fragment may issue and its line holds the bytes
of a legal instruction in the PC's slot, the step is `exec` of that instruction in the state `u` that reaching the line
leaves, where nothing of the warp has changed but the times since when other fragments are ready and that they have not aged
since (R369, R370); where the fragment still has map loads to come, they have read before a new run and before a flow
instruction (R32). A step whose agenda is headed by a row of the table that is no instruction is `exec` of that row. The number
of the step has advanced, the agenda is shortened, and the fragment is the current one. -/
def Obligations.StepRunsInstruction : Prop :=
  (∀ (s u : State) (r : FragRef) (ms : List Move) (w : Warp) (line : List Byte) (i : Instr),
    let t : State := { s with tick := s.tick + 1, agenda := ms }
    s.agenda = .issue r :: ms → s.warp r.core r.slot = some w → canIssue t r w (w.frag r.entry) = true →
    (w.frag r.entry).entering = false →
    issueLine { t with cur := r } r w (w.frag r.entry) = (u, .ok line) →
    decodeBytes (lineSlot line (pcSlot (w.frag r.entry).pc)) = .ok i →
    u.cur = r ∧ u.tick = s.tick + 1 ∧ u.agenda = ms ∧
      (∃ w', u.warp r.core r.slot = some w' ∧ w' = { w with frags := w'.frags } ∧ w'.frag r.entry = w.frag r.entry ∧
        ∀ j, w'.frag j = { w.frag j with since := (w'.frag j).since, aged := (w'.frag j).aged }) ∧
      (∀ a, u.byte a = s.byte a) ∧ step s = exec i (beginsRun u r i) ∧
      (((w.frag r.entry).runOver = false ∧ i.isFlow = false ∨ (w.frag r.entry).loads = [] ∧ (w.frag r.entry).run = []) →
        beginsRun u r i = u)) ∧
  ∀ (s : State) (i : Instr) (ms : List Move), s.agenda = .event i :: ms → i.fields = none →
    step s = exec i { s with tick := s.tick + 1, agenda := ms }

/-- R16, R38, R39, R40, R41, R232: a fragment that reaches a word which is no instruction takes a precise fault 0x0D that names
no address; so does an instruction that fails the checks of its word, of its warp's mode or of its warp's blocks, whatever
Active holds. -/
def Obligations.IllegalFaults : Prop :=
  (∀ (s : State) (r : FragRef) (ms : List Move) (w : Warp) (line : List Byte) (x : Reject),
    let t : State := { s with tick := s.tick + 1, agenda := ms, cur := r }
    s.agenda = .issue r :: ms → s.warp r.core r.slot = some w → canIssue t r w (w.frag r.entry) = true →
    (w.frag r.entry).entering = false →
    issueLine t r w (w.frag r.entry) = (t, .ok line) →
    decodeBytes (lineSlot line (pcSlot (w.frag r.entry).pc)) = .error x →
    ∃ u y, step s = .next u ∧ Faulted t u w y ∧ y.cause = 0x0D ∧ y.va = 0 ∧ y.aux = 0) ∧
  ∀ (i : Instr) (f : Fields) (s : State) (w : Warp), i.fields = some f → s.warp s.cur.core s.cur.slot = some w →
    (frag s w).st = .ready → (frag s w).wait = none → (frag s w).run = [] → (s.core s.cur.core).weak = [] →
    (i.check ≠ none ∨ (i.privileged = true ∧ s.ctxSup w.cslot = false) ∨
      ∃ sh, i.shape = some sh ∧ grantOk sh f w.r.xgrant = false) →
    ∃ t x, exec i s = .next t ∧ Faulted s t w x ∧ x.cause = 0x0D ∧ x.va = 0 ∧ x.aux = 0 ∧ x.lanes = active s w f

namespace Sys2Proof.Claims
open Sys2Proof.Machine

/-! ### Operands -/

/-- Is a type code or minor [86] signed (R18, R256)? -/
abbrev sgn (f : Fields) : Bool := f.typ == 1 || f.typ == 3 || f.minor.getLsbD 6
/-- Is the type 64 bits wide (R15)? -/
abbrev w64 (f : Fields) : Bool := f.typ == 3 || f.typ == 4 || f.typ == 6
/-- The immediate as operand B of an integer type (R14). -/
abbrev immI (f : Fields) : W64 := if f.typ = 3 then f.imm.signExtend 64 else f.imm.setWidth 64
/-- Operand B of a scalar instruction (R14, R256). -/
abbrev sB (s : State) (w : Warp) (f : Fields) : W64 := if f.bimm then immI f else sr s w f.opb.toNat
/-- A vector-kind operand in a lane, as 32 and as 64 bits; its scalar bit makes it an s register (R14). -/
abbrev op32 (s : State) (w : Warp) (scl : Bool) (n : BitVec 8) (L : Nat) : W32 :=
  if scl then (sr s w n.toNat).setWidth 32 else v w n.toNat L
abbrev op64 (s : State) (w : Warp) (scl : Bool) (n : BitVec 8) (L : Nat) : W64 :=
  if scl then sr s w n.toNat else v64 w n.toNat L
/-- Operands A, B and C of an integer instruction in a lane, extended by zeros to 64 bits when they are words. -/
abbrev vA (s : State) (w : Warp) (f : Fields) (wide : Bool) (L : Nat) : W64 :=
  if wide then op64 s w f.ascl f.opa L else (op32 s w f.ascl f.opa L).setWidth 64
abbrev vB (s : State) (w : Warp) (f : Fields) (wide : Bool) (L : Nat) : W64 :=
  if f.bimm then immI f else if wide then op64 s w f.bscl f.opb L else (op32 s w f.bscl f.opb L).setWidth 64
abbrev vC (s : State) (w : Warp) (f : Fields) (wide : Bool) (L : Nat) : W64 :=
  if wide then op64 s w f.cscl f.opc L else (op32 s w f.cscl f.opc L).setWidth 64

/-! ### Integer functions of `n` bits, in the spec's terms (R111, R257, R260) -/

/-- A function of two values of any width; the flag says whether the type is signed. -/
abbrev IntFn := Bool → (n : Nat) → BitVec n → BitVec n → BitVec n
/-- A bit vector as an integer of its type. -/
abbrev num (sg : Bool) {n : Nat} (a : BitVec n) : Int := if sg then a.toInt else (a.toNat : Int)
/-- An exact integer clamped to a type's range (R111). -/
abbrev clamp (sg : Bool) (n : Nat) (x : Int) : BitVec n :=
  if sg then BitVec.ofInt n (max (-(2 ^ (n - 1))) (min (2 ^ (n - 1) - 1) x))
  else BitVec.ofInt n (max 0 (min (2 ^ n - 1) x))
/-- a + b and the like: wrapping, or the exact result clamped under .sat (R111, R261). -/
abbrev wrapOrClamp (sat : Bool) (x : Int → Int → Int) : IntFn := fun sg n a b =>
  if sat then clamp sg n (x (num sg a) (num sg b)) else BitVec.ofInt n (x (num sg a) (num sg b))
abbrev addI (sat : Bool) : IntFn := fun sg n a b => if sat then clamp sg n (num sg a + num sg b) else a + b
abbrev subI (sat : Bool) : IntFn := fun sg n a b => if sat then clamp sg n (num sg a - num sg b) else a - b
abbrev mulI (sat : Bool) : IntFn := fun sg n a b => if sat then clamp sg n (num sg a * num sg b) else a * b
/-- The high half of the 2n-bit product. -/
abbrev mulhI : IntFn := fun sg n a b =>
  if sg then ((a.signExtend (2 * n) * b.signExtend (2 * n)) >>> n).setWidth n
  else ((a.setWidth (2 * n) * b.setWidth (2 * n)) >>> n).setWidth n
abbrev shlI : IntFn := fun _ n a b => a <<< (b.toNat % n)
abbrev shrI : IntFn := fun _ n a b => a >>> (b.toNat % n)
abbrev sraI : IntFn := fun _ n a b => a.sshiftRight (b.toNat % n)
abbrev minI : IntFn := fun sg _ a b => if num sg a ≤ num sg b then a else b
abbrev maxI : IntFn := fun sg _ a b => if num sg b ≤ num sg a then a else b
/-- Leading zero bits, and set bits. -/
abbrev clzI : IntFn := fun _ n a _ => BitVec.ofNat n (((List.range n).find? fun i => a.getLsbD (n - 1 - i)).getD n)
abbrev popI : IntFn := fun _ n a _ => BitVec.ofNat n ((List.range n).filter fun i => a.getLsbD i).length
/-- The field at `p`, `len` bits wide, extended by the type's signedness. -/
abbrev bfeI (p len : Nat) : IntFn := fun sg n a _ =>
  if sg then (a.extractLsb' p len).signExtend n else (a.extractLsb' p len).setWidth n
/-- The bits p to p + len − 1 of `d` replaced by the low bits of `a`. -/
abbrev bfiI (p len : Nat) {n : Nat} (d a : BitVec n) : BitVec n :=
  let m : BitVec n := (BitVec.allOnes len).setWidth n <<< p
  (d &&& ~~~m) ||| ((a <<< p) &&& m)
/-- The conditions of SCMP and VCMP. -/
abbrev condI (c : Nat) (x y : Int) : Bool :=
  match c with
  | 0 => x == y
  | 1 => x != y
  | 2 => decide (x < y)
  | 3 => decide (x ≤ y)
  | 4 => decide (y < x)
  | _ => decide (y ≤ x)
/-- A function of scalars of the instruction's type: on w bits, its result extended by sign or by zero (R256). -/
abbrev onType (f : Fields) (g : IntFn) (a b : W64) : W64 :=
  if w64 f then g (sgn f) 64 a b
  else if sgn f then (g true 32 (a.setWidth 32) (b.setWidth 32)).signExtend 64
  else (g false 32 (a.setWidth 32) (b.setWidth 32)).setWidth 64

/-- A scalar-class instruction whose fragment's Active is not empty and whose destination needs no fifth shadow completes,
and s[dst] alone receives `x` with the flags `fl` raised (R16, R244, R352). -/
def ScalarResult (mk : Fields → Instr) (x : State → Warp → Fields → W64) (fl : State → Warp → Fields → Nat) : Prop :=
  ∀ f s w, Ready (mk f) s w → active s w f ≠ 0 → ShadowsFit s w [f.dst.toNat] →
    ∃ t w', Completes (mk f) s t w w' ∧ OnlyS s w w' f.dst.toNat (x s w f) (fl s w f)

/-- A mask-class instruction whose Active is not empty completes, and k[dst] alone receives `x` in the lanes below W. -/
def MaskResult (mk : Fields → Instr) (x : State → Warp → Fields → Mask) : Prop :=
  ∀ f s w, Ready (mk f) s w → active s w f ≠ 0 →
    ∃ t w', Completes (mk f) s t w w' ∧ OnlyK s w w' f.dst.toNat (x s w f &&& fullMask w.width) 0

/-- A per-lane instruction completes, and each lane L of Active alone receives `x L` with its flags: as the word v[dst], or
as the pair v[dst], v[dst + 1] (R112, R243). -/
def LaneResult (mk : Fields → Instr) (wide : Fields → Bool) (x : State → Warp → Fields → Nat → W64 × Nat) : Prop :=
  ∀ f s w, Ready (mk f) s w → active s w f ≠ 0 →
    ∃ t w', Completes (mk f) s t w w' ∧
      OnlyV s w w' (fun n L =>
        if (active s w f).getLsbD L = false then none
        else if n = f.dst.toNat then some ((x s w f L).1.setWidth 32)
        else if wide f = true ∧ n = f.dst.toNat + 1 then some (((x s w f L).1 >>> 32).setWidth 32)
        else none)
        (((lanesOf (active s w f)).map fun L => (x s w f L).2).foldl (· ||| ·) 0)

end Sys2Proof.Claims

/-! ### Scalar and mask instructions -/

/-- R16: an instruction of a per-lane or scalar class whose Active is empty advances the PC and changes nothing else. The
excluded instructions are those whose own rules speak of an empty Active, and the flow instructions. -/
def Obligations.EmptyActive : Prop :=
  ∀ i f s w, i.fields = some f → i.isFlow = false → Ready i s w → active s w f = 0 →
    i ∉ [.nop f, .exmwr f, .vcmprs f, .vexpnd f, .mmovm f, .mmovv f, .mrowp f, .mrowpSet f, .pair f, .pairx f] →
    ∃ t w', Completes i s t w w' ∧ w'.r = w.r

/-- R256, R257, R258, R111: the results of SADD, SSUB, SMUL, SMULH, SAND, SOR, SXOR, SSHL, SSHR, SSRA, SMIN, SMAX and SMOV, and of
SDIV and SREM with the divide-by-zero flag for a zero divisor; the minimum by −1 gives the minimum and 0. -/
def Obligations.ScalarArithmetic : Prop :=
  (∀ p ∈ ([(.sadd, fun f => addI (f.qual.getLsbD 0)), (.ssub, fun f => subI (f.qual.getLsbD 0)),
      (.smul, fun f => mulI (f.qual.getLsbD 0)), (.smulh, fun _ => mulhI), (.sand, fun _ _ _ a b => a &&& b),
      (.sor, fun _ _ _ a b => a ||| b), (.sxor, fun _ _ _ a b => a ^^^ b), (.sshl, fun _ => shlI),
      (.sshr, fun _ => shrI), (.ssra, fun _ => sraI), (.smin, fun _ => minI), (.smax, fun _ => maxI),
      (.smov, fun _ _ _ a _ => a)] : List ((Fields → Instr) × (Fields → IntFn))),
    ScalarResult p.1 (fun s w f => onType f (p.2 f) (sr s w f.opa.toNat) (sB s w f)) fun _ _ _ => 0) ∧
  ScalarResult .sdiv
    (fun s w f => onType f (fun sg _ a b => if b = 0 then BitVec.allOnes _ else if sg then a.sdiv b else a.udiv b)
      (sr s w f.opa.toNat) (sB s w f))
    (fun s w f => if (if w64 f then sB s w f else (sB s w f).setWidth 32 |>.setWidth 64) = 0 then 2 else 0) ∧
  ScalarResult .srem
    (fun s w f => onType f (fun sg _ a b => if b = 0 then a else if sg then a.srem b else a.umod b)
      (sr s w f.opa.toNat) (sB s w f))
    (fun s w f => if (if w64 f then sB s w f else (sB s w f).setWidth 32 |>.setWidth 64) = 0 then 2 else 0)

/-- R257: SCMP, SSEL, SLI, SLEA, SCLZ, SPOP and SBFE. -/
def Obligations.ScalarOthers : Prop :=
  ScalarResult .scmp (fun s w f =>
    let x := fun (a : W64) => if w64 f then num (sgn f) a else num (sgn f) (a.setWidth 32)
    if condI (f.minor.toNat % 64) (x (sr s w f.opa.toNat)) (x (sB s w f)) then 1 else 0) (fun _ _ _ => 0) ∧
  ScalarResult .ssel (fun s w f =>
    onType f (fun _ _ a _ => a) (if sr s w f.opc.toNat ≠ 0 then sr s w f.opa.toNat else sB s w f) 0) (fun _ _ _ => 0) ∧
  ScalarResult .sli (fun s w f =>
    if f.minor.toNat % 64 = 1 then (f.imm ++ (sr s w f.dst.toNat).setWidth 32 : BitVec 64)
    else if sgn f then f.imm.signExtend 64 else f.imm.setWidth 64) (fun _ _ _ => 0) ∧
  ScalarResult .slea (fun s w f =>
    sr s w f.opa.toNat + sr s w f.opb.toNat <<< (f.qual.toNat % 4) + f.imm.signExtend 64) (fun _ _ _ => 0) ∧
  ScalarResult .sclz (fun s w f => onType f clzI (sr s w f.opa.toNat) 0) (fun _ _ _ => 0) ∧
  ScalarResult .spop (fun s w f => onType f popI (sr s w f.opa.toNat) 0) (fun _ _ _ => 0) ∧
  ScalarResult .sbfe (fun s w f => onType f (bfeI (f.imm.toNat % 256) (f.imm.toNat / 256)) (sr s w f.opa.toNat) 0)
    (fun _ _ _ => 0)

/-- R192, R254, R255: KOP, STOK, EXMRD and ELECT, whose destination is a mask register; KPOP, KFF1 and KTOS, whose destination
is a scalar register; and EXMWR, which executes whatever exm holds, and gives exm the mask's lanes of the fragment's
membership. -/
def Obligations.MaskInstructions : Prop :=
  MaskResult .kop (fun _ w f =>
    let a := kr w f.opa.toNat
    let b := kr w f.opb.toNat
    match f.minor.toNat % 64 with
    | 0 => a
    | 1 => a &&& b
    | 2 => a ||| b
    | 3 => a ^^^ b
    | 4 => a &&& ~~~b
    | _ => ~~~a) ∧
  MaskResult .stok (fun s w f => sr s w f.opa.toNat) ∧
  MaskResult .exmrd (fun s w _ => exm s w) ∧
  MaskResult .elect (fun s w f => BitVec.ofNat 64 (2 ^ (lowestLane (active s w f)))) ∧
  ScalarResult .kpop (fun _ w f => popI false 64 (kr w f.opa.toNat) 0) (fun _ _ _ => 0) ∧
  ScalarResult .kff1 (fun _ w f =>
    match (List.range 64).find? fun L => (kr w f.opa.toNat).getLsbD L with
    | some L => BitVec.ofNat 64 L
    | none => 0xFFFFFFFFFFFFFFFF) (fun _ _ _ => 0) ∧
  ScalarResult .ktos (fun _ w f => kr w f.opa.toNat) (fun _ _ _ => 0) ∧
  ∀ f s w, Ready (.exmwr f) s w → ∃ t w', exec (.exmwr f) s = .next t ∧
    t = s.setWarp s.cur.core s.cur.slot (some w') ∧ w'.r = w.r ∧
    exm s w' = kr w f.opa.toNat &&& (frag s w).mem ∧ (frag s w').mem = (frag s w).mem ∧
    (frag s w').pc = nextPC (frag s w).pc ∧ (frag s w').st = .ready ∧ (∀ a, t.byte a = s.byte a) ∧
    ∀ j, j ≠ s.cur.entry → w'.frag j = w.frag j

/-! ### Vector instructions -/

namespace Sys2Proof.Claims

/-- A function of packed elements applied to a lane's value: four bytes, two halves, a word or a pair (R112, R259). -/
abbrev onLane (f : Fields) (g : IntFn) (a b : W64) : W64 :=
  let e := fun (n j : Nat) (x : W64) => x.extractLsb' (n * j) n
  if f.typ = 14 then
    ((g (sgn f) 8 (e 8 3 a) (e 8 3 b) ++ g (sgn f) 8 (e 8 2 a) (e 8 2 b) ++ g (sgn f) 8 (e 8 1 a) (e 8 1 b) ++
      g (sgn f) 8 (e 8 0 a) (e 8 0 b) : BitVec 32)).setWidth 64
  else if f.typ = 15 then
    ((g (sgn f) 16 (e 16 1 a) (e 16 1 b) ++ g (sgn f) 16 (e 16 0 a) (e 16 0 b) : BitVec 32)).setWidth 64
  else if w64 f then g (sgn f) 64 a b
  else (g (sgn f) 32 (a.setWidth 32) (b.setWidth 32)).setWidth 64

end Sys2Proof.Claims

/-- R259 to R261: the results of the vector integer instructions of two operands: VADD, VSUB, VMUL, VMULH, VAND, VOR,
VXOR, VSHL, VSHR, VSRA, VMIN and VMAX. -/
def Obligations.VectorArithmetic : Prop :=
  ∀ p ∈ ([(.vadd, fun f => addI (f.qual.getLsbD 0)), (.vsub, fun f => subI (f.qual.getLsbD 0)),
      (.vmul, fun f => mulI (f.qual.getLsbD 0)), (.vmulh, fun _ => mulhI), (.vand, fun _ _ _ a b => a &&& b),
      (.vor, fun _ _ _ a b => a ||| b), (.vxor, fun _ _ _ a b => a ^^^ b), (.vshl, fun _ => shlI),
      (.vshr, fun _ => shrI), (.vsra, fun _ => sraI), (.vmin, fun _ => minI), (.vmax, fun _ => maxI)] :
        List ((Fields → Instr) × (Fields → IntFn))),
    LaneResult p.1 w64 (fun s w f L => (onLane f (p.2 f) (vA s w f (w64 f) L) (vB s w f (w64 f) L), 0))

/-- R260 to R262: the other vector integer instructions: VNOT, VABS, VNEG, VCLZ, VPOP, VBREV, VMOV, VBFE, VLI, VLANE, VMAD, VSAD,
VDOT4, VSEL and VCVT. -/
def Obligations.VectorOthers : Prop :=
  (∀ p ∈ ([(.vnot, fun _ _ _ a _ => ~~~a),
      (.vabs, fun f => fun _ n a _ => if f.qual.getLsbD 0 then clamp true n (a.toInt.natAbs : Int) else BitVec.ofInt n (a.toInt.natAbs : Int)),
      (.vneg, fun f => fun _ n a _ => if f.qual.getLsbD 0 then clamp true n (-a.toInt) else -a),
      (.vclz, fun _ => clzI), (.vpop, fun _ => popI), (.vbrev, fun _ _ _ a _ => a.reverse), (.vmov, fun _ _ _ a _ => a),
      (.vbfe, fun f => bfeI (f.imm.toNat % 256) (f.imm.toNat / 256))] : List ((Fields → Instr) × (Fields → IntFn))),
    LaneResult p.1 w64 fun s w f L => (onLane f (p.2 f) (vA s w f (w64 f) L) 0, 0)) ∧
  LaneResult .vli (fun _ => false) (fun _ _ f _ => (f.imm.setWidth 64, 0)) ∧
  LaneResult .vlane (fun _ => false) (fun s w f L =>
    (((sr s w f.opa.toNat).setWidth 32 + BitVec.ofNat 32 L * f.imm).setWidth 64, 0)) ∧
  LaneResult .vmad w64 (fun s w f L =>
    (onLane f (fun _ n a b => a * b + (vC s w f (w64 f) L).setWidth n) (vA s w f (w64 f) L) (vB s w f (w64 f) L), 0)) ∧
  LaneResult .vsad (fun _ => false) (fun s w f L =>
    let e := fun (x : W64) j => num (sgn f) (x.extractLsb' (8 * j) 8)
    let a := vA s w f false L
    let b := vB s w f false L
    (BitVec.ofNat 64 (((vC s w f false L).toNat + (e a 0 - e b 0).natAbs + (e a 1 - e b 1).natAbs +
      (e a 2 - e b 2).natAbs + (e a 3 - e b 3).natAbs) % 2 ^ 32), 0)) ∧
  LaneResult .vdot4 (fun _ => false) (fun s w f L =>
    let e := fun (x : W64) j => num (sgn f) (x.extractLsb' (8 * j) 8)
    let a := vA s w f false L
    let b := vB s w f false L
    let x := ((vC s w f false L).setWidth 32).toInt + e a 0 * e b 0 + e a 1 * e b 1 + e a 2 * e b 2 + e a 3 * e b 3
    ((if f.qual.getLsbD 0 then clamp true 32 x else BitVec.ofInt 32 x).setWidth 64, 0)) ∧
  LaneResult .vsel w64 (fun s w f L =>
    (if (kr w f.opc.toNat).getLsbD L then vA s w f (w64 f) L else vB s w f (w64 f) L, 0)) ∧
  LaneResult .vcvt w64 (fun s w f L =>
    let src := f.minor.toNat % 8
    let a := vA s w f (src == 3 || src == 4) L
    let x : Int := if src = 1 then (a.setWidth 32).toInt else if src = 3 then a.toInt else a.toNat
    if f.qual.getLsbD 0 then
      (if w64 f then clamp (sgn f) 64 x else (clamp (sgn f) 32 x).setWidth 64, 0)
    else (if w64 f then BitVec.ofInt 64 x else (BitVec.ofInt 32 x).setWidth 64, 0))

/-- R260 with log 23, which is the model's choice: SBFI and VBFI insert the low bits of the operand into the old value of the
destination, at the offset and with the width that imm gives. -/
def Obligations.BitFieldInsert : Prop :=
  ScalarResult .sbfi (fun s w f =>
    onType f (fun _ _ a d => bfiI (f.imm.toNat % 256) (f.imm.toNat / 256) d a) (sr s w f.opa.toNat)
      (sr s w f.dst.toNat)) (fun _ _ _ => 0) ∧
  LaneResult .vbfi w64 (fun s w f L => (onLane f (fun _ _ a d => bfiI (f.imm.toNat % 256) (f.imm.toNat / 256) d a)
    (vA s w f (w64 f) L) (if w64 f then v64 w f.dst.toNat L else (v w f.dst.toNat L).setWidth 64), 0))

/-- R244, R260, R282: VCMP writes the bits of its Active lanes in k[dst] and keeps the others; BALLOT sets the bits of the
lanes of exm that are Active with a non-zero value, clears the others of exm, and keeps the bits outside exm. -/
def Obligations.VectorCompare : Prop :=
  (∀ f s w, Ready (.vcmp f) s w → active s w f ≠ 0 →
    ∃ t w', Completes (.vcmp f) s t w w' ∧
      OnlyK s w w' f.dst.toNat (kr w' f.dst.toNat) 0 ∧
      ∀ L, L < 64 → (kr w' f.dst.toNat).getLsbD L =
        if (active s w f).getLsbD L then
          let x := fun (a : W64) => if w64 f then num (sgn f) a else num (sgn f) (a.setWidth 32)
          condI (f.minor.toNat % 64) (x (vA s w f (w64 f) L)) (x (vB s w f (w64 f) L))
        else (kr w f.dst.toNat).getLsbD L) ∧
  ∀ f s w, Ready (.ballot f) s w → active s w f ≠ 0 →
    ∃ t w', Completes (.ballot f) s t w w' ∧ OnlyK s w w' f.dst.toNat (kr w' f.dst.toNat) 0 ∧
      ∀ L, L < 64 → (kr w' f.dst.toNat).getLsbD L =
        if (exm s w).getLsbD L && decide (L < w.width) then (active s w f).getLsbD L && vA s w f (w64 f) L != 0
        else (kr w f.dst.toNat).getLsbD L


/-! ### Floating point -/

namespace Sys2Proof.Claims
open Sys2Proof.Machine

/-- The encoding of an f32, f64, f16 or bf16 in a register value (R106, R112). -/
abbrev encOf (m : Fmt) (x : W64) : Nat := x.toNat % 2 ^ (1 + m.eb + m.fb)
/-- The immediate as operand B of a floating-point type (R14): widened exactly for f64. -/
abbrev immF (f : Fields) : W64 :=
  if f.typ = 6 then BitVec.ofNat 64 (widenF32 f.imm.toNat) else f.imm.setWidth 64
abbrev fB (s : State) (w : Warp) (f : Fields) (L : Nat) : W64 := if f.bimm then immF f else vB s w f (w64 f) L
/-- Operands of the instruction's format in a lane, as exact values (R107). -/
abbrev valA (s : State) (w : Warp) (f : Fields) (L : Nat) : Val :=
  let m := fmtOf f.typ.toNat
  decodeVal m (encOf m (vA s w f (w64 f) L))
abbrev valB (s : State) (w : Warp) (f : Fields) (L : Nat) : Val :=
  let m := fmtOf f.typ.toNat
  decodeVal m (encOf m (fB s w f L))
abbrev valC (s : State) (w : Warp) (f : Fields) (L : Nat) : Val :=
  let m := fmtOf f.typ.toNat
  decodeVal m (encOf m (vC s w f (w64 f) L))
/-- An encoding with its flags as a lane's result. -/
abbrev res (x : Nat × Nat) : W64 × Nat := (BitVec.ofNat 64 x.1, x.2)
/-- An exact value rounded once to the instruction's format under its mode (R116, R263). -/
abbrev rnd (f : Fields) (x : Val) : W64 × Nat := res (roundTo (fmtOf f.typ.toNat) (f.qual.toNat % 8) false x)
/-- Under round-down a zero sum of unlike signs is −0 (R118). -/
abbrev rdn (f : Fields) : Bool := f.qual.toNat % 8 == 3

end Sys2Proof.Claims

/-- R116: rounding an encoding's own exact value to its format, under any mode, gives the encoding back and raises no flag;
a NaN's value gives the canonical NaN. -/
def Obligations.RoundOfDecode : Prop :=
  ∀ m ∈ [fmtF16, fmtBf16, fmtF32, fmtF64, fmtE4m3, fmtE5m2], ∀ (mode : Nat) (raw : Nat), mode ≤ 4 →
    raw < 2 ^ (1 + m.eb + m.fb) →
    roundTo m mode false (decodeVal m raw) =
      if (decodeVal m raw).isNan then (m.cnan, if (decodeVal m raw).isSig then 1 else 0) else (raw, 0)

/-- R263, R264, R268: the instructions that form an exact value and round it once: FADD, FSUB, FMUL, FFMA, FSCALE, FCVT,
FCVTI, ICVTF and FDOT2. (Model's readings: log 24) -/
def Obligations.FloatRounded : Prop :=
  LaneResult .fadd w64 (fun s w f L => rnd f ((valA s w f L).add (rdn f) (valB s w f L))) ∧
  LaneResult .fsub w64 (fun s w f L => rnd f ((valA s w f L).add (rdn f) (valB s w f L).neg)) ∧
  LaneResult .fmul w64 (fun s w f L => rnd f ((valA s w f L).mul (valB s w f L))) ∧
  LaneResult .ffma w64 (fun s w f L => rnd f (((valA s w f L).mul (valB s w f L)).add (rdn f) (valC s w f L))) ∧
  LaneResult .fscale w64 (fun s w f L =>
    let n := ((fB s w f L).setWidth 32).toInt
    rnd f ((valA s w f L).mul (Val.dyadic false 1 (max (-5000) (min 5000 n))))) ∧
  LaneResult .fcvt w64 (fun s w f L =>
    let m := fmtOf (f.minor.toNat % 64)
    res (roundTo (fmtOf f.typ.toNat) (f.qual.toNat % 8) (f.qual.getLsbD 3)
      (decodeVal m (encOf m (vA s w f (f.minor.toNat % 64 == 6) L))))) ∧
  LaneResult .fcvti w64 (fun s w f L =>
    let m := fmtOf (f.minor.toNat % 64)
    let x := roundToInt (if w64 f then 64 else 32) (sgn f) (f.qual.toNat % 8)
      (decodeVal m (encOf m (vA s w f (f.minor.toNat % 64 == 6) L)))
    (if w64 f then BitVec.ofInt 64 x.1 else (BitVec.ofInt 32 x.1).setWidth 64, x.2)) ∧
  LaneResult .icvtf w64 (fun s w f L =>
    let src := f.minor.toNat % 64
    let a := vA s w f (src == 3 || src == 4) L
    rnd f (Val.ofInt (if src = 1 then (a.setWidth 32).toInt else if src = 3 then a.toInt else a.toNat))) ∧
  LaneResult .fdot2 (fun _ => false) (fun s w f L =>
    let m := fmtOf f.typ.toNat
    let e := fun (x : W64) j => decodeVal m ((x.extractLsb' (16 * j) 16).toNat)
    let a := vA s w f false L
    let b := if f.bimm then f.imm.setWidth 64 else vB s w f false L
    let c := decodeVal fmtF32 (encOf fmtF32 (vC s w f false L))
    res (roundTo fmtF32 (f.qual.toNat % 8) false
      ((c.add (rdn f) ((e a 0).mul (e b 0))).add (rdn f) ((e a 1).mul (e b 1)))))

/-- R264, R265, R267: FMIN, FMAX, FABS, FNEG, FCPS and FCLASS, which work on the encodings, and FRND, which rounds to an
integral value of its own format under its mode and raises inexact only under .x. -/
def Obligations.FloatEncodings : Prop :=
  (∀ p ∈ ([(.fmin, false), (.fmax, true)] : List ((Fields → Instr) × Bool)),
    LaneResult p.1 w64 (fun s w f L =>
      let m := fmtOf f.typ.toNat
      let a := encOf m (vA s w f (w64 f) L)
      let b := encOf m (fB s w f L)
      let x := valA s w f L
      let y := valB s w f L
      let inv := if x.isSig || y.isSig then 1 else 0
      if x.isNan && y.isNan then res (m.cnan, inv) else if x.isNan then res (b, inv) else if y.isNan then res (a, inv)
      else
        let neg := fun (r : Nat) => r.testBit (m.eb + m.fb)
        let aLess := x.lt y || (x.eq y && neg a && !neg b)
        let bLess := y.lt x || (x.eq y && neg b && !neg a)
        res (if p.2 then (if aLess then b else a) else (if bLess then b else a), 0))) ∧
  (∀ p ∈ ([(.fabs, fun _ _ => false), (.fneg, fun a _ => !a), (.fcps, fun _ b => b)] :
      List ((Fields → Instr) × (Bool → Bool → Bool))),
    LaneResult p.1 w64 (fun s w f L =>
      let m := fmtOf f.typ.toNat
      let a := encOf m (vA s w f (w64 f) L)
      let x := valA s w f L
      let neg := fun (r : Nat) => r.testBit (m.eb + m.fb)
      if x.isNan then res (m.cnan, if x.isSig then 1 else 0)
      else res (a % 2 ^ (m.eb + m.fb) + (if p.2 (neg a) (neg (encOf m (fB s w f L))) then 2 ^ (m.eb + m.fb) else 0), 0))) ∧
  LaneResult .fclass w64 (fun s w f L =>
    let m := fmtOf f.typ.toNat
    let a := encOf m (vA s w f (w64 f) L)
    let neg := a.testBit (m.eb + m.fb)
    let e := a / 2 ^ m.fb % 2 ^ m.eb
    let fr := a % 2 ^ m.fb
    (BitVec.ofNat 64 (2 ^ (
      if e = 2 ^ m.eb - 1 then
        (if fr = 0 then (if neg then 0 else 7) else if fr.testBit (m.fb - 1) then 9 else 8)
      else if e ≠ 0 then (if neg then 1 else 6)
      else if fr ≠ 0 then (if neg then 2 else 5) else (if neg then 3 else 4))), 0)) ∧
  LaneResult .frnd w64 (fun s w f L =>
    let m := fmtOf f.typ.toNat
    match valA s w f L with
    | .fin neg n d =>
      let (y, exact) := roundNat (f.qual.toNat % 8) neg n d
      ((res (roundTo m 0 false (.fin neg y 1))).1, if f.qual.getLsbD 3 && !exact then 16 else 0)
    | x => res (roundTo m 0 false x))

/-- R266: FCMP writes the bits of its Active lanes in k[dst], which is not k0, and keeps the others; a signalling NaN raises invalid, and any
NaN does for .lt, .le, .gt and .ge. -/
def Obligations.FloatCompare : Prop :=
  (∀ f : Fields, f.dst = 0 → Instr.check (.fcmp f) ≠ none) ∧
  ∀ f s w, Ready (.fcmp f) s w → active s w f ≠ 0 →
    let c := f.minor.toNat % 64
    let inv := fun L => if (valA s w f L).isSig || (valB s w f L).isSig ||
      ((2 ≤ c && c ≤ 5) && ((valA s w f L).isNan || (valB s w f L).isNan)) then 1 else 0
    ∃ t w', Completes (.fcmp f) s t w w' ∧
      OnlyK s w w' f.dst.toNat (kr w' f.dst.toNat) (((lanesOf (active s w f)).map inv).foldl (· ||| ·) 0) ∧
      ∀ L, L < 64 → (kr w' f.dst.toNat).getLsbD L =
        if (active s w f).getLsbD L then
          let x := valA s w f L
          let y := valB s w f L
          match c with
          | 0 => x.eq y
          | 1 => !x.eq y
          | 2 => x.lt y
          | 3 => x.lt y || x.eq y
          | 4 => y.lt x
          | 5 => y.lt x || x.eq y
          | 6 => x.isNan || y.isNan
          | _ => !(x.isNan || y.isNan)
        else (kr w f.dst.toNat).getLsbD L

/-! ### Special functions and random numbers -/

namespace Sys2Proof.Claims
open Sys2Proof.Machine

/-- The results of R274 for the special operands of a function of one f32: +0, −0, +infinity and −infinity, each with the
flags. -/
structure SpecialRow where
  pz : Nat × Nat
  nz : Nat × Nat
  pi : Nat × Nat
  ni : Nat × Nat

/-- A special-function instruction completes, and each Active lane receives the function's value: the canonical NaN of R271
for a NaN, the row's for the special operands of R274, and for the others what `fn` gives. -/
def SpecialResult (mk : Fields → Instr) (row : SpecialRow) (fn : Fields → Nat → Nat × Nat) : Prop :=
  LaneResult mk (fun _ => false) (fun s w f L =>
    let a := (op32 s w f.ascl f.opa L).toNat
    if (decodeVal fmtF32 a).isNan then res (0x7FC00000, if (decodeVal fmtF32 a).isSig then 1 else 0)
    else if a = 0 then res row.pz else if a = 0x80000000 then res row.nz
    else if a = 0x7F800000 then res row.pi else if a = 0xFF800000 then res row.ni else res (fn f a))

end Sys2Proof.Claims

/-- R270 to R274: RCP, RSQ, SQRT, EXP2, LOG2, SINPI, COSPI and TANH, with the results written out for the special operands,
which for RSQ, LOG2 and SQRT are also the negative ones. -/
def Obligations.SpecialFunctions : Prop :=
  SpecialResult .rcp ⟨(0x7F800000, 2), (0xFF800000, 2), (0, 0), (0x80000000, 0)⟩ (fun _ => fnRcp) ∧
  SpecialResult .rsq ⟨(0x7F800000, 2), (0xFF800000, 2), (0, 0), (0x7FC00000, 1)⟩ (fun _ => fnRsq) ∧
  SpecialResult .sqrt ⟨(0, 0), (0x80000000, 0), (0x7F800000, 0), (0x7FC00000, 1)⟩ (fun f => fnSqrt (f.qual.toNat % 8)) ∧
  SpecialResult .exp2 ⟨(0x3F800000, 0), (0x3F800000, 0), (0x7F800000, 0), (0, 0)⟩ (fun _ => fnExp2) ∧
  SpecialResult .log2 ⟨(0xFF800000, 2), (0xFF800000, 2), (0x7F800000, 0), (0x7FC00000, 1)⟩ (fun _ => fnLog2) ∧
  SpecialResult .sinpi ⟨(0, 0), (0x80000000, 0), (0x7FC00000, 1), (0x7FC00000, 1)⟩ (fun _ => fnSinpi) ∧
  SpecialResult .cospi ⟨(0x3F800000, 0), (0x3F800000, 0), (0x7FC00000, 1), (0x7FC00000, 1)⟩ (fun _ => fnCospi) ∧
  SpecialResult .tanh ⟨(0, 0), (0x80000000, 0), (0x3F800000, 0), (0xBF800000, 0)⟩ (fun _ => fnTanh) ∧
  ∀ a mode, 0x80000000 < a → a < 0xFF800000 →
    fnRsq a = (0x7FC00000, 1) ∧ fnLog2 a = (0x7FC00000, 1) ∧ fnSqrt mode a = (0x7FC00000, 1)

/-- R275, R276: RNG gives each Active lane its word and RNGC + 1; RNGSEED sets RNGK and RNGC; the words of the spec's worked
case with RNGK and RNGC zero. -/
def Obligations.RandomNumbers : Prop :=
  (∀ f s w, Ready (.rng f) s w → active s w f ≠ 0 →
    ∃ t w', Completes (.rng f) s t w w' ∧ w'.r = { w.r with v := w'.r.v, rngc := w.r.rngc + 1 } ∧
      (∀ m, sr s w' m = sr s w m) ∧
      ∀ n L, L < 64 → v w' n L =
        if n = f.dst.toNat ∧ (active s w f).getLsbD L = true then
          let z0 := w.r.rngk + (w.r.rngc * 64 + BitVec.ofNat 64 L) * 0x9E3779B97F4A7C15
          let z1 := (z0 ^^^ (z0 >>> 30)) * 0xBF58476D1CE4E5B9
          let z2 := (z1 ^^^ (z1 >>> 27)) * 0x94D049BB133111EB
          (z2 ^^^ (z2 >>> 31)).setWidth 32
        else v w n L) ∧
  (∀ f s w, Ready (.rngseed f) s w → active s w f ≠ 0 →
    ∃ t w', Completes (.rngseed f) s t w w' ∧ (∀ m, sr s w' m = sr s w m) ∧
      w'.r = { w.r with rngk := sr s w f.opa.toNat, rngc := sr s w f.opb.toNat }) ∧
  rngWord 0 0 0 = 0 ∧ rngWord 0 0 1 = 0x7B1DCDAF ∧ rngWord 0 0 2 = 0xA1B965F4 ∧ fnRcp 0x40400000 = (0x3EAAAAAA, 0)

/-! ### Cross-lane instructions -/

/-- The source lane that SHFL names (R279): .idx, .up, .down and .xor. -/
abbrev Sys2Proof.Claims.shuffled (minor width L b : Nat) : Int :=
  match minor with
  | 0 => ((b % width : Nat) : Int)
  | 1 => (L : Int) - (b : Int)
  | 2 => (L : Int) + (b : Int)
  | _ => ((L ^^^ (b % width) : Nat) : Int)

/-- The source lane when it is one of exm, else the lane itself (R279). -/
abbrev Sys2Proof.Claims.shufflePick (exm : Mask) (width L : Nat) (j : Int) : Nat :=
  if (decide (0 ≤ j) && decide (j < (width : Int)) && exm.getLsbD j.toNat) = true then j.toNat else L

namespace Sys2Proof.Claims
open Sys2Proof.Machine

/-- The identity and one step of the integer reductions of R280 on w bits: .add, .min, .max, .and, .or, .xor. -/
abbrev redIdI (sg : Bool) (n c : Nat) : BitVec n :=
  match c with
  | 1 => if sg then BitVec.ofNat n (2 ^ (n - 1) - 1) else BitVec.allOnes n
  | 2 => if sg then BitVec.ofNat n (2 ^ (n - 1)) else 0
  | 3 => BitVec.allOnes n
  | _ => 0
abbrev redI (c : Nat) : IntFn := fun sg n a b =>
  match c with
  | 0 => a + b
  | 1 => minI sg n a b
  | 2 => maxI sg n a b
  | 3 => a &&& b
  | 4 => a ||| b
  | _ => a ^^^ b
/-- The combination of the values of a list of lanes in ascending order (R280). -/
abbrev redAll (s : State) (w : Warp) (f : Fields) (ls : List Nat) : W64 :=
  let c := f.minor.toNat % 64
  if w64 f then ls.foldl (fun x L => redI c (sgn f) 64 x (vA s w f true L)) (redIdI (sgn f) 64 c)
  else (ls.foldl (fun x L => redI c (sgn f) 32 x ((vA s w f false L).setWidth 32)) (redIdI (sgn f) 32 c)).setWidth 64

end Sys2Proof.Claims

/-- R280: VRED gives s[dst] the combination of Active in ascending order, VSCAN gives each Active lane that of the lanes up to
its own, or before its own under .excl. The integer types combine exactly, and the scalar result is extended; f32 starts
from −0, +infinity or −infinity, each step of .fadd is rounded, .fmin and .fmax are those of R265, and the flags of every
step are raised. (Model's readings: log 24) -/
def Obligations.Reductions : Prop :=
  (∀ f s w, Ready (.vred f) s w → active s w f ≠ 0 → f.typ ≠ 5 → ShadowsFit s w [f.dst.toNat] →
    ∃ t w', Completes (.vred f) s t w w' ∧ OnlyS s w w' f.dst.toNat
      (if w64 f ∨ sgn f = false then redAll s w f (lanesOf (active s w f))
       else ((redAll s w f (lanesOf (active s w f))).setWidth 32).signExtend 64) 0) ∧
  (∀ f s w, Ready (.vscan f) s w → active s w f ≠ 0 → f.typ ≠ 5 →
    ∃ t w', Completes (.vscan f) s t w w' ∧
      OnlyV s w w' (fun n L =>
        let ls := (lanesOf (active s w f)).filter fun j => j < L || (j == L && !f.qual.getLsbD 0)
        if (active s w f).getLsbD L = false then none
        else if n = f.dst.toNat then some ((redAll s w f ls).setWidth 32)
        else if w64 f = true ∧ n = f.dst.toNat + 1 then some ((redAll s w f ls >>> 32).setWidth 32) else none) 0) ∧
  let start := fun (c : Nat) => match c with
    | 0 => 0x80000000
    | 1 => 0x7F800000
    | _ => 0xFF800000
  let stp := fun (c x y : Nat) => match c with
    | 0 => roundTo fmtF32 0 false ((decodeVal fmtF32 x).add false (decodeVal fmtF32 y))
    | 1 => fPick fmtF32 false x y
    | _ => fPick fmtF32 true x y
  let all := fun (s : State) (w : Warp) (f : Fields) (ls : List Nat) =>
    ls.foldl (fun (x : Nat × Nat) L =>
      let y := stp (f.minor.toNat % 64) x.1 (op32 s w f.ascl f.opa L).toNat
      (y.1, x.2 ||| y.2)) (start (f.minor.toNat % 64), 0)
  (∀ f s w, Ready (.vred f) s w → active s w f ≠ 0 → f.typ = 5 → ShadowsFit s w [f.dst.toNat] →
    ∃ t w', Completes (.vred f) s t w w' ∧ OnlyS s w w' f.dst.toNat
      (BitVec.ofNat 64 (all s w f (lanesOf (active s w f))).1) (all s w f (lanesOf (active s w f))).2) ∧
  (∀ f s w, Ready (.vscan f) s w → active s w f ≠ 0 → f.typ = 5 →
    ∃ t w', Completes (.vscan f) s t w w' ∧
      OnlyV s w w' (fun n L =>
        let ls := (lanesOf (active s w f)).filter fun j => j < L || (j == L && !f.qual.getLsbD 0)
        if n = f.dst.toNat ∧ (active s w f).getLsbD L = true then some (BitVec.ofNat 32 (all s w f ls).1) else none)
        (all s w f (lanesOf (active s w f))).2)

/-- R279, R281, R282: SHFL, BCAST and MATCH; VCMPRS and VEXPND, which execute whenever exm is not empty, move the selected lanes
and write their count; the other lanes of exm are zeroed under .z. -/
def Obligations.LaneMoves : Prop :=
  LaneResult .shfl w64 (fun s w f L =>
    (vA s w f (w64 f) (shufflePick (exm s w) w.width L (shuffled (f.minor.toNat % 64) w.width L
      (if f.bimm then f.imm.toNat else (op32 s w f.bscl f.opb L).toNat))), 0)) ∧
  LaneResult .bcast w64 (fun s w f _ =>
    let b := if f.bimm then f.imm.toNat else (op32 s w f.bscl f.opb (lowestLane (active s w f))).toNat
    let j := b % w.width
    (if (exm s w).getLsbD j then vA s w f (w64 f) j else 0, 0)) ∧
  LaneResult .matchL w64 (fun s w f L =>
    (BitVec.ofNat 64 (((lanesOf (active s w f)).find? fun j => vA s w f (w64 f) j == vA s w f (w64 f) L).getD L), 0)) ∧
  ∀ p ∈ ([(.vcmprs, fun es ss => es.zip ss), (.vexpnd, fun es ss => ss.zip es)] :
      List ((Fields → Instr) × (List Nat → List Nat → List (Nat × Nat)))),
    ∀ f s w, Ready (p.1 f) s w → exm s w ≠ 0 → ShadowsFit s w [f.opc.toNat] →
      let sel := lanesOf (active s w f &&& kr w f.opb.toNat)
      let moves := p.2 (lanesOf (exm s w)) sel
      let val : Nat → Option W64 := fun L => match moves.find? fun m => m.1 == L with
        | some m => some (vA s w f (w64 f) m.2)
        | none => if f.qual.getLsbD 0 && (exm s w).getLsbD L then some (0 : W64) else none
      ∃ t w', Completes (p.1 f) s t w w' ∧
        w'.r = { w.r with v := w'.r.v, s := w'.r.s } ∧
        sr s w' f.opc.toNat = BitVec.ofNat 64 sel.length ∧ (∀ m, m ≠ f.opc.toNat → sr s w' m = sr s w m) ∧
        ∀ n L, L < 64 → v w' n L =
          if n = f.dst.toNat then ((val L).map fun (x : W64) => x.setWidth 32).getD (v w n L)
          else if w64 f = true ∧ n = f.dst.toNat + 1 then ((val L).map fun (x : W64) => (x >>> 32).setWidth 32).getD (v w n L)
          else v w n L

/-! ### Control instructions -/

namespace Sys2Proof.Claims
open Sys2Proof.Machine

/-- The legal target lines of a transfer: the target's line enters the fragment's quarter, which leaves the state `u`, and
its slot is one that a transfer may enter (R25, R28). -/
abbrev TargetOk (s : State) (w : Warp) (f : Fields) (pc : W64) (u : State) : Prop :=
  checkTarget s (env s w f) pc = (u, none)

/-- A warp as the fetch of a line leaves it: fragments that wait for the line alone have become ready now (R369). -/
structure LineCame (w x : Warp) : Prop where
  same : x = { w with frags := x.frags }
  since : ∀ j, x.frag j = { w.frag j with since := (x.frag j).since, aged := (x.frag j).aged }

/-- The instruction completes as a transfer to a PC: but for the fetch of the target's line, which leaves `u`, it changes the
issuing warp alone (R246). -/
structure Jumps (i : Instr) (s u t : State) (w w' : Warp) (pc : W64) : Prop where
  next : exec i s = .next t
  only : ∃ x, u.warp s.cur.core s.cur.slot = some x ∧ LineCame w x ∧ OnlyWarp u t x w' pc
  mem : ∀ a, t.byte a = s.byte a

/-- A target that no transfer enters, with the cause: its PC is not valid, its slot is not marked as a target, or its line
meets a fault (R25, R26, R28). Looking for the line leaves `u`. -/
abbrev TargetBad (s : State) (w : Warp) (pc : W64) (u : State) (c : Nat) : Prop :=
  (pcValid pc = false ∧ u = s ∧ c = 0x16) ∨
    (pcValid pc = true ∧
      ((∃ line, enterLine s s.cur.core s.cur.slot w.cslot w.ctxid (pcLine pc) = (u, .ok line) ∧
          lineTgt line (pcSlot pc) = false ∧ c = 0x16) ∨
        enterLine s s.cur.core s.cur.slot w.cslot w.ctxid (pcLine pc) = (u, .bad c)))

/-- The instruction takes the precise fault of a target that no transfer enters: it records the target, and changes neither
a register nor memory (R28, R390). -/
structure Refuses (i : Instr) (s u : State) (w : Warp) (f : Fields) (pc : W64) (c : Nat) : Prop where
  fault : ∃ t x wu, exec i s = .next t ∧ u.warp s.cur.core s.cur.slot = some wu ∧ wu.r = w.r ∧
    (frag s wu).pc = (frag s w).pc ∧ Faulted u t wu x ∧ x.cause = c ∧ x.va = pc ∧ x.lanes = active s w f ∧
    (c = 0x16 → x.aux = 0) ∧ ∀ a, t.byte a = s.byte a

/-- Does BRS transfer (R246)? -/
abbrev brsTaken (f : Fields) (x : W64) : Bool :=
  match f.minor.toNat % 64 with
  | 0 => x == 0
  | 1 => x != 0
  | 2 => x.slt 0
  | _ => !x.slt 0
/-- The target of a branch (R27): the line that imm[31:3], as a signed number of lines, is away, and slot imm[2:0]. -/
abbrev target (s : State) (w : Warp) (f : Fields) : W64 :=
  (((frag s w).pc >>> 6) <<< 6) + ((f.imm.extractLsb' 3 29).signExtend 64 <<< 6) + (f.imm.extractLsb' 0 3).setWidth 64

end Sys2Proof.Claims

/-- R37, R251, R176, R246: NOP, YIELD and ISYNC advance the PC and change no register; so do BRA, BRS, BRV, JMPX, CALL, CALLX,
RET, LOOP, EXIT, TRAPF, SYSC and BKPT with an empty Active, BRS whose condition is false, LOOP whose counter is 0, TRAPF with
no enabled flag set, and RCVG outside a split of its identifier. -/
def Obligations.PlainControl : Prop :=
  (∀ f s w, ∀ i ∈ [.nop f, .yield f, .isync f], Ready i s w → ∃ t w', Completes i s t w w' ∧ w'.r = w.r) ∧
  (∀ f s w, ∀ i ∈ [.bra f, .brs f, .brv f, .jmpx f, .call f, .callx f, .ret f, .loop f, .exit f, .trapf f, .sysc f, .bkpt f],
    Ready i s w → active s w f = 0 → ∃ t w', Completes i s t w w' ∧ w'.r = w.r) ∧
  (∀ f s w, Ready (.brs f) s w → brsTaken f (sr s w f.opa.toNat) = false →
    ∃ t w', Completes (.brs f) s t w w' ∧ w'.r = w.r) ∧
  (∀ f s w, Ready (.loop f) s w → sr s w f.opa.toNat = 0 → ∃ t w', Completes (.loop f) s t w w' ∧ w'.r = w.r) ∧
  (∀ f s w, Ready (.trapf f) s w → (∀ j, j < 6 → (w.r.flags.getLsbD j && w.r.flags.getLsbD (j + 8)) = false) →
    ∃ t w', Completes (.trapf f) s t w w' ∧ w'.r = w.r) ∧
  (∀ f s w, Ready (.rcvg f) s w →
    (∀ j ∈ fragChain w (frag s w), ∀ x, w.join j = some x → x.id ≠ f.imm.toNat) →
    ∃ t w', Completes (.rcvg f) s t w w' ∧ w'.r = w.r)

/-- R27, R28, R246, R247: the uniform transfers BRA, BRS, JMPX and RET, and BRV whose lanes of exm are all Active, move the whole
fragment to their target and change no register; CALL writes NextPC into s[dst] with its transfer, and LOOP its counter less
one, transferring while that is not 0. -/
def Obligations.UniformTransfers : Prop :=
  (∀ f s w u, Ready (.bra f) s w → active s w f ≠ 0 → TargetOk s w f (target s w f) u →
    ∃ t w', Jumps (.bra f) s u t w w' (target s w f) ∧ w'.r = w.r) ∧
  (∀ f s w u, Ready (.brs f) s w → active s w f ≠ 0 → brsTaken f (sr s w f.opa.toNat) = true →
    TargetOk s w f (target s w f) u → ∃ t w', Jumps (.brs f) s u t w w' (target s w f) ∧ w'.r = w.r) ∧
  (∀ f s w u, ∀ i ∈ [.jmpx f, .ret f], Ready i s w → active s w f ≠ 0 → TargetOk s w f (sr s w f.opa.toNat) u →
    ∃ t w', Jumps i s u t w w' (sr s w f.opa.toNat) ∧ w'.r = w.r) ∧
  (∀ f s w u, Ready (.brv f) s w → active s w f ≠ 0 → exm s w &&& ~~~active s w f = 0 → TargetOk s w f (target s w f) u →
    ∃ t w', Jumps (.brv f) s u t w w' (target s w f) ∧ w'.r = w.r) ∧
  (∀ f s w u, Ready (.call f) s w → active s w f ≠ 0 → TargetOk s w f (target s w f) u → ShadowsFit s w [f.dst.toNat] →
    ∃ t w', Jumps (.call f) s u t w w' (target s w f) ∧ OnlyS s w w' f.dst.toNat (nextPC (frag s w).pc) 0) ∧
  (∀ f s w u, Ready (.loop f) s w → active s w f ≠ 0 → 1 < (sr s w f.opa.toNat).toNat → TargetOk s w f (target s w f) u →
    ShadowsFit s w [f.opa.toNat] →
    ∃ t w', Jumps (.loop f) s u t w w' (target s w f) ∧ OnlyS s w w' f.opa.toNat (sr s w f.opa.toNat - 1) 0) ∧
  (∀ f s w, Ready (.loop f) s w → active s w f ≠ 0 → sr s w f.opa.toNat = 1 → ShadowsFit s w [f.opa.toNat] →
    ∃ t w', Completes (.loop f) s t w w' ∧ OnlyS s w w' f.opa.toNat 0 0)

/-- R25, R28, R246, R247, R253, R390, R399, R401: a transfer to a PC that is not valid (R26), or to a slot that is not marked as
a target, takes a precise fault 0x16, and one whose target's line meets a fault takes that fault; each records the target and
writes no register: BRA, BRV, CALL, JMPX and RET with a non-empty Active, BRS whose condition is true, and LOOP whose counter
is above 1, but for LOOP whose counter would need a fifth shadow, which takes fault 0x0F first, with the register (R352).
SYSC and BKPT stop the fragment with causes 0x12 and 0x13 and their number in aux, SYSC once what its warp has on
its way is performed; TRAPF does with 0x11 while an enabled flag is set, those flags in aux. -/
def Obligations.ControlFaults : Prop :=
  (∀ f s w u c, ∀ i ∈ [.bra f, .brv f, .call f], Ready i s w → active s w f ≠ 0 → TargetBad s w (target s w f) u c →
    Refuses i s u w f (target s w f) c) ∧
  (∀ f s w u c, Ready (.brs f) s w → active s w f ≠ 0 → brsTaken f (sr s w f.opa.toNat) = true →
    TargetBad s w (target s w f) u c → Refuses (.brs f) s u w f (target s w f) c) ∧
  (∀ f s w n, Ready (.loop f) s w → active s w f ≠ 0 → sr s w f.opa.toNat ≠ 0 →
    shadowRefused w (frag s w) [f.opa.toNat] = some n →
    ∃ t x, exec (.loop f) s = .next t ∧ Faulted s t w x ∧ x.cause = 0x0F ∧ x.aux = BitVec.ofNat 32 n ∧ x.lanes = active s w f) ∧
  (∀ f s w u c, Ready (.loop f) s w → active s w f ≠ 0 → 1 < (sr s w f.opa.toNat).toNat → ShadowsFit s w [f.opa.toNat] →
    TargetBad s w (target s w f) u c → Refuses (.loop f) s u w f (target s w f) c) ∧
  (∀ f s w u c, ∀ i ∈ [.jmpx f, .ret f], Ready i s w → active s w f ≠ 0 → TargetBad s w (sr s w f.opa.toNat) u c →
    Refuses i s u w f (sr s w f.opa.toNat) c) ∧
  (∀ f s w u, Ready (.sysc f) s w → active s w f ≠ 0 → settleWarp s s.cur.core s.cur.slot true = some u →
    ∃ t x wu, exec (.sysc f) s = .next t ∧ u.warp s.cur.core s.cur.slot = some wu ∧ (frag s wu).pc = (frag s w).pc ∧
      Faulted (u.flow w.allBefore (.calls w.ctxid)) t wu x ∧ x.cause = 0x12 ∧ x.va = 0 ∧ x.aux = f.imm ∧
      x.lanes = active s w f) ∧
  (∀ f s w, Ready (.sysc f) s w → active s w f ≠ 0 → w.stnt = [] → w.maps = [] → w.cfgs = [] →
    ∃ t x, exec (.sysc f) s = .next t ∧ Faulted (s.flow w.allBefore (.calls w.ctxid)) t w x ∧ x.cause = 0x12 ∧ x.va = 0 ∧
      x.aux = f.imm ∧
      x.lanes = active s w f) ∧
  (∀ f s w, Ready (.bkpt f) s w → active s w f ≠ 0 →
    ∃ t x, exec (.bkpt f) s = .next t ∧ Faulted s t w x ∧ x.cause = 0x13 ∧ x.va = 0 ∧ x.aux = f.imm ∧
      x.lanes = active s w f) ∧
  (∀ f s w, Ready (.trapf f) s w → active s w f ≠ 0 →
    (w.r.flags.extractLsb' 0 6 &&& w.r.flags.extractLsb' 8 6) ≠ 0 →
    ∃ t x, exec (.trapf f) s = .next t ∧ Faulted s t w x ∧ x.cause = 0x11 ∧ x.va = 0 ∧
      x.aux = (w.r.flags.extractLsb' 0 6 &&& w.r.flags.extractLsb' 8 6).setWidth 32 ∧ x.lanes = active s w f)

/-- R247, R348, R349: BRV with lanes on both sides, a free join record `j` and a free split-table entry `n`. The larger side,
or the taken one of two equal, keeps running in the fragment's entry with the lanes outside exm; the other stands ready in
the free entry; the record holds the split's lanes, identifier and parent; no register changes. -/
def Obligations.BranchDivides : Prop :=
  ∀ f s w u j n, Ready (.brv f) s w → active s w f ≠ 0 → exm s w &&& ~~~active s w f ≠ 0 →
    TargetOk s w f (target s w f) u → w.freeJoin = some j → w.freeEntry = some n →
    let a := active s w f
    let b := exm s w &&& ~~~a
    let big := laneCount b ≤ laneCount a
    let keep := if big then (a, target s w f) else (b, nextPC (frag s w).pc)
    let other := if big then (b, nextPC (frag s w).pc) else (a, target s w f)
    ∃ t w', exec (.brv f) s = .next t ∧ t = u.setWarp s.cur.core s.cur.slot (some w') ∧ w'.r = w.r ∧
      (∀ x, t.byte x = s.byte x) ∧
      (frag s w').exm = keep.1 ∧ (frag s w').mem = keep.1 ||| ((frag s w).mem &&& ~~~(frag s w).exm) ∧
      (frag s w').pc = keep.2 ∧ (frag s w').jr = some j ∧ (frag s w').st = .ready ∧
      (w'.frag n).exm = other.1 ∧ (w'.frag n).mem = other.1 ∧ (w'.frag n).pc = other.2 ∧ (w'.frag n).jr = some j ∧
      (w'.frag n).st = .ready ∧ (w'.frag n).shadows = (frag s w).shadows ∧
      (∀ m, m ≠ s.cur.entry → m ≠ n →
        w'.frag m = { w.frag m with since := (w'.frag m).since, aged := (w'.frag m).aged }) ∧
      ∃ x, w'.join j = some x ∧ x.id = f.minor.toNat % 64 ∧ x.parent = (frag s w).jr ∧ x.lanes = (frag s w).mem ∧
        x.arr = 0 ∧ x.aexm = 0 ∧ x.deferred = [] ∧ x.conflict = false

/-- R249, R350, R354: RCVG in a fragment of an innermost split of its identifier. While other live lanes are still to arrive
and no side is deferred, the fragment stands arrived, and the record gained its lanes, its exm lanes and its NextPC; with a
deferred side the record gains them too, and the fragment's entry goes on with the largest of these sides. The last arrival
merges the fragments in its entry: the lanes that live with exm as they arrived, at the NextPC of the arrival with the lowest
lane, inside the enclosing split; the records of the split and those nested in it are free, and so are the arrived fragments'
entries; the merge set becomes its shadows, or, after an outermost split, what was written goes to the warp's registers, and
a conflict raises U. -/
def Obligations.RcvgArrives : Prop :=
  (∀ f s w j x, Ready (.rcvg f) s w → (frag s w).jr = some j → w.join j = some x → x.id = f.imm.toNat →
    foldRefused x (frag s w) j = none → x.deferred = [] → writtenSince (frag s w) j = [] →
    (x.arr ||| (frag s w).mem) &&& ~~~w.ended ≠ x.lanes &&& ~~~w.ended →
    ∃ t w' y, exec (.rcvg f) s = .next t ∧ t = s.setWarp s.cur.core s.cur.slot (some w') ∧ w'.r = w.r ∧
      (frag s w').st = .arrived ∧ w'.join j = some y ∧ y.arr = x.arr ||| (frag s w).mem ∧
      y.aexm = x.aexm ||| (frag s w).exm ∧
      y.arrivals = x.arrivals ++ [(lowestLane (frag s w).mem, nextPC (frag s w).pc)] ∧ y.set = x.set ∧
      (∀ n, n ≠ s.cur.entry → w'.frag n = w.frag n) ∧ ∀ a, t.byte a = s.byte a) ∧
  (∀ f s w j x g, Ready (.rcvg f) s w → (frag s w).jr = some j → w.join j = some x → x.id = f.imm.toNat →
    foldRefused x (frag s w) j = none → writtenSince (frag s w) j = [] → (orderSides x.deferred).head? = some g →
    ∃ t w' y, exec (.rcvg f) s = .next t ∧ t = s.setWarp s.cur.core s.cur.slot (some w') ∧ w'.r = w.r ∧
      (frag s w').st = .ready ∧ (frag s w').pc = g.2 ∧ (frag s w').mem = g.1 ∧ (frag s w').exm = g.1 ∧
      (frag s w').jr = some j ∧ (frag s w').shadows = x.inherited ∧
      w'.join j = some y ∧ y.deferred = x.deferred.filter (fun h => h ≠ g) ∧ y.arr = x.arr ||| (frag s w).mem ∧
      y.aexm = x.aexm ||| (frag s w).exm ∧
      y.arrivals = x.arrivals ++ [(lowestLane (frag s w).mem, nextPC (frag s w).pc)] ∧ y.set = x.set ∧
      (∀ n, n ≠ s.cur.entry → w'.frag n = w.frag n) ∧ ∀ a, t.byte a = s.byte a) ∧
  ∀ f s w j x, Ready (.rcvg f) s w → (frag s w).jr = some j → j < 32 → w.join j = some x → x.id = f.imm.toNat →
    foldRefused x (frag s w) j = none → x.deferred = [] → (frag s w).mem ≠ 0 →
    (x.arr ||| (frag s w).mem) &&& ~~~w.ended = x.lanes &&& ~~~w.ended →
    let nested := fun i => (joinChain w 32 (some i)).contains j
    let y := (writtenSince (frag s w) j).foldl (foldShadow (lowestLane (frag s w).mem)) x
    let arrivals := x.arrivals ++ [(lowestLane (frag s w).mem, nextPC (frag s w).pc)]
    ∃ t w', exec (.rcvg f) s = .next t ∧ t = s.setWarp s.cur.core s.cur.slot (some w') ∧
      (frag s w').st = .ready ∧ (frag s w').jr = x.parent ∧ (frag s w').mem = (x.arr ||| (frag s w).mem) &&& ~~~w.ended ∧
      (frag s w').exm = (x.aexm ||| (frag s w).exm) &&& ~~~w.ended ∧
      (∃ p ∈ arrivals, (∀ q ∈ arrivals, p.1 ≤ q.1) ∧ (frag s w').pc = p.2) ∧
      (∀ i, i < 32 → w'.join i = if (w.join i).isSome ∧ nested i = true then none else w.join i) ∧
      (∀ n, n ≠ s.cur.entry → w'.frag n =
        if (w.frag n).st = .arrived ∧ (∃ q, (w.frag n).jr = some q ∧ q < 32 ∧ (w.join q).isSome ∧ nested q = true) then {}
        else w.frag n) ∧
      w'.r = { w.r with s := w'.r.s, flags := w.r.flags ||| if y.conflict then 0x20 else 0 } ∧
      (x.parent = none → (frag s w').shadows = [] ∧ ∀ n, sr s w' n =
        ((y.set.reverse.find? fun m => m.reg == n && m.writer.isSome).map fun m => m.val).getD (spGet 0 w.r.s n)) ∧
      (x.parent ≠ none → w'.r.s = w.r.s ∧
        (frag s w').shadows.map (fun z => (z.reg, z.val)) = y.set.map fun m => (m.reg, m.val)) ∧
      ∀ a, t.byte a = s.byte a

/-- R250: EXIT of some lanes takes them out of the fragment, which goes on; EXIT of all lanes of a warp that is one fragment
without a split ends them all, after a drain that finds nothing pending. -/
def Obligations.ExitLanes : Prop :=
  (∀ f s w, Ready (.exit f) s w → active s w f ≠ 0 → active s w f ≠ exm s w →
    ∃ t w', exec (.exit f) s = .next t ∧ t = s.setWarp s.cur.core s.cur.slot (some w') ∧ w'.r = w.r ∧
      w'.ended = w.ended ||| active s w f ∧ (frag s w').mem = (frag s w).mem &&& ~~~active s w f ∧
      (frag s w').exm = (frag s w).exm &&& ~~~active s w f ∧ (frag s w').pc = nextPC (frag s w).pc ∧
      (frag s w').st = .ready ∧ (∀ n, n ≠ s.cur.entry → w'.frag n = w.frag n) ∧ ∀ a, t.byte a = s.byte a) ∧
  (∀ f s w, Ready (.exit f) s w → active s w f ≠ 0 → active s w f = exm s w → (frag s w).jr = none →
    w.stnt = [] → w.latch = none →
    ∃ t w', exec (.exit f) s = .next t ∧ t = s.setWarp s.cur.core s.cur.slot (some w') ∧ w'.r = w.r ∧
      w'.ended = w.ended ||| (frag s w).mem ∧ frag s w' = {} ∧ (∀ n, n ≠ s.cur.entry → w'.frag n = w.frag n) ∧
      ∀ a, t.byte a = s.byte a)

namespace Sys2Proof.Claims
open Sys2Proof.Machine

/-- The parts of lanes' accesses that passed their checks. -/
abbrev partsOf (x : Nat × LaneOut) : List Piece :=
  match x.2 with
  | .ok ps => ps
  | _ => []

/-- The Active lanes of CALLX have read their targets from glb in the state `u1`, where the lanes' checks and reads have
taken their time; `ts` are the lanes with their targets, in order (R248). -/
structure ReadsTargets (s : State) (w : Warp) (f : Fields) (u1 : State) (ts : List (Nat × W64)) : Prop where
  reads : ∃ u outs, accessLanes s (env s w f) 0 8 .rd false ((lanesOf (active s w f)).map fun L =>
      (L, (sr s w f.opb.toNat + 8 * (v w f.opa.toNat L).setWidth 64).toNat)) = (u, outs) ∧
    (∀ x ∈ outs, ∃ ps, x.2 = .ok ps ∧ withPoison u .rd x.2 = .ok ps ∧
      ∀ p ∈ ps, p.held u (.near s.cur.core) false = false) ∧
    u1 = touchLoads u (.near s.cur.core) (outs.flatMap partsOf) ∧
    ts = outs.map fun x => (x.1, BitVec.ofNat 64 (leNat (loadBytes u1 (towerOf s.cur.core) w (partsOf x))))

end Sys2Proof.Claims

/-- R248, R246, R349: CALLX whose Active lanes read their targets from glb. Where they are all of exm and name one PC, it writes
NextPC into s[dst] and moves the fragment there. Else, with a free join record `j` and free entries enough, it writes NextPC
and splits: of the groups of lanes with one target, and the lanes outside Active at NextPC, the first by size and then by
lowest lane keeps running in the fragment's entry with the lanes outside exm, and each other one stands ready in an entry of
its own; the record holds the split's lanes, identifier and parent. (Model's readings: log 34) -/
def Obligations.CallThroughTable : Prop :=
  (∀ f s w u1 u' ts pc, Ready (.callx f) s w → active s w f ≠ 0 → exm s w &&& ~~~active s w f = 0 →
    ReadsTargets s w f u1 ts → (∀ x ∈ ts, x.2 = pc) → checkTarget u1 (env s w f) pc = (u', none) →
    ShadowsFit s w [f.dst.toNat] →
    ∃ t w', Jumps (.callx f) s u' t w w' pc ∧ OnlyS s w w' f.dst.toNat (nextPC (frag s w).pc) 0) ∧
  ∀ f s w u1 u' ts g rest j, Ready (.callx f) s w → active s w f ≠ 0 → ReadsTargets s w f u1 ts →
    checkTargets u1 (env s w f) ((groupTargets ts).map fun g => g.2) = (u', none) → ShadowsFit s w [f.dst.toNat] →
    orderSides (groupTargets ts ++ (if exm s w &&& ~~~active s w f = 0 then []
      else [(exm s w &&& ~~~active s w f, nextPC (frag s w).pc)])) = g :: rest → rest ≠ [] →
    w.freeJoin = some j → rest.length ≤ (w.frags.filter fun fr => fr.st == .free).length →
    ∃ t w' x, exec (.callx f) s = .next t ∧ t = u'.setWarp s.cur.core s.cur.slot (some w') ∧ (∀ a, t.byte a = s.byte a) ∧
      w'.r = { w.r with s := w'.r.s } ∧ sr s w' f.dst.toNat = nextPC (frag s w).pc ∧
      (∀ m, m ≠ f.dst.toNat → sr s w' m = sr s w m) ∧
      (frag s w').exm = g.1 ∧ (frag s w').mem = g.1 ||| ((frag s w).mem &&& ~~~(frag s w).exm) ∧
      (frag s w').pc = g.2 ∧ (frag s w').jr = some j ∧ (frag s w').st = .ready ∧
      (∀ h ∈ rest, ∃ n, n ≠ s.cur.entry ∧ (w.frag n).st = .free ∧ (w'.frag n).exm = h.1 ∧ (w'.frag n).mem = h.1 ∧
        (w'.frag n).pc = h.2 ∧ (w'.frag n).jr = some j ∧ (w'.frag n).st = .ready ∧
        (w'.frag n).shadows = (frag s w').shadows) ∧
      (∀ m, m ≠ s.cur.entry → (w.frag m).st ≠ .free →
        w'.frag m = { w.frag m with since := (w'.frag m).since, aged := (w'.frag m).aged }) ∧
      w'.join j = some x ∧ x.id = f.minor.toNat % 64 ∧ x.parent = (frag s w).jr ∧ x.lanes = (frag s w).mem ∧
      x.arr = 0 ∧ x.aexm = 0 ∧ x.deferred = [] ∧ x.conflict = false

/-! ### System registers and extended blocks -/

/-- R49, R120, R209, R240, R312: SGET writes what a system register holds: LANEID to each Active lane, WARPID, COREID, CLOCK,
ENGSEQ, COINS, MTOL, RNGK, RNGC, HWM, LCLASS, FLAGS or XGRANT to s[dst]. SPUT writes MTOL, RNGK, RNGC, LCLASS or FLAGS; writes to
the reserved bits of FLAGS are ignored, and a non-zero reserved bit for LCLASS is fault 0x0D.
(Model's readings: log 39) -/
def Obligations.SystemRegisters : Prop :=
  (∀ f s w, Ready (.sget f) s w → active s w f ≠ 0 → f.imm = 0 →
    ∃ t w', Completes (.sget f) s t w w' ∧ OnlyV s w w' (fun n L =>
      if n = f.dst.toNat ∧ (active s w f).getLsbD L = true then some (BitVec.ofNat 32 L) else none) 0) ∧
  (∀ f s w, Ready (.sget f) s w → active s w f ≠ 0 → f.imm ≠ 0 → ShadowsFit s w [f.dst.toNat] →
    ∃ t w', Completes (.sget f) s t w w' ∧ OnlyS s w w' f.dst.toNat (
      match f.imm.toNat with
      | 1 => BitVec.ofNat 64 (s.cur.slot + w.idx * 256 + w.width * 65536)
      | 2 => BitVec.ofNat 64 (s.pkg.epoch.toNat * 65536 + s.cur.core * 256 + s.coreNumber s.cur.core)
      | 3 => BitVec.ofNat 64 (s.tower (s.cur.core / 128)).clock
      | 4 => w.stg.engseq.setWidth 64
      | 5 => BitVec.ofNat 64 (s.core s.cur.core).purse
      | 6 => w.r.mtol.setWidth 64
      | 7 => w.r.rngk
      | 8 => w.r.rngc
      | 9 => w.r.hwm
      | 10 => w.r.lclass.setWidth 64
      | 11 => w.r.flags.setWidth 64
      | _ => BitVec.ofNat 64 w.r.xgrant) 0) ∧
  (∀ f s w, Ready (.sput f) s w → active s w f ≠ 0 →
    let x := sr s w f.opa.toNat
    (f.imm = 10 → x.toNat < 16) →
    (f.imm = 6 → x.toNat < 2 ^ 34 ∧ x.toNat / 2 ^ 32 ≠ 3 ∧ (x.toNat / 2 ^ 32 = 2 → x.toNat % 2 ^ 32 ≤ 32)) →
    ∃ t w', Completes (.sput f) s t w w' ∧ (∀ m, sr s w' m = sr s w m) ∧ w'.r =
      match f.imm.toNat with
      | 6 => { w.r with mtol := x.setWidth 34 }
      | 7 => { w.r with rngk := x }
      | 8 => { w.r with rngc := x }
      | 10 => { w.r with lclass := x.setWidth 4 }
      | _ => { w.r with flags := x.setWidth 14 &&& 0x3F3F }) ∧
  (∀ f s w, Ready (.sput f) s w → active s w f ≠ 0 → f.imm = 10 → 16 ≤ (sr s w f.opa.toNat).toNat →
    ∃ t x, exec (.sput f) s = .next t ∧ Faulted s t w x ∧ x.cause = 0x0D)

/-- R233 to R235: XACQ of a warp without extended blocks, with an empty grant queue and room within the pool's limit, is
granted at once: v64 and up read as zero in the blocks granted, and every other register is as before. XREL frees the warp's
extended blocks; v0 to v63 and every other register are as before. -/
def Obligations.ExtendedBlocks : Prop :=
  (∀ f s w, Ready (.xacq f) s w → active s w f ≠ 0 → w.r.xgrant = 0 → (s.core s.cur.core).xqueue = [] →
    (s.core s.cur.core).granted + f.imm.toNat * (w.width / 16) ≤ (s.core s.cur.core).xplim.toNat →
    ∃ t w', Completes (.xacq f) s t w w' ∧ w'.r = { w.r with xgrant := f.imm.toNat, v := w'.r.v } ∧
      (∀ m, sr s w' m = sr s w m) ∧
      ∀ n L, L < 64 → v w' n L = if 64 ≤ n ∧ n < 64 + 32 * f.imm.toNat then 0 else v w n L) ∧
  ∀ f s w, Ready (.xrel f) s w → active s w f ≠ 0 →
    ∃ t w', Completes (.xrel f) s t w w' ∧ w'.r = { w.r with xgrant := 0, v := w'.r.v } ∧
      (∀ m, sr s w' m = sr s w m) ∧ ∀ n L, n < 64 → L < 64 → v w' n L = v w n L

/-! ### Memory instructions -/

namespace Sys2Proof.Claims
open Sys2Proof.Machine

/-- The instruction answers a next state in which its fragment stands ready at the next slot with its lanes as before. -/
structure Issued (i : Instr) (s t : State) (w w' : Warp) : Prop where
  next : exec i s = .next t
  warp : t.warp s.cur.core s.cur.slot = some w'
  pc : (frag s w').pc = nextPC (frag s w).pc
  st : (frag s w').st = .ready ∧ (frag s w').wait = none
  lanes : (frag s w').exm = (frag s w).exm ∧ (frag s w').mem = (frag s w).mem ∧ (frag s w').jr = (frag s w).jr

/-- It also leaves every other fragment and warp as it was. -/
structure Ran (i : Instr) (s t : State) (w w' : Warp) : Prop extends Issued i s t w w' where
  frags : ∀ j, j ≠ s.cur.entry → w'.frag j = w.frag j
  others : ∀ c k, (c ≠ s.cur.core ∨ k ≠ s.cur.slot) → t.warp c k = s.warp c k

/-- The same of an instruction that first performs what its warp has on its way, which leaves the state `u` and the warp `wu`: every
other fragment and warp is as it was there. -/
structure RanFrom (i : Instr) (s u t : State) (w wu w' : Warp) : Prop extends Issued i s t w w' where
  settled : u.warp s.cur.core s.cur.slot = some wu
  frags : ∀ j, j ≠ s.cur.entry → w'.frag j = wu.frag j
  others : ∀ c k, (c ≠ s.cur.core ∨ k ≠ s.cur.slot) → t.warp c k = u.warp c k

/-- Every byte of memory, of the scratchpads and of the matrix cells reads as before, and so do the full-empty bits. -/
structure StoresKept (s t : State) : Prop where
  mem : ∀ a, t.byte a = s.byte a
  scr : ∀ c, (t.core c).scr = (s.core c).scr
  cells : ∀ c, (t.core c).cells = (s.core c).cells
  full : ∀ c, (t.core c).full = (s.core c).full

/-- The segment offset of a lane's access (R183, R206): s[opa], the index scaled by 1, 2, 4 or 8, and the immediate. -/
abbrev laneAt (s : State) (w : Warp) (f : Fields) (L : Nat) : Nat :=
  (sr s w f.opa.toNat +
    (if f.qual.getLsbD 3 then (op32 s w f.bscl f.opb L).signExtend 64 <<< (f.qual.toNat / 2 % 4) else 0) +
    f.imm.signExtend 64).toNat
/-- The lanes of a mask with their offsets. -/
abbrev lanesAt (s : State) (w : Warp) (f : Fields) (m : Mask) : List (Nat × Nat) := (lanesOf m).map fun L => (L, laneAt s w f L)
/-- The offset of a scalar access (R217). -/
abbrev scalarAt (s : State) (w : Warp) (f : Fields) : Nat := (sr s w f.opa.toNat + f.imm.signExtend 64).toNat
/-- The segment register that opc names. -/
abbrev segOf (f : Fields) : Nat := f.opc.toNat % 8

/-- Accesses at the listed offsets of a segment pass the checks of R208 (R77, R71, R170) and wait for no one (R157, R166):
translation leaves the state `u`, and the bytes lie in the parts `xs`. -/
structure Reaches (s u : State) (w : Warp) (f : Fields) (seg size : Nat) (acc : Acc) (fb : Bool) (offs : List (Nat × Nat))
    (xs : List (Nat × List Piece)) : Prop where
  checked : accessLanes s (env s w f) seg size acc fb offs = (u, xs.map fun x => (x.1, .ok x.2))
  clean : ∀ x ∈ xs, ∀ p ∈ x.2, pieceFault u acc p = none
  free : ∀ x ∈ xs, ∀ p ∈ x.2, p.held u (.near s.cur.core) acc.writes = false

/-- The loads of an instruction are made from the fragment's core: their lines have come, and their time is taken (R154, R161,
R210). -/
abbrev touched (s u : State) (xs : List (Nat × List Piece)) : State :=
  touchLoads u (.near s.cur.core) (xs.flatMap fun x => x.2)
/-- The bytes of an access as the warp's fragment reads them (R161, R223). -/
abbrev readBytes (s u : State) (w : Warp) (ps : List Piece) : List Byte := loadBytes u (towerOf s.cur.core) w ps

/-- The word that an access of `size` bytes gives v[n] of a lane, when n is one of its destinations (R212). -/
abbrev loaded (s u : State) (w : Warp) (size dst : Nat) (xs : List (Nat × List Piece)) (n L : Nat) : Option W32 :=
  match xs.find? fun x => x.1 == L with
  | some x =>
    if dst ≤ n ∧ n < dst + (size + 3) / 4 then
      some (BitVec.ofNat 32 (leNat (((readBytes s u w x.2).drop (4 * (n - dst))).take 4)))
    else none
  | none => none

/-- The map loads of an instruction's lanes that are still to read: each reads its unit at any time before the run ends (R31, R32,
R59; log 1). -/
abbrev laterLoads (s : State) (dst : Nat) (xs : List (Nat × List Piece)) : List MapLoad :=
  (xs.flatMap fun x => x.2.flatMap (Piece.loads dst (some x.1))).filter (MapLoad.later s.tick s.cur)
/-- Is a word of v[n] in a lane still to be written by one of them? -/
abbrev awaited (ms : List MapLoad) (n L : Nat) : Bool :=
  ms.any fun m => m.lane == some L && decide (m.dst ≤ n ∧ n < m.dst + (m.len + 3) / 4)
/-- The words of lanes that loads have given, and those that map loads are still to give, which hold what they held; the fragment
keeps the loads that are still to come. -/
structure Given (s u : State) (w w' : Warp) (size dst : Nat) (xs : List (Nat × List Piece)) (others : Nat → Bool) : Prop where
  words : ∀ n L, L < 64 → others L = false → v w' n L =
    if awaited (laterLoads s dst xs) n L then v w n L else (loaded s u w size dst xs n L).getD (v w n L)
  loads : (frag s w').loads = (frag s w).loads ++ laterLoads s dst xs

/-- The bytes of `size` that v[dst] and up hold in a lane (R212). -/
abbrev held (w : Warp) (dst size L : Nat) : List Byte :=
  ((List.range ((size + 3) / 4)).flatMap fun i => leBytes 4 (v w (dst + i) L).toNat).take size

/-- The bytes of an access, each at its place. -/
def placed : List Piece → List Byte → List (Space × Nat × Byte)
  | [], _ => []
  | p :: ps, d => ((List.range p.len).map fun i => (p.space, p.addr + i, (d[i]?).getD 0)) ++ placed ps (d.drop p.len)
/-- The map stores of an access from a core, one for each unit of the map that it meets (R59). -/
def mapped (core : Nat) : List Piece → List Byte → List MapStore
  | [], _ => []
  | p :: ps, d =>
    (match p.space, mapWindow core p.addr with
      | .map _, some (q, o) => (mapUnits o p.len).map fun x => ⟨q * 2 ^ 24 + x.1, ((d.take p.len).drop (x.1 - o)).take x.2⟩
      | _, _ => []) ++ mapped core ps (d.drop p.len)
/-- The byte last stored at a place. -/
abbrev lastAt (xs : List (Space × Nat × Byte)) (sp : Space) (a : Nat) : Option Byte :=
  (xs.reverse.find? fun x => x.1 == sp && x.2.1 == a).map fun x => x.2.2

/-- Stores of the parts `xs` with the bytes `data` of each lane are performed in ascending lane order, so the higher lane
remains (R210): memory and the scratchpads hold their bytes and read as before elsewhere, map stores are pending after
the earlier ones (R59), and the warp's registers are as before. -/
structure Stored (s t : State) (w w' : Warp) (xs : List (Nat × List Piece)) (data : Nat → List Byte) : Prop where
  mem : ∀ a, t.byte a = (lastAt (xs.flatMap fun x => placed x.2 (data x.1)) .phys a).getD (s.byte a)
  scr : ∀ c, c < 256 → ∀ a, spGet 0 (t.core c).scr a =
    (lastAt (xs.flatMap fun x => placed x.2 (data x.1)) (.scr c) a).getD (spGet 0 (s.core c).scr a)
  cells : ∀ c, (t.core c).cells = (s.core c).cells ∧ (t.core c).full = (s.core c).full
  maps : w'.maps = w.maps ++ xs.flatMap fun x => mapped s.cur.core x.2 (data x.1)
  warp : w' = { w with r := w'.r, maps := w'.maps, frags := w'.frags }

/-- Did the access of a lane pass its checks? -/
abbrev okAt (outs : List (Nat × LaneOut)) (L : Nat) : Bool := outs.any fun x => x.1 == L && match x.2 with
  | .ok _ => true
  | _ => false
/-- The 64 KiB page of a failing lane (R216): of its segment offset in the on-chip map, else of the address that failed. -/
abbrev pageAt (s : State) (w : Warp) (f : Fields) (L va : Nat) : Nat := (if segOf f = 4 then laneAt s w f L else va) / 65536

/-- GATH or SCAT stops its fragment at its PC with its failing lanes, once the lanes that passed are done: its mask k[kc] has
gained these, and for each pair of a cause and a page that failing lanes met there is one record, with these lanes, the
address of the lowest, and the mask (R215, R216). -/
structure PartStop (i : Instr) (s t : State) (w w' : Warp) (f : Fields) (outs : List (Nat × LaneOut)) : Prop where
  next : exec i s = .next t
  warp : t.warp s.cur.core s.cur.slot = some w'
  stopped : (frag s w').st = .stopped ∧ (frag s w').wait = none ∧ (frag s w').pc = (frag s w).pc
  lanes : (frag s w').exm = (frag s w).exm ∧ (frag s w').mem = (frag s w).mem ∧ (frag s w').jr = (frag s w).jr
  frags : ∀ j, j ≠ s.cur.entry → w'.frag j = w.frag j
  others : ∀ c k, (c ≠ s.cur.core ∨ k ≠ s.cur.slot) → t.warp c k = s.warp c k
  mask : ∀ m L, L < 64 → (kr w' m).getLsbD L = ((kr w m).getLsbD L || (decide (m = f.minor.toNat / 8) && okAt outs L))
  records : ∃ recs, (t.core s.cur.core).records = (s.core s.cur.core).records ++ recs ∧
    (∀ L c va, (L, .bad c va) ∈ outs → ∃ r ∈ recs, r.cause = c ∧ r.lanes.getLsbD L = true) ∧
    recs.Pairwise (fun a b => a.lanes &&& b.lanes = 0) ∧
    ∀ r ∈ recs, r.pcm = kr w' (f.minor.toNat / 8) ∧ r.pc = (frag s w).pc ∧ r.frag = s.cur.entry ∧
      (∃ p, ∀ L, L < 64 → (r.lanes.getLsbD L = true ↔ ∃ va, (L, .bad r.cause va) ∈ outs ∧ pageAt s w f L va = p)) ∧
      ∃ L va, (L, .bad r.cause va) ∈ outs ∧ r.lanes.getLsbD L = true ∧ (∀ M, M < L → r.lanes.getLsbD M = false) ∧
        r.va = BitVec.ofNat 64 va

end Sys2Proof.Claims

/-- R59, R183, R211 to R217: LD, GATH and SLD whose accesses pass their checks. Each loaded lane's words go to v[dst] and up, the
last word zero-extended; LD's status mask has its Active bits cleared, GATH's mask gains the lanes it loads, and SLD's value is
zero-extended. The units of a load through the on-chip map may be read later, before the fragment's run ends, and till then the
words that await them hold what they held. Nothing is stored, and no other register changes. A lane of LD whose page is not resident under .fb, or whose
line is poisoned under .pz, receives zeros and its bit of the status mask, and only the first is reported, as wanted level 0.
GATH of which some lanes fail loads the others and stops with its failing lanes recorded.
(Model's readings: logs 1, 40) -/
def Obligations.LoadsComplete : Prop :=
  (∀ f s w u xs, Ready (.ld f) s w → active s w f ≠ 0 →
    Reaches s u w f (segOf f) (2 ^ (f.minor.toNat % 4)) .rd (f.qual.getLsbD 0) (lanesAt s w f (active s w f)) xs →
    ∃ t w', Ran (.ld f) s t w w' ∧ StoresKept s t ∧ w' = { w with r := w'.r, frags := w'.frags } ∧
      w'.r = { w.r with v := w'.r.v, k := w'.r.k } ∧ (∀ m, sr s w' m = sr s w m) ∧
      (∀ m, kr w' m = if m = f.minor.toNat / 8 ∧ m ≠ 0 then kr w m &&& ~~~active s w f else kr w m) ∧
      Given s (touched s u xs) w w' (2 ^ (f.minor.toNat % 4)) f.dst.toNat xs fun _ => false) ∧
  (∀ f s w u (pre : List (Nat × LaneOut)), let size : Nat := 2 ^ (f.minor.toNat % 4)
    let whole := fun (ps : List Piece) => ps.all fun p => (pieceFault u .rd p).isNone
    let good := pre.filterMap fun (x : Nat × LaneOut) => match x.2 with
      | .ok ps => if whole ps then some (x.1, ps) else none
      | _ => none
    let given : Nat → Bool := fun L => pre.any fun (x : Nat × LaneOut) => x.1 == L && match x.2 with
      | .ok ps => !whole ps
      | _ => true
    Ready (.ld f) s w → active s w f ≠ 0 →
    accessLanes s (env s w f) (segOf f) size .rd (f.qual.getLsbD 0) (lanesAt s w f (active s w f)) = (u, pre) →
    (∀ x ∈ pre, (∃ ps, x.2 = .ok ps ∧ whole ps = true ∧ ∀ p ∈ ps, p.held u (.near s.cur.core) false = false) ∨
      (f.minor.getLsbD 2 = true ∧ ∃ ps va, x.2 = .ok ps ∧ ps.findSome? (pieceFault u .rd) = some (5, va)) ∨
      ∃ va, x.2 = .absent va) →
    ∃ t w', Ran (.ld f) s t w w' ∧ StoresKept s t ∧ w' = { w with r := w'.r, frags := w'.frags, fbs := w'.fbs } ∧
      w'.fbs = w.fbs ++ pre.filterMap (fun x => match x.2 with
        | .absent va => some ⟨va, 0⟩
        | _ => none) ∧
      w'.r = { w.r with v := w'.r.v, k := w'.r.k } ∧ (∀ m, sr s w' m = sr s w m) ∧
      (∀ m L, L < 64 → (kr w' m).getLsbD L =
        if m = f.minor.toNat / 8 ∧ m ≠ 0 ∧ (active s w f).getLsbD L = true then given L else (kr w m).getLsbD L) ∧
      Given s (touched s u good) w w' size f.dst.toNat good given ∧
      ∀ n L, L < 64 → given L = true → v w' n L =
        if f.dst.toNat ≤ n ∧ n < f.dst.toNat + (size + 3) / 4 then 0 else v w n L) ∧
  (∀ f s w u xs, Ready (.gath f) s w → active s w f ≠ 0 →
    Reaches s u w f (segOf f) (2 ^ (f.minor.toNat % 4)) .rd false
      (lanesAt s w f (active s w f &&& ~~~kr w (f.minor.toNat / 8))) xs →
    ∃ t w', Ran (.gath f) s t w w' ∧ StoresKept s t ∧ w' = { w with r := w'.r, frags := w'.frags } ∧
      w'.r = { w.r with v := w'.r.v, k := w'.r.k } ∧ (∀ m, sr s w' m = sr s w m) ∧
      (∀ m, kr w' m = if m = f.minor.toNat / 8 then kr w m ||| active s w f else kr w m) ∧
      Given s (touched s u xs) w w' (2 ^ (f.minor.toNat % 4)) f.dst.toNat xs fun _ => false) ∧
  (∀ f s w u outs, let size : Nat := 2 ^ (f.minor.toNat % 4)
    Ready (.gath f) s w → active s w f ≠ 0 →
    checkLanes s (env s w f) (segOf f) size .rd (lanesOf (active s w f &&& ~~~kr w (f.minor.toNat / 8))) = (u, outs) →
    (∀ x ∈ outs, x.2 ≠ .held) → (∀ x ∈ okLanes outs, ∀ p ∈ x.2, p.held u (.near s.cur.core) false = false) →
    (∃ x ∈ outs, ∃ c va, x.2 = .bad c va) →
    ∃ t w', PartStop (.gath f) s t w w' f outs ∧ StoresKept s t ∧ w' = { w with r := w'.r, frags := w'.frags } ∧
      w'.r = { w.r with v := w'.r.v, k := w'.r.k } ∧ (∀ m, sr s w' m = sr s w m) ∧
      Given s (touched s u (okLanes outs)) w w' size f.dst.toNat (okLanes outs) fun _ => false) ∧
  ∀ f s w u ps, Ready (.sld f) s w → active s w f ≠ 0 → ShadowsFit s w [f.dst.toNat] →
    Reaches s u w f (segOf f) (2 ^ (f.minor.toNat % 4)) .rd false [(0, scalarAt s w f)] [(0, ps)] →
    let ms := (ps.flatMap (Piece.loads f.dst.toNat none)).filter (MapLoad.later s.tick s.cur)
    let x : W64 := BitVec.ofNat 64 (leNat (readBytes s (touched s u [(0, ps)]) w ps))
    let half := fun (h : Nat) =>
      if ms.any fun m => m.part.all (· == h) then (sr s w f.dst.toNat).extractLsb' (32 * h) 32 else x.extractLsb' (32 * h) 32
    ∃ t w', Ran (.sld f) s t w w' ∧ StoresKept s t ∧ w' = { w with r := w'.r, frags := w'.frags } ∧
      OnlyS s w w' f.dst.toNat (half 1 ++ half 0 : BitVec 64) 0 ∧ (frag s w').loads = (frag s w).loads ++ ms

/-- R183, R208, R210 to R213, R215, R217: ST, SCAT and SST whose accesses pass their checks and reach no staging window, in a warp
without pending non-temporal stores: the addresses stored to are those that the checks computed, the bytes are those of
v[dst] and up or the low bytes of s[dst], and every other byte reads as before. SCAT of which some lanes fail stores the
others and stops with its failing lanes recorded. (Model's readings: logs 1, 13, 40) -/
def Obligations.StoresComplete : Prop :=
  (∀ f s w u xs, let size := if f.minor.getLsbD 2 then 16 else 2 ^ (f.minor.toNat % 4)
    Ready (.st f) s w → active s w f ≠ 0 → w.stnt = [] →
    Reaches s u w f (segOf f) size .wr false (lanesAt s w f (active s w f)) xs →
    (∀ x ∈ xs, stagingAt s.cur.core x.2 = none) →
    ∃ t w', Ran (.st f) s t w w' ∧ Stored s t w w' xs (held w f.dst.toNat size) ∧ w'.r = w.r) ∧
  (∀ f s w u xs, let size : Nat := 2 ^ (f.minor.toNat % 4)
    Ready (.scat f) s w → active s w f ≠ 0 → w.stnt = [] →
    Reaches s u w f (segOf f) size .wr false (lanesAt s w f (active s w f &&& ~~~kr w (f.minor.toNat / 8))) xs →
    (∀ x ∈ xs, stagingAt s.cur.core x.2 = none) →
    ∃ t w', Ran (.scat f) s t w w' ∧ Stored s t w w' xs (held w f.dst.toNat size) ∧
      OnlyK s w w' (f.minor.toNat / 8) (kr w (f.minor.toNat / 8) ||| active s w f) 0) ∧
  (∀ f s w u outs, let size : Nat := 2 ^ (f.minor.toNat % 4)
    Ready (.scat f) s w → active s w f ≠ 0 → w.stnt = [] →
    checkLanes s (env s w f) (segOf f) size .wr (lanesOf (active s w f &&& ~~~kr w (f.minor.toNat / 8))) = (u, outs) →
    (∀ x ∈ outs, x.2 ≠ .held) → (∀ x ∈ okLanes outs, ∀ p ∈ x.2, p.held u (.near s.cur.core) true = false) →
    (∀ x ∈ okLanes outs, stagingAt s.cur.core x.2 = none) → (∃ x ∈ outs, ∃ c va, x.2 = .bad c va) →
    ∃ t w', PartStop (.scat f) s t w w' f outs ∧ Stored s t w w' (okLanes outs) (held w f.dst.toNat size) ∧
      w'.r = { w.r with k := w'.r.k } ∧ ∀ m, sr s w' m = sr s w m) ∧
  ∀ f s w u ps, let size : Nat := 2 ^ (f.minor.toNat % 4)
    Ready (.sst f) s w → active s w f ≠ 0 → w.stnt = [] →
    Reaches s u w f (segOf f) size .wr false [(0, scalarAt s w f)] [(0, ps)] → stagingAt s.cur.core ps = none →
    ∃ t w', Ran (.sst f) s t w w' ∧ Stored s t w w' [(0, ps)] (fun _ => leBytes size (sr s w f.dst.toNat).toNat) ∧ w'.r = w.r

/-- R36, R41, R208, R387, R390: LD without .fb and .pz, ST, and ATOM whose lowest failing lane fails its checks with a cause at an
address: a precise fault of that cause, with the address, the segment and the size in its record; no lane loads or
stores. (Model's readings: log 16) -/
def Obligations.AccessFaults : Prop :=
  ∀ f s w u outs, ∀ p ∈ ([(.ld f, 2 ^ (f.minor.toNat % 4), .rd), (.st f, if f.minor.getLsbD 2 then 16 else 2 ^ (f.minor.toNat % 4), .wr),
      (.atom f, if w64 f then 8 else 4, .rw)] : List (Instr × Nat × Acc)),
    Ready p.1 s w → active s w f ≠ 0 → (p.1 = .ld f → f.qual.getLsbD 0 = false ∧ f.minor.getLsbD 2 = false) →
    checkLanes s (env s w f) (segOf f) p.2.1 p.2.2 (lanesOf (active s w f)) = (u, outs) → (∀ x ∈ outs, x.2 ≠ .held) →
    (∀ x ∈ outs, ∀ ps, x.2 = .ok ps → stagingAt s.cur.core ps = none) →
    ∀ L c va, (outs.find? fun x => match x.2 with
      | .bad _ _ => true
      | _ => false) = some (L, .bad c va) →
    ∃ t x, exec p.1 s = .next t ∧ Faulted u t w x ∧ (∀ a, t.byte a = s.byte a) ∧ x.cause = c ∧ x.va = BitVec.ofNat 64 va ∧
      (c ≠ 0x15 → c ≠ 0x10 → x.aux = BitVec.ofNat 32 (segOf f + 256 * p.2.1)) ∧ x.acc = p.2.2.code ∧ x.lanes.getLsbD L = true

/-- R95 to R100, R214, R218, R219: LDB and STB through a record that is well formed, reads the same when its elements are read,
and whose elements' checks pass. LDB writes each Active lane's components to v[dst] and up, zeros for a lane whose page is
not resident under .fb or whose line is poisoned under .pz, and these lanes into the status mask; STB stores each lane's
converted components in ascending lane order. (Model's readings: log 33) -/
def Obligations.RecordAccesses : Prop :=
  (∀ f s w u u' ps r outs, Ready (.ldb f) s w → active s w f ≠ 0 →
    scalarAccess s (env s w f) 0x92 7 (40 * f.imm.toNat) 40 .rd = (u, .ok ps) →
    (∀ p ∈ ps, p.held u (.near s.cur.core) false = false) →
    let u1 := touched s u [(0, ps)]
    r = bufRec (leNat (readBytes s u1 w ps)) → r.malformed false = false →
    f.dst.toNat + r.chans * r.regs ≤ 64 + 32 * w.r.xgrant →
    f.dst.toNat + r.chans * r.regs ≤ 256 → (r.regs = 2 → f.dst.toNat % 2 = 0) →
    recordElems (env s w f) r .rd (f.qual.getLsbD 0) (f.minor.getLsbD 2) u1
      ((lanesOf (active s w f)).map fun L => (L, (op32 s w f.ascl f.opa L).toNat)) = (u', outs) →
    (∀ x ∈ outs, x.2 = .skip ∨ x.2 = .poisoned ∨ (∃ va, x.2 = .absent va) ∨
      ∃ i pl cs, x.2 = .ok i pl cs ∧ ∀ p ∈ pl ++ cs.flatten, p.held u' (.near s.cur.core) false = false) →
    let u2 := touched s u' [(0, ps ++ elemPieces outs)]
    readBytes s u2 w ps = readBytes s u1 w ps →
    let vals := fun L => match (outs.find? fun x => x.1 == L).map fun x => x.2 with
      | some (.ok i pl cs) =>
        r.components i (leNat (readBytes s u2 w pl)) (cs.map fun ps => leNat (readBytes s u2 w ps))
      | some _ => List.replicate r.chans (0, 0)
      | none => []
    let given : Nat → Bool := fun L => outs.any fun x => x.1 == L && match x.2 with
      | .absent _ => true
      | .poisoned => true
      | _ => false
    ∃ t w', Ran (.ldb f) s t w w' ∧ StoresKept s t ∧ w' = { w with r := w'.r, frags := w'.frags, fbs := w'.fbs } ∧
      w'.fbs = w.fbs ++ outs.filterMap (fun x => match x.2 with
        | .absent va => some ⟨va, 0⟩
        | _ => none) ∧
      w'.r = { w.r with v := w'.r.v, k := w'.r.k, flags := w'.r.flags } ∧
      w'.r.flags = w.r.flags ||| BitVec.ofNat 14
        ((lanesOf (active s w f)).foldl (fun a L => (vals L).foldl (fun a x => a ||| x.2) a) 0) ∧
      (∀ m L, L < 64 → (kr w' m).getLsbD L =
        if m = f.minor.toNat / 8 ∧ m ≠ 0 ∧ (active s w f).getLsbD L = true then given L else (kr w m).getLsbD L) ∧
      ∀ n L, L < 64 → v w' n L =
        if f.dst.toNat ≤ n ∧ n < f.dst.toNat + r.chans * r.regs then
          match (vals L)[(n - f.dst.toNat) / r.regs]? with
          | some x => BitVec.ofNat 32 (x.1 / 2 ^ (32 * ((n - f.dst.toNat) % r.regs)))
          | none => if (active s w f).getLsbD L then 0 else v w n L
        else v w n L) ∧
  ∀ f s w u u' ps r outs, Ready (.stb f) s w → active s w f ≠ 0 → w.stnt = [] →
    scalarAccess s (env s w f) 0x93 7 (40 * f.imm.toNat) 40 .rd = (u, .ok ps) →
    (∀ p ∈ ps, p.held u (.near s.cur.core) false = false) →
    let u1 := touched s u [(0, ps)]
    r = bufRec (leNat (readBytes s u1 w ps)) → r.malformed true = false →
    f.dst.toNat + r.chans * r.regs ≤ 64 + 32 * w.r.xgrant →
    f.dst.toNat + r.chans * r.regs ≤ 256 → (r.regs = 2 → f.dst.toNat % 2 = 0) →
    recordElems (env s w f) r .wr false false u1
      ((lanesOf (active s w f)).map fun L => (L, (op32 s w f.ascl f.opa L).toNat)) = (u', outs) →
    (∀ x ∈ outs, x.2 = .skip ∨
      ∃ i cs, x.2 = .ok i [] cs ∧ ∀ p ∈ cs.flatten, p.held u' (.near s.cur.core) true = false) →
    let u2 := claimStores u' s.cur.core s.cur.slot (elemPieces outs)
    let u3 := touched s u2 [(0, ps)]
    (u3.tower (towerOf s.cur.core)).pts = (u2.tower (towerOf s.cur.core)).pts →
    readBytes s u3 w ps = readBytes s u1 w ps →
    let conv := fun L c => convertOut r
      (if r.regs = 2 then (v64 w (f.dst.toNat + 2 * c) L).toNat else (v w (f.dst.toNat + c) L).toNat)
    let stores := outs.flatMap fun x => match x.2 with
      | .ok _ _ cs => (List.range cs.length).flatMap fun c => placed ((cs[c]?).getD []) (leBytes r.es (conv x.1 c).1)
      | _ => []
    ∃ t w', Ran (.stb f) s t w w' ∧ (∀ a, t.byte a = (lastAt stores .phys a).getD (s.byte a)) ∧
      (∀ c, (t.core c).scr = (s.core c).scr ∧ (t.core c).cells = (s.core c).cells ∧ (t.core c).full = (s.core c).full) ∧
      w' = { w with r := w'.r, frags := w'.frags } ∧ w'.r = { w.r with flags := w'.r.flags }

namespace Sys2Proof.Claims
open Sys2Proof.Machine

/-- Memory and the scratchpads of a state, byte by byte. -/
abbrev view (s : State) (sp : Space) (a : Nat) : Byte :=
  match sp with
  | .phys => s.byte a
  | .scr c => spGet 0 (s.core c).scr a
  | .map _ => 0
/-- Atomic lanes one after another in ascending order (R210): each reads what the lower lanes left, and its step says what it
stores; the bytes that each lane read. -/
def atomView (act : Nat → List Byte → Option (List Byte)) :
    (Space → Nat → Byte) → List (Nat × List Piece) → (Space → Nat → Byte) × List (Nat × List Byte)
  | m, [] => (m, [])
  | m, (L, ps) :: rest =>
    let old := ps.flatMap fun p => (List.range p.len).map fun i => m p.space (p.addr + i)
    let m' : Space → Nat → Byte := match act L old with
      | some new => fun sp a => (lastAt (placed ps new) sp a).getD (m sp a)
      | none => m
    let r := atomView act m' rest
    (r.1, (L, old) :: r.2)
/-- The new value of ATOM and its flags (R221), from the old value, v[dst] and, for .cas, the value after it. -/
abbrev atomic (f : Fields) (old x swp : Nat) : Nat × Nat :=
  let n := if w64 f then 64 else 32
  let a := BitVec.ofNat n old
  let b := BitVec.ofNat n x
  match f.minor.toNat % 64 with
  | 0 => ((a + b).toNat, 0)
  | 1 => ((a - b).toNat, 0)
  | 2 => ((minI (sgn f) n a b).toNat, 0)
  | 3 => ((maxI (sgn f) n a b).toNat, 0)
  | 4 => ((a &&& b).toNat, 0)
  | 5 => ((a ||| b).toNat, 0)
  | 6 => ((a ^^^ b).toNat, 0)
  | 7 => (x, 0)
  | 8 => (if old = x then swp else old, 0)
  | _ =>
    if f.typ = 5 then roundTo fmtF32 0 false ((decodeVal fmtF32 old).add false (decodeVal fmtF32 x))
    else
      let half := fun j => roundTo fmtBf16 0 false
        ((decodeVal fmtBf16 (old / 65536 ^ j % 65536)).add false (decodeVal fmtBf16 (x / 65536 ^ j % 65536)))
      ((half 0).1 + (half 1).1 * 65536, (half 0).2 ||| (half 1).2)
/-- The registers of an atomic instruction that wrote the old bytes `olds` to v[dst] and up. -/
abbrev OldValues (s : State) (w w' : Warp) (dst size : Nat) (olds : List (Nat × List Byte)) : Prop :=
  w'.r = { w.r with v := w'.r.v, flags := w'.r.flags } ∧ (∀ m, sr s w' m = sr s w m) ∧
  ∀ n L, L < 64 → v w' n L = match olds.find? fun x => x.1 == L with
    | some x => if dst ≤ n ∧ n < dst + size / 4 then BitVec.ofNat 32 (leNat ((x.2.drop (4 * (n - dst))).take 4)) else v w n L
    | none => v w n L

end Sys2Proof.Claims

/-- R210, R220 to R222: ATOM and ATOMW whose accesses pass their checks, in a warp without pending non-temporal stores. The lanes
act one after another in ascending order, each on what the lower ones left; v[dst] and up receive the bytes each lane
read; every other byte reads as before. (Model's readings: logs 1, 40) -/
def Obligations.Atomics : Prop :=
  (∀ f s w u xs, let size := if w64 f then 8 else 4
    let reg := fun L i => leNat (held w (f.dst.toNat + i * (size / 4)) size L)
    let act := fun L old => some (leBytes size (atomic f (leNat old) (reg L 0) (reg L 1)).1)
    Ready (.atom f) s w → active s w f ≠ 0 → w.stnt = [] →
    Reaches s u w f (segOf f) size .rw false (lanesAt s w f (active s w f)) xs →
    ∃ t w', Ran (.atom f) s t w w' ∧ w' = { w with r := w'.r, frags := w'.frags } ∧
      (∀ a, t.byte a = (atomView act (view s) xs).1 .phys a) ∧
      (∀ c a, spGet 0 (t.core c).scr a = (atomView act (view s) xs).1 (.scr c) a) ∧
      (∀ c, (t.core c).cells = (s.core c).cells ∧ (t.core c).full = (s.core c).full) ∧
      OldValues s w w' f.dst.toNat size (atomView act (view s) xs).2 ∧
      w'.r.flags = w.r.flags ||| BitVec.ofNat 14 (((atomView act (view s) xs).2).foldl
        (fun fl x => fl ||| (atomic f (leNat x.2) (reg x.1 0) (reg x.1 1)).2) 0)) ∧
  ∀ f s w u xs,
    let act := fun L old => if old = held w f.dst.toNat 16 L then some (held w (f.dst.toNat + 4) 16 L) else none
    Ready (.atomw f) s w → active s w f ≠ 0 → w.stnt = [] →
    Reaches s u w f (segOf f) 16 .rw false (lanesAt s w f (active s w f)) xs →
    ∃ t w', Ran (.atomw f) s t w w' ∧ w' = { w with r := w'.r, frags := w'.frags } ∧
      (∀ a, t.byte a = (atomView act (view s) xs).1 .phys a) ∧
      (∀ c a, spGet 0 (t.core c).scr a = (atomView act (view s) xs).1 (.scr c) a) ∧
      (∀ c, (t.core c).cells = (s.core c).cells ∧ (t.core c).full = (s.core c).full) ∧
      OldValues s w w' f.dst.toNat 16 (atomView act (view s) xs).2 ∧ w'.r.flags = w.r.flags

namespace Sys2Proof.Claims
open Sys2Proof.Machine

/-- The bytes of pending stores, each at its place. -/
abbrev pendPlaced (xs : List (List PendPart)) : List (Space × Nat × Byte) :=
  xs.flatMap fun st => st.flatMap fun p => (List.range p.data.length).map fun i => (.phys, p.addr + i, (p.data[i]?).getD 0)
/-- No line of the pending stores of a core's warp is poisoned, and none has to be waited for (R157, R166). -/
abbrev PendFree (s : State) (core : Nat) (xs : List (List PendPart)) : Prop :=
  ∀ st ∈ xs, ∀ p ∈ st, s.poisoned p.addr p.data.length = false ∧
    ∀ ln ∈ linesOf p.addr p.data.length, s.lineHeld (.near core) true ln = false
/-- Every pending store of the warp is performed in order, none discarded, and the registers are as before. -/
structure Drained (s t : State) (w w' : Warp) : Prop where
  mem : ∀ a, t.byte a = (lastAt (pendPlaced w.stnt) .phys a).getD (s.byte a)
  cores : ∀ c, (t.core c).scr = (s.core c).scr ∧ (t.core c).cells = (s.core c).cells ∧ (t.core c).full = (s.core c).full
  warp : w' = { w with stnt := [], frags := w'.frags }

end Sys2Proof.Claims

/-- R223 to R225: STNT leaves its lanes' stores pending, with no byte of memory changed; STNT_PERFORM performs one after every
earlier one to a byte of its own; DRAINNT and FENCE.code perform them all in order, FENCE.code with the warp's stores at
their homes for instruction fetch; a store discarded for poison faults the drain with 0x05 and its address and ends the
latch. FENCE.io and FENCE.eng complete with nothing of theirs pending; FENCE.eng leaves its warp no map load to come, and what
the warp's map stores wrote comes before its later accesses (R59). (Model's readings: logs 1, 69, 83) -/
def Obligations.NonTemporalStores : Prop :=
  (∀ f s w u, ∀ xs : List (Nat × List Piece), let size := 2 ^ (f.minor.toNat % 4)
    Ready (.stnt f) s w → active s w f ≠ 0 →
    accessLanes s (env s w f) (segOf f) size .wr false (lanesAt s w f (active s w f)) = (u, xs.map fun x => (x.1, .ok x.2)) →
    ∃ t w', Ran (.stnt f) s t w w' ∧ StoresKept s t ∧
      w' = { w with stnt := w.stnt ++ xs.map fun x => pendParts x.2 (held w f.dst.toNat size x.1), frags := w'.frags }) ∧
  (∀ core slot idx s w st, s.pkg.powered = true → s.warp core slot = some w → w.stnt[idx]? = some st →
    PendFree s core [st] → (∀ x ∈ w.stnt.take idx, pendOverlap st x = false) →
    ∃ t, exec (.stntPerform core slot idx) s = .next t ∧ t.warp core slot = some { w with stnt := w.stnt.eraseIdx idx } ∧
      ∀ a, t.byte a = (lastAt (pendPlaced [st]) .phys a).getD (s.byte a)) ∧
  (∀ f s w, ∀ i ∈ [.drainnt f, .fenceCode f], Ready i s w → active s w f ≠ 0 → PendFree s s.cur.core w.stnt → w.latch = none →
    ∃ t w', Ran i s t w w' ∧ Drained s t w w' ∧
      (i = .fenceCode f → ∀ x ∈ t.lag, ¬ (x.wtag = w.tag ∧ x.ctxid = w.ctxid))) ∧
  (∀ f s w a, ∀ i ∈ [.drainnt f, .fenceCode f], Ready i s w → active s w f ≠ 0 → w.stnt = [] → w.latch = some a →
    ∃ t x, exec i s = .next t ∧ x.cause = 5 ∧ x.va = a ∧ (t.frag s.cur).st = .stopped ∧ (t.frag s.cur).pc = (frag s w).pc ∧
      (t.core s.cur.core).records = (s.core s.cur.core).records ++ [recordOf s s.cur w (frag s w).pc 0 x] ∧
      (t.warp s.cur.core s.cur.slot).map (fun w => (w.latch, w.r)) = some (none, w.r)) ∧
  (∀ f s w, Ready (.fenceIo f) s w → active s w f ≠ 0 → w.cfgs = [] → w.stnt = [] →
    ∃ t w', Completes (.fenceIo f) s t w w' ∧ w'.r = w.r) ∧
  (∀ f s w, Ready (.fenceEng f) s w → active s w f ≠ 0 → w.maps = [] → w.fbs = [] → (∀ j, j < 8 → (w.frag j).loads = []) →
    ∃ t w', CompletesFrom (.fenceEng f) s (joined s w [.maps w.ctxid w.tag]) t w w' ∧ w'.r = w.r) ∧
  (∀ f s w, Ready (.fenceEng f) s w → active s w f ≠ 0 → w.maps = [] → w.fbs = [] →
    ∃ t w', Issued (.fenceEng f) s t w w' ∧ StoresKept s t ∧ (∀ j, j < 8 → (w'.frag j).loads = []) ∧
      t.past = (joined s w [.maps w.ctxid w.tag]).past)

/-- R181 to R186: LDFE whose granules are all full, and not still being filled by a running command, reads them, and clears their bits under
.clr; STFE stores and sets the bits, or
clears them under .empty, in ascending lane order, ends their granules' orphaned state and leaves the producers; ORPHANED_WAIT_TIMEOUT stops a fragment parked at LDFE whose granule has
been empty without a registered producer for 16 ms, with cause 0x0A. (Model's readings: logs 1, 2) -/
def Obligations.FullEmptyAccesses : Prop :=
  (∀ f s w u xs, let size := 4 * 2 ^ (f.minor.toNat / 2 % 4)
    Ready (.ldfe f) s w → active s w f ≠ 0 →
    Reaches s u w f 1 size .rd false (lanesAt s w f (active s w f)) xs →
    (∀ x ∈ xs, ∀ p ∈ x.2, p.addr / 16 ∈ (s.core s.cur.core).full ∧
      fillRunning s (s.core s.cur.core) (p.addr / 16) = false) →
    ∃ t w', Ran (.ldfe f) s t w w' ∧ w' = { w with r := w'.r, frags := w'.frags } ∧
      w'.r = { w.r with v := w'.r.v } ∧
      (∀ n L, L < 64 → v w' n L = (loaded s u w size f.dst.toNat xs n L).getD (v w n L)) ∧
      (∀ a, t.byte a = s.byte a) ∧ (t.core s.cur.core).scr = (s.core s.cur.core).scr ∧
      ∀ g, g ∈ (t.core s.cur.core).full ↔ g ∈ (s.core s.cur.core).full ∧
        ¬ (f.minor.getLsbD 0 = true ∧ ∃ x ∈ xs, ∃ p ∈ x.2, p.addr / 16 = g)) ∧
  (∀ f s w u xs, let size := 4 * 2 ^ (f.minor.toNat / 2 % 4)
    Ready (.stfe f) s w → active s w f ≠ 0 →
    Reaches s u w f 1 size .wr false (lanesAt s w f (active s w f)) xs →
    ∃ t w', Ran (.stfe f) s t w w' ∧ w' = { w with frags := w'.frags } ∧ (∀ a, t.byte a = s.byte a) ∧
      (∀ a, spGet 0 (t.core s.cur.core).scr a =
        if f.minor.getLsbD 0 then spGet 0 (s.core s.cur.core).scr a
        else (lastAt (xs.flatMap fun x => placed x.2 (held w f.dst.toNat size x.1)) (.scr s.cur.core) a).getD
          (spGet 0 (s.core s.cur.core).scr a)) ∧
      (t.core s.cur.core).prod = (s.core s.cur.core).prod ∧
      (∀ g, g ∈ (t.core s.cur.core).orphan ↔ g ∈ (s.core s.cur.core).orphan ∧ ¬ ∃ x ∈ xs, ∃ p ∈ x.2, p.addr / 16 = g) ∧
      ∀ g, g ∈ (t.core s.cur.core).full ↔
        if ∃ x ∈ xs, ∃ p ∈ x.2, p.addr / 16 = g then f.minor.getLsbD 0 = false else g ∈ (s.core s.cur.core).full) ∧
  ∀ core slot entry s w start gs L g, s.pkg.powered = true → s.warp core slot = some w → (w.frag entry).st = .parked →
    (w.frag entry).wait = some (.fullEmpty start gs) → (L, g) ∈ gs → L < 64 → g ∉ (s.core core).full →
    spGet none (s.core core).prod g = none → start + 16000000 ≤ s.pkg.gtime →
    spGet 0 (s.core core).regEnd g + 16000000 ≤ s.pkg.gtime →
    ∃ t x, exec (.orphanedWaitTimeout core slot entry) s = .next t ∧
      Faulted { s with cur := ⟨core, slot, entry⟩ } { t with cur := ⟨core, slot, entry⟩ } w x ∧ x.cause = 0x0A ∧
      x.lanes.getLsbD L = true

/-! ### Caches, barriers, waits, tasks and streams -/

namespace Sys2Proof.Claims
open Sys2Proof.Machine

/-- The extent of a flush passes its check and lies in the physical ranges `rs`, each with its virtual address, once its pages
are looked up, which leaves the state `u` (R174). Extent 1 is s[opb] bytes, 2 the page, 0 the line of the address. -/
structure Extent (s u : State) (w : Warp) (f : Fields) (extent : Nat) (rs : List (Nat × Nat × Nat)) : Prop where
  some_ : extent = 1 → sr s w f.opb.toNat ≠ 0
  seg : segCheck ((w.r.g[segOf f]?).getD {}) (scalarAt s w f) (if extent = 1 then (sr s w f.opb.toNat).toNat else 1) false = none
  ranges :
    let sp := flushSpan (env s w f) (segOf f) (scalarAt s w f) (if extent = 1 then (sr s w f.opb.toNat).toNat else 1)
    (if extent = 2 then flushPage s (.near s.cur.core) w sp.1
      else flushRanges s (.near s.cur.core) w (splitPages sp.1 sp.2)) = (u, some rs)

/-- The barrier object at a scratchpad address of the issuing core, as a number of 256 bits (R187). -/
abbrev object (s : State) (a : Nat) : Nat := leNat (s.scrBytes s.cur.core a 32)
/-- A barrier instruction names the object at an address: its access passes R189. -/
abbrev Names (s u : State) (w : Warp) (f : Fields) (major : Nat) (acc : Acc) (p : Piece) : Prop :=
  scalarAccess s (env s w f) major 1 (sr s w f.opa.toNat).toNat 32 acc = (u, .ok [p]) ∧ p.space = .scr s.cur.core
/-- The count operand of BINIT, BARV and BEXP (R190). -/
abbrev countOf (s : State) (w : Warp) (f : Fields) : Nat := if f.bimm then f.imm.toNat else (sr s w f.opb.toNat).toNat
/-- An object whose counts became `arr`, `bytes`, `rdr` and `accf` settled (R188): when it is not poisoned, expects at least one
arrival, has them all and awaits no bytes and no readers, its phase completes once; every other field stays. -/
structure Settled (b b' ex arr bytes rdr accf : Nat) : Prop where
  arr_ : barArr b' = if barPz b = false ∧ 1 ≤ ex ∧ ex ≤ arr ∧ bytes = 0 ∧ rdr = 0 then arr - ex else arr
  phase_ : barPhase b' = if barPz b = false ∧ 1 ≤ ex ∧ ex ≤ arr ∧ bytes = 0 ∧ rdr = 0 then (barPhase b + 1) % 2 ^ 32 else barPhase b
  donef_ : barDonef b' = if barPz b = false ∧ 1 ≤ ex ∧ ex ≤ arr ∧ bytes = 0 ∧ rdr = 0 then accf else barDonef b
  accf_ : barAccf b' = if barPz b = false ∧ 1 ≤ ex ∧ ex ≤ arr ∧ bytes = 0 ∧ rdr = 0 then 0 else accf
  rest_ : barExp b' = ex ∧ barBytes b' = bytes ∧ barRdr b' = rdr ∧ barPz b' = barPz b ∧ bits b' 63 48 = bits b 63 48 ∧
    bits b' 199 192 = bits b 199 192 ∧ bits b' 214 212 = bits b 214 212 ∧ bits b' 255 216 = bits b 255 216
/-- One step on the object at an address: memory, the other bytes of the scratchpad and the registers of every other warp are
as before. -/
structure Stepped (s t : State) (a : Nat) : Prop where
  mem : ∀ x, t.byte x = s.byte x
  scr : ∀ x, (x < a ∨ a + 32 ≤ x) → spGet 0 (t.core s.cur.core).scr x = spGet 0 (s.core s.cur.core).scr x
  others : ∀ c k, (c ≠ s.cur.core ∨ k ≠ s.cur.slot) → (t.warp c k).map (fun w => w.r) = (s.warp c k).map (fun w => w.r)

end Sys2Proof.Claims

/-- R171 to R176, R226: PFT always completes and changes no register and no byte. CFLUSH leaves every line of its extent clean, and
under .inv and .cinv with all tokens home, unless a persistent request is active, and no copy; a poisoned line stays as it is. IFLUSH takes exactly the lines of its extent from every instruction
cache. LLOCK takes a free line's lock for its workgroup, LUNLK gives it back, and LNCLAIM writes a whole line and clears its
poison. (Model's readings: logs 27, 31, 40) -/
def Obligations.CacheControl : Prop :=
  (∀ f s w, Ready (.pft f) s w → active s w f ≠ 0 →
    ∃ t w', Ran (.pft f) s t w w' ∧ StoresKept s t ∧ w'.r = w.r) ∧
  (∀ f s w u rs, Ready (.cflush f) s w → active s w f ≠ 0 → Extent s u w f (f.minor.toNat % 64 / 4) rs →
    (∀ r ∈ rs, ∀ ln ∈ knownLines u r.2.1 r.2.2, (u.line ln).dirty = false ∨ isRemote (ln * 128) = true ∨
      ((u.line ln).attr = false ∧ blockOf ln ∉ u.packed ∧ ∀ m ∈ u.merges, m.block ≠ blockOf ln)) →
    ∃ t w', Ran (.cflush f) s t w w' ∧ StoresKept s t ∧ w'.r = w.r ∧
      ∀ r ∈ rs, ∀ ln ∈ knownLines u r.2.1 r.2.2, (ln ∈ u.poison → t.line ln = u.line ln) ∧
        (ln ∉ u.poison → (t.line ln).dirty = false ∧
          (f.minor.toNat % 4 ≠ 1 → (t.line ln).proxy0 = none ∧ (t.line ln).proxy1 = none ∧ ∀ tw, tw < 2 →
            ((t.line ln).bank tw).near = [] ∧ (activeReq u tw ln = none → ((t.line ln).bank tw).home = 128)))) ∧
  (∀ f s w u rs, Ready (.iflush f) s w → active s w f ≠ 0 → Extent s u w f 1 rs →
    ∃ t w', Ran (.iflush f) s t w w' ∧ StoresKept s t ∧ w'.r = w.r ∧
      ∀ c x, x ∈ (t.core c).icache ↔ x ∈ (s.core c).icache ∧
        ∀ r ∈ rs, meets r.2.1 r.2.2 x.pa 64 = false ∧ (x.ctxid = w.ctxid → meets r.1 r.2.2 x.va 64 = false)) ∧
  (∀ f s w u p, Ready (.llock f) s w → active s w f ≠ 0 →
    laneAccess s (env s w f) (segOf f) (scalarAt s w f) 0 1 .rd false = (u, .ok [p]) → isRemote p.addr = false →
    lockOwner s (lineOf p.addr) = none → (∀ x ∈ s.lockWait, sliceOf (x.key * 128) ≠ sliceOf (lineOf p.addr * 128)) →
    slLocks s (sliceOf (lineOf p.addr * 128)) < 32 →
    ∃ t w', Ran (.llock f) s t w w' ∧ StoresKept s t ∧ w'.r = w.r ∧ t.locks = s.locks ++ [(lineOf p.addr, w.wg)]) ∧
  (∀ f s w u p, Ready (.lunlk f) s w → active s w f ≠ 0 →
    laneAccess s (env s w f) (segOf f) (scalarAt s w f) 0 1 .rd false = (u, .ok [p]) → isRemote p.addr = false →
    (∀ x ∈ s.lockWait, sliceOf (x.key * 128) ≠ sliceOf (lineOf p.addr * 128)) →
    ∃ t w', Ran (.lunlk f) s t w w' ∧ StoresKept s t ∧ w'.r = w.r ∧
      t.locks = if lockOwner s (lineOf p.addr) = some w.wg then s.locks.filter fun x => x.1 != lineOf p.addr else s.locks) ∧
  ∀ f s w u ps, let data := (List.replicate 16 (leBytes 8 (sr s w f.opb.toNat).toNat)).flatten
    Ready (.lnclaim f) s w → active s w f ≠ 0 → w.stnt = [] → scalarAt s w f % 128 = 0 →
    laneAccess s (env s w f) (segOf f) (scalarAt s w f) 0 128 .wr false = (u, .ok ps) →
    (∀ p ∈ ps, p.held u (.near s.cur.core) true = false) →
    ∃ t w', Ran (.lnclaim f) s t w w' ∧ Stored s t w w' [(0, ps)] (fun _ => data) ∧ w'.r = w.r ∧
      ∀ ln, ln ∈ t.poison ↔ ln ∈ s.poison ∧ ∀ p ∈ ps, ln ∉ linesOf p.addr p.len

/-- R187 to R190: the barrier instructions. BINIT sets an object with its expected count; BARV counts arrivals, gathers the
warp's flags and gives the phase it arrived in; BEXP counts bytes or readers; BDROP takes one expected arrival away, or
poisons the object with the last; each step settles. BWAIT past its phase gives the completed phase's flags, and BTEST
tells whether the phase is past, poisoned or current. (Model's readings: logs 1, 76) -/
def Obligations.Barriers : Prop :=
  (∀ f s w u p, Ready (.binit f) s w → active s w f ≠ 0 → Names s u w f 0xB0 .wr p → 1 ≤ countOf s w f → countOf s w f ≤ 65535 →
    ∃ t w', Issued (.binit f) s t w w' ∧ Stepped s t p.addr ∧ w'.r = w.r ∧ object t p.addr = countOf s w f * 2 ^ 32 ∧
      ∀ o, o ∈ w'.part ↔ o ∈ w.part ∧ o ≠ (sr s w f.opa.toNat).toNat) ∧
  (∀ f s w u p, let b := object s p.addr
    Ready (.barv f) s w → active s w f ≠ 0 → Names s u w f 0xB1 .wr p → 1 ≤ countOf s w f → countOf s w f ≤ 65535 →
    ((sr s w f.opa.toNat).toNat ∈ w.part ∨ w.part.length < 8) → barPz b = false → ShadowsFit s w [f.dst.toNat] →
    ∃ t w', Issued (.barv f) s t w w' ∧ Stepped s t p.addr ∧ OnlyS s w w' f.dst.toNat (BitVec.ofNat 64 (barPhase b)) 0 ∧
      Settled b (object t p.addr) (barExp b) ((barArr b + countOf s w f) % 2 ^ 32) (barBytes b) (barRdr b)
        (barAccf b ||| w.r.flags.toNat % 64) ∧
      ∀ o, o ∈ w'.part ↔ o ∈ w.part ∨ o = (sr s w f.opa.toNat).toNat) ∧
  (∀ f s w u p, let b := object s p.addr
    Ready (.bexp f) s w → active s w f ≠ 0 → Names s u w f 0xB2 .wr p → barPz b = false →
    (f.minor = 1 → countOf s w f < 2 ^ 31) →
    ∃ t w', Issued (.bexp f) s t w w' ∧ Stepped s t p.addr ∧ w'.r = w.r ∧
      if f.minor = 1 then
        Settled b (object t p.addr) (barExp b) (barArr b) (barBytes b) ((barRdr b + countOf s w f) % 2 ^ 32) (barAccf b)
      else Settled b (object t p.addr) (barExp b) (barArr b) ((barBytes b + countOf s w f) % 2 ^ 64) (barRdr b) (barAccf b)) ∧
  (∀ f s w u p, let b := object s p.addr
    Ready (.bdrop f) s w → active s w f ≠ 0 → Names s u w f 0xB5 .wr p →
    ∃ t w', Issued (.bdrop f) s t w w' ∧ Stepped s t p.addr ∧ w'.r = w.r ∧
      (barPz b = true → object t p.addr = b) ∧
      (barPz b = false → barExp b ≤ 1 → barPz (object t p.addr) = true ∧ barExp (object t p.addr) = 0 ∧
        barPhase (object t p.addr) = barPhase b) ∧
      (barPz b = false → 2 ≤ barExp b →
        Settled b (object t p.addr) (barExp b - 1) (barArr b) (barBytes b) (barRdr b) (barAccf b)) ∧
      ∀ o, o ∈ w'.part ↔ o ∈ w.part ∧ o ≠ (sr s w f.opa.toNat).toNat) ∧
  (∀ f s w u p, Ready (.bwait f) s w → active s w f ≠ 0 → Names s u w f 0xB3 .rd p → ShadowsFit s w [f.dst.toNat] →
    barPhase (object s p.addr) ≠ (sr s w f.opb.toNat).toNat % 2 ^ 32 →
    ∃ t w', Ran (.bwait f) s t w w' ∧ StoresKept s t ∧ w' = { w with r := w'.r, frags := w'.frags } ∧
      OnlyS s w w' f.dst.toNat (BitVec.ofNat 64 (barDonef (object s p.addr))) 0) ∧
  ∀ f s w u p, Ready (.btest f) s w → active s w f ≠ 0 → Names s u w f 0xB4 .rd p → ShadowsFit s w [f.dst.toNat] →
    ∃ t w', Ran (.btest f) s t w w' ∧ StoresKept s t ∧ w' = { w with r := w'.r, frags := w'.frags } ∧
      OnlyS s w w' f.dst.toNat
      (if barPhase (object s p.addr) ≠ (sr s w f.opb.toNat).toNat % 2 ^ 32 then 1
       else if barPz (object s p.addr) then 2 else 0) 0

/-- R202, R252, R357, R371: SEQW whose sequence number has no command outstanding gives the warp's engine error and clears it;
GRPSYNC whose arrival is the last completes the phase, at the latest logical time of its arrivals, which the warp's tower then has
reached (R162); ITER gives the next piece of the workgroup's share, or the end mark;
WAITC completes with an empty Active, or once its counters are within its limit. (Model's readings: log 2) -/
def Obligations.WaitsComplete : Prop :=
  (∀ f s w, Ready (.seqw f) s w → active s w f ≠ 0 → ShadowsFit s w [f.dst.toNat] →
    (∀ c ∈ (s.comb (s.cur.core / 8)).chain, ¬ (c.ctxid = w.ctxid ∧ c.wtag = w.tag ∧ c.seq.setWidth 64 = sr s w f.opa.toNat)) →
    ∃ t w', Ran (.seqw f) s t w w' ∧ StoresKept s t ∧
      w' = { w with r := w'.r, stg := { w.stg with err := none }, frags := w'.frags } ∧
      t.past = (joined s w [.command (s.cur.core / 8 * 2 ^ 32 + (sr s w f.opa.toNat).toNat)]).past ∧
      OnlyS s w w' f.dst.toNat (match w.stg.err with
        | some (cause, seq) => (seq ++ BitVec.ofNat 32 cause : BitVec 64)
        | none => 0) 0) ∧
  (∀ f s w x, Ready (.grpsync f) s w → active s w f ≠ 0 → groupOf s w (f.imm.toNat % 256) = some x → x.pz = false →
    (∀ a ∈ w.grp, ¬ (a.1 = f.imm.toNat % 256 ∧ a.2 = x.phase.toNat)) → x.exp ≤ x.arr + 1 →
    let time := max x.time (max x.gather (s.tower (s.cur.core / 128)).pts)
    ∃ t w', Ran (.grpsync f) s t w w' ∧ StoresKept s t ∧ w'.r = w.r ∧
      groupOf t w' (f.imm.toNat % 256) = some { x with arr := 0, phase := x.phase + 1, gather := 0, time := time } ∧
      (s.cur.core / 128 < s.towers.length → (t.tower (s.cur.core / 128)).pts = time)) ∧
  (∀ f s w i, Ready (.iter f) s w → active s w f ≠ 0 → ShadowsFit s w [f.dst.toNat, f.dst.toNat + 1] →
    (s.wgroup w.wg).map (fun g => g.kind) = some (.grid i) → (launchOf s w).kk ≠ 0 →
    let kk := (launchOf s w).kk
    let c := w.r.iter
    let hi := (i + 1) * ((launchOf s w).tiles * kk) / (launchOf s w).grid
    let n := min hi ((c / kk + 1) * kk)
    let head := c % kk = 0
    let last := n = (c / kk + 1) * kk
    ∃ t w', Completes (.iter f) s t w w' ∧ w'.r = { w.r with s := w'.r.s, iter := if hi ≤ c then c else n } ∧
      (∀ m, m ≠ f.dst.toNat → m ≠ f.dst.toNat + 1 → sr s w' m = sr s w m) ∧
      sr s w' f.dst.toNat = (if hi ≤ c then 0 else BitVec.ofNat 64 ((n - c) * 2 ^ 32 + c % kk)) ∧
      sr s w' (f.dst.toNat + 1) = if hi ≤ c then 0x8000000000000000 else
        BitVec.ofNat 64 ((if head then 2 ^ 62 else 0) + (if last then 2 ^ 61 else 0) + (if head ∧ last then 0 else 2 ^ 60) + c / kk)) ∧
  (∀ f s w, Ready (.waitc f) s w → (active s w f = 0 ∨ (f.minor = 1 ∧ w.trv.length ≤ f.imm.toNat)) →
    ∃ t w', Completes (.waitc f) s t w w' ∧ w'.r = w.r) ∧
  ∀ f s w, Ready (.waitc f) s w → active s w f ≠ 0 → f.minor ≠ 1 → w.m.queue.length ≤ f.imm.toNat →
    (f.minor ≠ 0 → w.trv.length ≤ f.imm.toNat) →
    ∃ t w', CompletesFrom (.waitc f) s (joined s w [.matrix w.ctxid w.tag]) t w w' ∧ w'.r = w.r

/-- R372, R373, R376 to R378, R380 to R382: SPAWN puts its task in its context's pool with the next serial number; WATCH adds its
watch under the lowest free handle; UNWATCH ends one; RQPUSH appends the records of the lowest lanes of Active for which the
queue has room and moves its tail, and none to a queue that its slice's full watch table cannot bind. What the warp has on its way
when it spawns is performed first (R374), which waits for no one while no non-temporal store is pending. (Model's readings:
log 36) (Model's readings: log 36) -/
def Obligations.Tasks : Prop :=
  (∀ f s w u ps k z, Ready (.spawn f) s w → active s w f ≠ 0 → ShadowsFit s w [f.dst.toNat] →
    scalarAccess s (env s w f) 0xB8 (segOf f) (scalarAt s w f) 64 .rd = (u, .ok ps) →
    (∀ p ∈ ps, p.held u (.near s.cur.core) false = false) →
    taskRec (readBytes s (touched s u [(0, ps)]) w ps) = some k → (launchOf s w).fitsEmpty k.nw = true → w.cslot < s.ctxs.length →
    (s.ctx w.cslot).tasks.length < 4096 →
    settleWarp (touched s u [(0, ps)]) s.cur.core s.cur.slot true = some z →
    ∃ t w' wz, RanFrom (.spawn f) s z t w wz w' ∧ StoresKept z t ∧
      OnlyS z wz w' f.dst.toNat (BitVec.ofNat 64 ((z.ctx w.cslot).serial + 1)) 0 ∧
      (t.ctx w.cslot).serial = (z.ctx w.cslot).serial + 1 ∧
      (t.ctx w.cslot).tasks = (z.ctx w.cslot).tasks ++
        [⟨(z.ctx w.cslot).serial + 1, w.cslot, w.launch, k, w.r.g, z.seq, (z.tower (s.cur.core / 128)).pts⟩]) ∧
  (∀ s w c k, s.warp c k = some w → w.stnt = [] → ∃ z, settleWarp s c k true = some z) ∧
  (∀ f s w u u' ps k key attr cl lv h, Ready (.watch f) s w → active s w f ≠ 0 → ShadowsFit s w [f.dst.toNat] →
    scalarAccess s (env s w f) 0xB9 (segOf f) (scalarAt s w f) 96 .rd = (u, .ok ps) →
    (∀ p ∈ ps, p.held u (.near s.cur.core) false = false) →
    let bs := readBytes s (touched s u [(0, ps)]) w ps
    let va := wordAt bs 0
    let len := bits (wordAt bs 1) 12 0
    va % 4 = 0 → len % 4 = 0 → 4 ≤ len → len ≤ 4096 → bits (wordAt bs 1) 15 13 = 0 → bits (wordAt bs 1) 18 16 ≤ 4 →
    bits (wordAt bs 1) 63 19 = 0 → wordAt bs 3 = 0 → taskRec (bs.drop 32) = some k → va / 65536 = (va + len - 1) / 65536 →
    translate (touched s u [(0, ps)]) (.near s.cur.core) w.cslot w.ctxid 400 va .rd false = (u', .ok key attr cl lv) → isRemote key = false →
    (∀ ln ∈ linesOf key len, sliceEntries s (sliceOf (ln * 128)) < 64) → freeHandle s w.cslot = some h →
    ∃ t w', Ran (.watch f) s t w w' ∧ StoresKept s t ∧ OnlyS s w w' f.dst.toNat (BitVec.ofNat 64 h) 0 ∧
      t.watches = s.watches ++ [⟨h, w.cslot, w.launch, key, key + len, bits (wordAt bs 1) 18 16,
        BitVec.ofNat 32 (bits (wordAt bs 2) 31 0), BitVec.ofNat 32 (bits (wordAt bs 2) 63 32), f.minor.toNat % 64 == 1, k,
        w.r.g, true, 0⟩]) ∧
  (∀ f s w, Ready (.unwatch f) s w → active s w f ≠ 0 → (sr s w f.opa.toNat).toNat < 256 →
    ∃ t w', Ran (.unwatch f) s t w w' ∧ StoresKept s t ∧ w'.r = w.r ∧
      ∀ x, x ∈ t.watches ↔ x ∈ s.watches ∧ ¬ (x.cslot = w.cslot ∧ x.handle = (sr s w f.opa.toNat).toNat ∧ x.live = true)) ∧
  (∀ f s w u hp, Ready (.rqpush f) s w → active s w f ≠ 0 → ShadowsFit s w [f.dst.toNat] → w.stnt = [] →
    let q := (sr s w f.opb.toNat).toNat
    scalarAccess s (env s w f) 0xBC 5 q 64 .wr = (u, .ok hp) →
    let h := queueHdr (leNat (homeBytes u w hp))
    h.malformed (launchOf s w) = false → (∀ p ∈ hp, p.held u (.near s.cur.core) true = false) →
    bindQueue u w.cslot w.launch ((hp.head?.map fun p => p.addr).getD 0) (sr s w f.opb.toNat) h = none →
    ∃ t w', Ran (.rqpush f) s t w w' ∧ StoresKept s t ∧ OnlyS s w w' f.dst.toNat 0 0) ∧
  ∀ f s w u u' u'' hp xs, Ready (.rqpush f) s w → active s w f ≠ 0 → ShadowsFit s w [f.dst.toNat] → w.stnt = [] →
    let q := (sr s w f.opb.toNat).toNat
    scalarAccess s (env s w f) 0xBC 5 q 64 .wr = (u, .ok hp) →
    let h := queueHdr (leNat (homeBytes u w hp))
    h.malformed (launchOf s w) = false →
    let take := ((lanesOf (active s w f)).zip (List.range 64)).filter fun x => x.2 < h.room
    Reaches u u' w f 5 16 .wr false (take.map fun x => (x.1, q + 64 + 16 * ((h.tail + x.2) % 2 ^ 32 % h.cap))) xs →
    (∀ p ∈ hp, p.held u' (.near s.cur.core) true = false) →
    bindQueue u' w.cslot w.launch ((hp.head?.map fun p => p.addr).getD 0) (sr s w f.opb.toNat) h = some u'' →
    let tail := if xs = [] then [] else placed (hp.map fun p => { p with addr := p.addr + 8, len := 4 }) (leBytes 4 (h.tail + xs.length))
    ∃ t w', Ran (.rqpush f) s t w w' ∧ OnlyS s w w' f.dst.toNat (BitVec.ofNat 64 take.length) 0 ∧
      ∀ a, t.byte a = (lastAt ((xs.flatMap fun x => placed x.2 (held w f.opa.toNat 16 x.1)) ++ tail) .phys a).getD (s.byte a)

/-! ### Bit streams and the matrix unit -/

namespace Sys2Proof.Claims
open Sys2Proof.Machine

/-- A segment register of a warp. -/
abbrev seg (w : Warp) (n : Nat) : Seg := (w.r.g[n]?).getD {}
/-- Bit `i` of a core's scratchpad, counted from bit 0 of byte 0. -/
abbrev scrBit (s : State) (i : Nat) : Bool := (spGet 0 (s.core s.cur.core).scr (i / 8)).getLsbD (i % 8)
/-- The width of DECW and PACKW (R102). -/
abbrev widthOf (s : State) (w : Warp) (f : Fields) : Nat := if f.bimm then f.imm.toNat else (sr s w f.opb.toNat).toNat
/-- The bits of the scratchpad at which g1 starts. -/
abbrev scrBase (w : Warp) : Nat := 8 * (seg w 1).base.toNat
/-- The bytes of the bits p to p + n − 1 pass R77 as one access to g1 (R101). -/
abbrev StreamOk (w : Warp) (p n : Nat) (store : Bool) : Prop :=
  n = 0 ∨ (segCheck (seg w 1) (p / 8) ((p + n + 7) / 8 - p / 8) store = none ∧
    (seg w 1).base.toNat + (p + n + 7) / 8 ≤ 2 ^ 23)

/-- Scalar operands of a matrix operation, `n` registers from each listed one (R292). -/
abbrev scalarsFrom (s : State) (w : Warp) (n : Nat) (regs : List (BitVec 8)) : List W64 :=
  regs.flatMap fun r => (List.range n).map fun i => sr s w (r.toNat + i)
/-- What the warp has stored before is performed, which leaves the state `u` and the warp `wu` (R293). The operation stands last in
its warp's queue with its PC, Active, scalar operands and vector words as they were at issue (R292); nothing else changes. -/
structure Queued (i : Instr) (s u t : State) (w wu w' : Warp) (m : Mask) (args : List W64) (words : List ((Nat × Nat) × W32)) :
    Prop extends RanFrom i s u t w wu w' where
  kept : StoresKept u t
  queue : w' = { wu with m := { wu.m with queue := w.m.queue ++ [⟨i, (frag s w).pc, m, args, words, u.seq,
    (u.tower (s.cur.core / 128)).clock, 0, false, 0⟩] }, frags := w'.frags }
/-- The queue has room (R252), and the barrier that the operation names passes its check (R299). -/
abbrev MayQueue (w : Warp) (f : Fields) : Prop :=
  w.m.queue.length < 255 ∧
    (f.minor.getLsbD 3 = true → segCheck (seg w 1) (f.imm.toNat % 2 ^ 23) 32 true = none)
/-- A matrix operation leaves its queue (R292): the next one is the head, and the unit is free of it. -/
structure Popped (s t : State) (core slot : Nat) (w w' : Warp) : Prop where
  warp : t.warp core slot = some w'
  queue : w'.m.queue.map (fun o => (o.instr, o.seq)) = (w.m.queue.drop 1).map fun o => (o.instr, o.seq)
  fresh : w'.m.run = none ∧ w'.m.rowp = 0 ∧ (t.core core).unit ≠ some slot

/-- The unit of a core is to make the action `a` of the operation that heads the queue of the warp in a slot; `rest` is what is
left after it (R293, R317). No code word of the core is in error (R238). -/
structure AtUnit (s : State) (core slot : Nat) (w : Warp) (o : MatOp) (r : MatRun) (a : MatAct) (rest : List MatAct) :
    Prop where
  on : s.pkg.powered = true ∧ s.running core = true
  unit : (s.core core).unit = some slot
  head : (matHeads s core).find? (fun h => h.slot == slot) = some ⟨slot, w, o, some r⟩
  next : r.acts = a :: rest
  codes : (s.core core).bad = [] ∧ (s.core core).weak = []
  rows : ∀ i ∈ rowsLeft w o, i < 64
  dst : o.dst < w.m.regs.length
/-- A register's cells are its own, and enough for its form (R287, R289). -/
structure CellsOf (k : Core) (m : MReg) : Prop where
  nodup : m.cells.Nodup
  used : ∀ c ∈ m.cells, c ∈ k.used
  rank : m.dense = false → m.rank ≤ m.res
  full : m.dense = true → 32 ≤ m.res
/-- A byte of the cells outside the listed words. -/
abbrev outside (ws : List CellWord) (a : Nat) : Prop := ∀ x ∈ ws, a < x.1 * 512 + 4 * x.2 ∨ x.1 * 512 + 4 * x.2 + 4 ≤ a
/-- The words of a list of FP32 values. -/
abbrev words (xs : List Nat) : List Nat := xs.map (· % 2 ^ 32)
/-- A warp whose register `d` has become `m`, with the progress `run` of its head. -/
abbrev withReg (w : Warp) (d : Nat) (m : MReg) (run : MatRun) : Warp :=
  { w with m := { w.m with regs := modAt (fun _ => m) d w.m.regs, run := some run } }
/-- The progress of an operation whose part that is not made row by row is done. -/
abbrev wholeDone (r : MatRun) (rest : List MatAct) (fl : Nat) : MatRun :=
  { r with acts := rest, row := some 64, flags := r.flags ||| fl }
/-- Memory and the scratchpad of the core are as before. -/
abbrev StaysPut (s t : State) (core : Nat) : Prop :=
  (∀ a, t.byte a = s.byte a) ∧ (t.core core).scr = (s.core core).scr ∧ (t.core core).full = (s.core core).full
/-- Register `d` has become the dense register `m`, whose row `i` holds `x i`; every other word of the cells is as before. -/
structure DenseRows (s t : State) (core slot : Nat) (w : Warp) (d : Nat) (m : MReg) (x : Nat → List Nat) (run : MatRun) :
    Prop where
  warp : t.warp core slot = some (withReg w d m run)
  rows : ∀ i, i < 64 → (t.core core).cellWords (m.rowWords i) = words (x i)
  cells : ∀ a, outside ((List.range 64).flatMap m.rowWords) a →
    spGet 0 (t.core core).cells a = spGet 0 (s.core core).cells a
  used : ∀ c, c ∈ (t.core core).used ↔ c ∈ (s.core core).used ∨ c ∈ m.cells
  kept : StaysPut s t core
/-- Register `d` has become the factored register `m` with the U rows `u` and the V rows `v`; every other word of the cells is
as before. -/
structure FactorRows (s t : State) (core slot : Nat) (w : Warp) (d : Nat) (m : MReg) (u v : Nat → List Nat) (run : MatRun) :
    Prop where
  warp : t.warp core slot = some (withReg w d m run)
  us : ∀ i, i < 64 → (t.core core).cellWords (m.uWords i) = words (u i)
  vs : ∀ j, j < m.rank → (t.core core).cellWords (m.vWords j) = words (v j)
  cells : ∀ a, outside ((List.range 64).flatMap m.uWords ++ m.vAll) a →
    spGet 0 (t.core core).cells a = spGet 0 (s.core core).cells a
  used : (t.core core).used = (s.core core).used
  kept : StaysPut s t core
/-- The dense form of a register (R302): the cells that it lacks are taken from the pool. -/
abbrev densed (k : Core) (m : MReg) : MReg :=
  if m.dense then m else { dense := true, rank := 0, cells := m.cells ++ freeCells k (32 - m.res) }
/-- May a register become dense (R302)? -/
abbrev MayDensify (k : Core) (m : MReg) (auto : Bool) : Prop :=
  m.dense = true ∨ 32 ≤ m.res ∨ (auto = true ∧ (freeCells k (32 - m.res)).length = 32 - m.res)
/-- Value of a row of a register, and the flags of forming all rows (R288, R302). -/
abbrev value (k : Core) (m : MReg) (i : Nat) : List Nat := words (valueRow k m i).1
abbrev valueFlags (k : Core) (m : MReg) : Nat :=
  if m.dense then 0 else orFlags ((List.range 64).map fun i => (valueRow k m i).2)
/-- Does the rank rule of R302 let `n` terms be appended? -/
abbrev Fits (m : MReg) (n : Nat) : Prop := m.dense = false ∧ m.rank + n ≤ min m.res 32
/-- MADDM and MMULF with the terms of U rows `u` and V rows `vs`, and the flags `fl` of forming them: appended where the rank
rule lets them, with +0 in the U rows outside the row set, else a dense update of the row set (R302, R307). -/
structure TermsAdded (s : State) (core slot : Nat) (w : Warp) (o : MatOp) (r : MatRun) (rest : List MatAct)
    (u : Nat → List Nat) (vs : List (List Nat)) (fl : Nat) (t : State) : Prop where
  append : Fits (w.mreg o.dst) vs.length →
    FactorRows s t core slot w o.dst { w.mreg o.dst with rank := (w.mreg o.dst).rank + vs.length }
      (fun i => uRow (s.core core) (w.mreg o.dst) i ++ if i ∈ rowsLeft w o then u i else List.replicate vs.length 0)
      (fun j => if j < (w.mreg o.dst).rank then (s.core core).cellWords ((w.mreg o.dst).vWords j)
        else (vs[j - (w.mreg o.dst).rank]?).getD [])
      (wholeDone r rest fl)
  dense : ¬ Fits (w.mreg o.dst) vs.length →
    let x := fun i => dotRow (value (s.core core) (w.mreg o.dst) i) (u i) (columns 64 vs)
    DenseRows s t core slot w o.dst (densed (s.core core) (w.mreg o.dst))
      (fun i => if i ∈ rowsLeft w o then (x i).1 else value (s.core core) (w.mreg o.dst) i)
      (wholeDone r rest (fl ||| valueFlags (s.core core) (w.mreg o.dst) ||| orFlags ((rowsLeft w o).map fun i => (x i).2)))
/-- Where the terms may go. -/
abbrev MayAdd (s : State) (core : Nat) (w : Warp) (o : MatOp) (n : Nat) : Prop :=
  Fits (w.mreg o.dst) n ∨ (((w.mreg o.dst).dense = true ∨ o.auto = true) ∧
    MayDensify (s.core core) (w.mreg o.dst) o.auto)
/-- One row of an operation has been stored from `data` by MST (R304): to the scratchpad through g1, whose granules become full,
or to memory. -/
structure RowStored (s t : State) (core : Nat) (w : Warp) (o : MatOp) (scr : Bool) (addr : Nat) (data : List Byte) : Prop where
  scratch : scr = true → (∀ a, t.byte a = s.byte a) ∧
    (∀ a, spGet 0 (t.core core).scr a =
      if (seg w 1).base.toNat + addr ≤ a ∧ a < (seg w 1).base.toNat + addr + data.length then
        (data[a - ((seg w 1).base.toNat + addr)]?).getD 0 else spGet 0 (s.core core).scr a) ∧
    ∀ g, g ∈ (t.core core).full ↔ g ∈ (s.core core).full ∨ g ∈ granulesOf ((seg w 1).base.toNat + addr) data.length
  memory : scr = false → (t.core core).scr = (s.core core).scr ∧ (t.core core).full = (s.core core).full ∧
    ∀ u ps, devResolve s (matCtx core w) .wr addr data.length = (u, .ok ps) →
      ∀ a, t.byte a = (lastAt (placed ps data) .phys a).getD (s.byte a)
/-- The row passes its checks (R77, R296, R304). -/
abbrev RowPasses (s : State) (core : Nat) (w : Warp) (o : MatOp) (scr : Bool) (addr n : Nat) : Prop :=
  addr % o.es = 0 ∧
    if scr = true then segCheck (seg w 1) addr n true = none ∧ (seg w 1).base.toNat + addr + n ≤ 2 ^ 23
    else ∃ u ps, devResolve s (matCtx core w) .wr addr n = (u, .ok ps)
end Sys2Proof.Claims

/-- R101 to R105: DECW gives the lanes of Active in ascending order the elements that its mode decodes at the cursor s[opa], and
moves the cursor past what it used; in mode .fix each is `width` bits of the stream, extended by the type's signedness.
PACKW stores `width` bits of each lane at the cursor s[dst], clamped under .sat, and moves the cursor; every bit outside the
range stays. (Model's readings: log 32) -/
def Obligations.BitStreams : Prop :=
  (∀ f s w, Ready (.decw f) s w → active s w f ≠ 0 →
    let p := (sr s w f.opa.toNat).toNat
    let el := if w64 f then 64 else 32
    let mode := f.minor.toNat % 64
    let n := (lanesOf (active s w f)).length
    let wd := if mode = 3 then 8 else widthOf s w f
    let start := (seg w 1).base.toNat + p / 8
    let d := decodeStream mode el wd (sgn f)
      (streamBits (leNat (s.scrBytes s.cur.core start ((n * 88 + 16) / 8 + 2))) p) p n
      (if mode = 1 ∨ mode = 2 then sr s w f.opc.toNat else 0)
    p < 2 ^ 26 → 1 ≤ wd → wd ≤ el → (mode = 3 → p % 8 = 0) → StreamOk w p d.used false →
    ShadowsFit s w (f.opa.toNat :: (if d.state.isSome then [f.opc.toNat] else [])) →
    ∃ t w', CompletesFrom (.decw f) s (ordered s w) t w w' ∧ w'.r = { w.r with v := w'.r.v, s := w'.r.s } ∧
      (∀ m, m ≠ f.opa.toNat → m ≠ f.opc.toNat → sr s w' m = sr s w m) ∧
      (d.state = none → f.opa ≠ f.opc → sr s w' f.opc.toNat = sr s w f.opc.toNat) ∧
      (d.state = none ∨ f.opa ≠ f.opc → sr s w' f.opa.toNat = BitVec.ofNat 64 (p + d.used)) ∧
      (∀ x, d.state = some x → f.opa ≠ f.opc → sr s w' f.opc.toNat = x) ∧ (mode = 0 → d.used = n * wd) ∧
      ∀ m L, L < 64 → v w' m L =
        match (lanesOf (active s w f)).findIdx? fun j => j == L with
        | none => v w m L
        | some k =>
          let x : W64 := if mode = 0 then
              let y : BitVec wd := BitVec.ofNat wd ((List.range wd).foldl (fun z j =>
                if scrBit s (scrBase w + p + k * wd + j) then z + 2 ^ j else z) 0)
              if sgn f then y.signExtend 64 else y.setWidth 64
            else BitVec.ofNat 64 ((d.elems[k]?).getD 0)
          if m = f.dst.toNat then x.setWidth 32
          else if w64 f = true ∧ m = f.dst.toNat + 1 then (x >>> 32).setWidth 32 else v w m L) ∧
  ∀ f s w, Ready (.packw f) s w → active s w f ≠ 0 →
    let p := (sr s w f.dst.toNat).toNat
    let el := if w64 f then 64 else 32
    let wd := widthOf s w f
    let ls := lanesOf (active s w f)
    let field := fun (L : Nat) => (if f.qual.getLsbD 0 then
        (if w64 f then clamp (sgn f) wd (num (sgn f) (vA s w f true L))
         else clamp (sgn f) wd (num (sgn f) ((vA s w f false L).setWidth 32)))
      else (vA s w f (w64 f) L).setWidth wd : BitVec wd)
    p < 2 ^ 26 → 1 ≤ wd → wd ≤ el → StreamOk w p (ls.length * wd) true → ShadowsFit s w [f.dst.toNat] →
    ∃ t w', Ran (.packw f) s t w w' ∧ w' = { w with r := w'.r, frags := w'.frags } ∧
      OnlyS s w w' f.dst.toNat (BitVec.ofNat 64 (p + ls.length * wd)) 0 ∧ (∀ a, t.byte a = s.byte a) ∧
      ∀ i, scrBit { t with cur := s.cur } i =
        if scrBase w + p ≤ i ∧ i < scrBase w + p + ls.length * wd then
          (field ((ls[(i - (scrBase w + p)) / wd]?).getD 0)).getLsbD ((i - (scrBase w + p)) % wd)
        else scrBit s i

/-- R252, R291, R292, R295, R299 to R309, R313: every counted matrix instruction with a non-empty Active enters its warp's queue
behind the earlier ones, with its scalar operands and MMOVM's vector words read at issue, once what the warp has stored before
is performed, which waits for no one while no non-temporal store is pending; MLD.f and MRCMP do so when every lane is Active.
(Model's readings: log 41) -/
def Obligations.MatrixIssue : Prop :=
  (∀ p ∈ ([(.mfree, fun _ _ _ => []), (.mzero, fun _ _ _ => []), (.mldD, fun s w f => scalarsFrom s w 2 [f.opa]),
      (.mldF, fun s w f => scalarsFrom s w 2 [f.opa, f.opb]), (.mstD, fun s w f => scalarsFrom s w 2 [f.opa]),
      (.mstF, fun s w f => scalarsFrom s w 2 [f.opa, f.opb]),
      (.mma, fun s w f => scalarsFrom s w (if 11 ≤ f.typ.toNat ∧ f.typ.toNat ≤ 13 then 4 else 2) [f.opa, f.opb]),
      (.maddf, fun s w f => scalarsFrom s w 2 [f.opa, f.opb]), (.maddm, fun _ _ _ => []), (.mmulf, fun _ _ _ => []),
      (.mrcmp, fun _ _ _ => []), (.mdns, fun _ _ _ => []),
      (.mscl, fun s w f => if f.bimm then [] else [sr s w f.opb.toNat])] :
        List ((Fields → Instr) × (State → Warp → Fields → List W64))),
    ∀ f s w u, Ready (p.1 f) s w → active s w f ≠ 0 → MayQueue w f →
      (p.1 f = .mldF f ∨ p.1 f = .mrcmp f → active s w f = fullMask w.width) →
      settleStores s s.cur.core s.cur.slot = some u →
      ∃ t wu w', Queued (p.1 f) s u t w wu w' (active s w f) (p.2 s w f) []) ∧
  (∀ s w c k, s.warp c k = some w → w.stnt = [] → ∃ u, settleStores s c k = some u) ∧
  ∀ f s w u, Ready (.mmovm f) s w → active s w f ≠ 0 → MayQueue w f → settleStores s s.cur.core s.cur.slot = some u →
    f.opa.toNat + 8 * (64 / w.width) ≤ 256 → f.opa.toNat + 8 * (64 / w.width) ≤ 64 + 32 * w.r.xgrant →
    ∃ t wu w', Queued (.mmovm f) s u t w wu w' (active s w f) [] ((lanesOf (active s w f)).flatMap fun L =>
      (List.range (8 * (64 / w.width))).map fun q => ((L, q), v w (f.opa.toNat + q) L))

/-- R295, R300, R309 to R311: the matrix instructions that act at issue once the queue is empty. MRSV takes the cells it lacks,
MRANK tells a register's cells and form, MRANK.err gives and clears the error latch, MMOVV reads eight columns of a dense
tile, and MROWP and MROWP.set read and write the held row pointer of a stopped warp. (Model's readings: log 41) -/
def Obligations.MatrixDirect : Prop :=
  (∀ f s w, Ready (.mrsv f) s w → active s w f ≠ 0 → w.m.queue = [] → (s.core s.cur.core).mrsv = [] →
    f.dst.toNat < w.m.regs.length →
    let old := w.mreg f.dst.toNat
    let more := freeCells (s.core s.cur.core) (f.imm.toNat - old.res)
    more.length = f.imm.toNat - old.res →
    ∃ t w', Ran (.mrsv f) s t w w' ∧ StoresKept s t ∧ w'.r = w.r ∧
      w'.mreg f.dst.toNat = { old with cells := old.cells ++ more } ∧ (w'.mreg f.dst.toNat).res = max old.res f.imm.toNat ∧
      (∀ n, n ≠ f.dst.toNat → w'.mreg n = w.mreg n) ∧
      ∀ c, c ∈ (t.core s.cur.core).used ↔ c ∈ (s.core s.cur.core).used ∨ c ∈ more) ∧
  (∀ f s w, Ready (.mrank f) s w → active s w f ≠ 0 → w.m.queue = [] → ShadowsFit s w [f.dst.toNat] →
    let m := w.mreg f.opa.toNat
    ∃ t w', CompletesFrom (.mrank f) s (joined s w [.matrix w.ctxid w.tag]) t w w' ∧
      OnlyS s w w' f.dst.toNat (BitVec.ofNat 64 (m.res * 65536 + if m.dense then 256 else m.rank)) 0) ∧
  (∀ f s w, Ready (.mrankErr f) s w → active s w f ≠ 0 → w.m.queue = [] → ShadowsFit s w [f.dst.toNat] →
    ∃ t w', Ran (.mrankErr f) s t w w' ∧ StoresKept s t ∧
      w' = { w with r := w'.r, m := { w.m with err := none }, frags := w'.frags } ∧
      OnlyS s w w' f.dst.toNat (match w.m.err with
        | some (cause, row) => BitVec.ofNat 64 (32768 + row * 256 + cause)
        | none => 0) 0) ∧
  (∀ f s w, Ready (.mmovv f) s w → active s w f ≠ 0 → w.m.queue = [] → (w.mreg f.opa.toNat).dense = true →
    f.dst.toNat + 8 * (64 / w.width) ≤ 256 → f.dst.toNat + 8 * (64 / w.width) ≤ 64 + 32 * w.r.xgrant → w.width ∣ 64 → w.width ≠ 0 →
    let n := 64 / w.width
    ∃ t w', CompletesFrom (.mmovv f) s (joined s w [.matrix w.ctxid w.tag]) t w w' ∧ OnlyV s w w' (fun r L =>
      if (active s w f).getLsbD L = true ∧ f.dst.toNat ≤ r ∧ r < f.dst.toNat + 8 * n then
        some (BitVec.ofNat 32 ((((s.core s.cur.core).cellWords
          ((w.mreg f.opa.toNat).rowWords (L * n + (r - f.dst.toNat) / 8)))[8 * (f.imm.toNat % 8) + (r - f.dst.toNat) % 8]?).getD 0))
      else none) 0) ∧
  (∀ f s w x, Ready (.mrowp f) s w → active s w f ≠ 0 → s.ctxSup w.cslot = true → (sr s w f.opa.toNat).toNat < 128 →
    s.warp s.cur.core (sr s w f.opa.toNat).toNat = some x → (∃ fr ∈ x.frags, fr.st = .stopped) → ShadowsFit s w [f.dst.toNat] →
    ∃ t w', Completes (.mrowp f) s t w w' ∧
      OnlyS s w w' f.dst.toNat (if x.m.held then BitVec.ofNat 64 x.m.rowp else 0) 0) ∧
  ∀ f s w x, Ready (.mrowpSet f) s w → active s w f ≠ 0 → s.ctxSup w.cslot = true → (sr s w f.opa.toNat).toNat < 128 →
    (sr s w f.opb.toNat).toNat ≤ 64 → s.warp s.cur.core (sr s w f.opa.toNat).toNat = some x →
    (∃ fr ∈ x.frags, fr.st = .stopped) → x.m.held = true →
    ∃ t w' x', Issued (.mrowpSet f) s t w w' ∧ StoresKept s t ∧ w'.r = w.r ∧
      t.warp s.cur.core (sr s w f.opa.toNat).toNat = some x' ∧ x'.m = { x.m with rowp := (sr s w f.opb.toNat).toNat } ∧ x'.r = x.r

/-- R292, R296, R297, R299 to R309, R313, R315 to R317: the steps of the matrix unit. MATRIX_OP_START charges the chosen head's
cost to the purse, and then makes the operation's actions. A row of MLD.d, MMA and MADDF: the row's words of the tile receive
the loaded elements, D + A × B, or D + U′ × V′, and every other byte of the cells stays. A row of MST.d and MST.f is stored, in
order, from the tile's value, its U row or its V row. MFREE returns the cells; MZERO, MDNS, MSCL, MMOVM, MLD.f, MADDF,
MADDM, MMULF and MRCMP give the register the form and the rows that their rules state. OPERANDS_CONSUMED counts one reader off
the barrier; MATRIX_OP_COMPLETE raises the flags and takes the head off its queue; MATRIX_OP_STOP holds the queue, stops every
fragment and records the fault; MATRIX_ERROR_COMPLETION latches the error and takes the head off.
(Model's readings: logs 41, 42) -/
def Obligations.MatrixSteps : Prop :=
  (∀ core s h r, s.pkg.powered = true → s.running core = true → (s.core core).unit = none →
    (matHeads s core).find? MatHead.unweighed = none →
    chooseHead (s.tower (core / 128)).clock ((matHeads s core).filter MatHead.weighed) = some h → h.run = some r →
    matCost h.w h.op r ≤ (s.core core).purse →
    ∃ t w', exec (.matrixOpStart core) s = .next t ∧ (t.core core).purse = (s.core core).purse - matCost h.w h.op r ∧
      (t.core core).unit = some h.slot ∧ t.warp core h.slot = some w' ∧ w'.m.run = some { r with acts := r.acts.drop 1 } ∧
      StoresKept s t) ∧
  (∀ core s slot w f (o : MatOp) r i rest, AtUnit s core slot w o r (.row i) rest →
    (o.instr = .mldD f ∨ o.instr = .mma f ∨ o.instr = .maddf f) →
    let m := w.mreg f.dst.toNat
    let d := (s.core core).cellWords (m.rowWords i)
    let new := if o.instr = .mma f then (mmaRow o r i d).1
      else if o.instr = .mldD f then (rowElems o (r.bytes (128 + i))).1
      else (dotRow d (rowElems o (r.bytes (128 + i))).1
        (columns 64 ((List.range o.count).map fun t => (rowElems o (r.bytes t)).1))).1
    new.length = 64 →
    ∃ t, exec (.matrixOpStart core) s = .next t ∧
      (t.core core).cellWords (m.rowWords i) = new.map (· % 2 ^ 32) ∧
      (∀ a, outside (m.rowWords i) a → spGet 0 (t.core core).cells a = spGet 0 (s.core core).cells a) ∧
      (t.warp core slot).map (fun w => (w.r, w.frags)) = some (w.r, w.frags) ∧ ∀ a, t.byte a = s.byte a) ∧
  (∀ core s slot w f (o : MatOp) r i rest, AtUnit s core slot w o r (.row i) rest →
    (o.instr = .mstD f ∨ (o.instr = .mstF f ∧ (w.mreg f.dst.toNat).dense = false)) →
    let x := if o.instr = .mstD f then valueRow (s.core core) (w.mreg f.dst.toNat) i
      else (uRow (s.core core) (w.mreg f.dst.toNat) i, 0)
    let bs := storeElems o x.1
    RowPasses s core w o o.as (o.rowAddr 0 i) bs.1.length →
    ∃ t w', exec (.matrixOpStart core) s = .next t ∧ RowStored s t core w o o.as (o.rowAddr 0 i) bs.1 ∧
      (t.core core).cells = (s.core core).cells ∧ t.warp core slot = some w' ∧ w'.r = w.r ∧ w'.m.regs = w.m.regs ∧
      w'.m.run = some { r with acts := rest, row := some (((rowsLeft w o).find? fun j => i < j).getD 64),
                               flags := r.flags ||| (x.2 ||| bs.2) }) ∧
  (∀ core s slot w f (o : MatOp) r i rest, AtUnit s core slot w o r (.vrow i) rest → o.instr = .mstF f →
    let bs := storeElems o ((s.core core).cellWords ((w.mreg f.dst.toNat).vWords i))
    RowPasses s core w o o.bs (o.rowAddr 2 i) bs.1.length →
    ∃ t w', exec (.matrixOpStart core) s = .next t ∧ RowStored s t core w o o.bs (o.rowAddr 2 i) bs.1 ∧
      (t.core core).cells = (s.core core).cells ∧ t.warp core slot = some w' ∧ w'.r = w.r ∧ w'.m.regs = w.m.regs ∧
      w'.m.run = some { r with acts := rest, flags := r.flags ||| bs.2 }) ∧
  (∀ core s slot w f (o : MatOp) r rest, AtUnit s core slot w o r .whole rest →
    let k := s.core core
    let d := f.dst.toNat
    let m := w.mreg d
    let rows := rowsLeft w o
    let load := fun (key : Nat) => rowElems o (r.bytes key)
    let us := fun i => (load (128 + i)).1
    let vs := (List.range o.count).map fun j => (load j).1
    let loadFlags := orFlags ((List.range o.count).map fun j => (load j).2) ||| orFlags (rows.map fun i => (load (128 + i)).2)
    let loads := (∀ i ∈ rows, (us i).length = o.count) ∧ ∀ v ∈ vs, v.length = 64
    CellsOf k m →
    (o.instr = .mfree f → ∃ t, exec (.matrixOpStart core) s = .next t ∧
      t.warp core slot = some (withReg w d {} (wholeDone r rest 0)) ∧ (t.core core).cells = k.cells ∧
      (∀ c, c ∈ (t.core core).used ↔ c ∈ k.used ∧ c ∉ m.cells) ∧ StaysPut s t core) ∧
    (o.instr = .mzero f → f.minor.getLsbD 0 = false → laneCount o.active = w.width →
      ∃ t, exec (.matrixOpStart core) s = .next t ∧
        t.warp core slot = some (withReg w d { m with dense := false, rank := 0 } (wholeDone r rest 0)) ∧
        (t.core core).cells = k.cells ∧ (t.core core).used = k.used ∧ StaysPut s t core) ∧
    (o.instr = .mzero f → f.minor.getLsbD 0 = false → laneCount o.active ≠ w.width → m.dense = true →
      ∃ t, exec (.matrixOpStart core) s = .next t ∧ DenseRows s t core slot w d m
        (fun i => if i ∈ rows then List.replicate 64 0 else value k m i) (wholeDone r rest 0)) ∧
    (o.instr = .mzero f → f.minor.getLsbD 0 = false → laneCount o.active ≠ w.width → m.dense = false →
      ∃ t, exec (.matrixOpStart core) s = .next t ∧ FactorRows s t core slot w d m
        (fun i => if i ∈ rows then List.replicate m.rank 0 else uRow k m i) (fun j => k.cellWords (m.vWords j))
        (wholeDone r rest 0)) ∧
    (o.instr = .mzero f → f.minor.getLsbD 0 = true → MayDensify k m o.auto →
      ∃ t, exec (.matrixOpStart core) s = .next t ∧ DenseRows s t core slot w d (densed k m)
        (fun i => if i ∈ rows then List.replicate 64 0 else value k m i) (wholeDone r rest (valueFlags k m))) ∧
    (o.instr = .mdns f → MayDensify k m o.auto →
      ∃ t, exec (.matrixOpStart core) s = .next t ∧ DenseRows s t core slot w d (densed k m) (value k m)
        (wholeDone r rest (valueFlags k m))) ∧
    (o.instr = .mscl f →
      let x := f32Val (if f.bimm then f.imm.toNat else ((o.args[0]?).getD 0).toNat % 2 ^ 32)
      let scaled := fun (y : Nat) => roundTo fmtF32 (f.qual.toNat % 8) false ((f32Val y).mul x)
      let row := fun i => if m.dense then k.cellWords (m.rowWords i) else uRow k m i
      let run := wholeDone r rest (orFlags (rows.map fun i => orFlags ((row i).map fun y => (scaled y).2)))
      let new := fun i => if i ∈ rows then (row i).map fun y => (scaled y).1 else row i
      ∃ t, exec (.matrixOpStart core) s = .next t ∧
        if m.dense = true then DenseRows s t core slot w d m new run
        else FactorRows s t core slot w d m new (fun j => k.cellWords (m.vWords j)) run) ∧
    (o.instr = .mmovm f → MayDensify k m o.auto →
      let n := 64 / w.width
      let c := f.imm.toNat % 8
      ∃ t, exec (.matrixOpStart core) s = .next t ∧ DenseRows s t core slot w d (densed k m)
        (fun i => if i ∈ rows then (List.range 64).map fun j =>
          if 8 * c ≤ j ∧ j < 8 * c + 8 then
            ((o.words.find? fun x => x.1 == (i / n, 8 * (i % n) + (j - 8 * c))).map fun x => x.2.toNat).getD 0
          else ((value k m i)[j]?).getD 0
        else value k m i) (wholeDone r rest (valueFlags k m))) ∧
    (o.instr = .mldF f → o.count ≤ m.res → loads → rows = List.range 64 →
      ∃ t, exec (.matrixOpStart core) s = .next t ∧
        FactorRows s t core slot w d { m with dense := false, rank := o.count } us (fun j => (vs[j]?).getD [])
          (wholeDone r rest loadFlags)) ∧
    (o.instr = .mldF f → m.res < o.count → (freeCells k (32 - m.res)).length = 32 - m.res → loads → rows = List.range 64 →
      ∃ t, exec (.matrixOpStart core) s = .next t ∧
        DenseRows s t core slot w d { dense := true, rank := 0, cells := m.cells ++ freeCells k (32 - m.res) }
          (fun i => (dotRow (List.replicate 64 0) (us i) (columns 64 vs)).1) (wholeDone r rest loadFlags)) ∧
    (o.instr = .maddf f → Fits m o.count → loads →
      ∃ t, exec (.matrixOpStart core) s = .next t ∧
        FactorRows s t core slot w d { m with rank := m.rank + o.count }
          (fun i => uRow k m i ++ if i ∈ rows then us i else List.replicate o.count 0)
          (fun j => if j < m.rank then k.cellWords (m.vWords j) else (vs[j - m.rank]?).getD [])
          (wholeDone r rest loadFlags)) ∧
    (o.instr = .maddm f → (w.mreg o.opa).dense = true → MayDensify k m o.auto →
      let x := fun i => List.zipWith (fun p q => f32Round ((f32Val p).add false (f32Val q))) (value k m i)
        (k.cellWords ((w.mreg o.opa).rowWords i))
      ∃ t, exec (.matrixOpStart core) s = .next t ∧ DenseRows s t core slot w d (densed k m)
        (fun i => if i ∈ rows then (x i).map (·.1) else value k m i)
        (wholeDone r rest (valueFlags k m ||| orFlags (rows.map fun i => orFlags ((x i).map (·.2)))))) ∧
    (o.instr = .maddm f → (w.mreg o.opa).dense = false → MayAdd s core w o (w.mreg o.opa).rank →
      ∃ t, exec (.matrixOpStart core) s = .next t ∧
        TermsAdded s core slot w o r rest (uRow k (w.mreg o.opa)) (vRows k (w.mreg o.opa)) 0 t) ∧
    (o.instr = .mmulf f → (w.mreg o.opa).dense = false → (w.mreg o.opb).dense = true →
      MayAdd s core w o (w.mreg o.opa).rank →
      let wt := (vRows k (w.mreg o.opa)).map fun v => dotRow (List.replicate 64 0) v
        (columns 64 ((List.range 64).map fun i => k.cellWords ((w.mreg o.opb).rowWords i)))
      ∃ t, exec (.matrixOpStart core) s = .next t ∧
        TermsAdded s core slot w o r rest (uRow k (w.mreg o.opa)) (wt.map fun x => x.1) (orFlags (wt.map fun x => x.2)) t) ∧
    (o.instr = .mrcmp f → m.dense = false →
      let cols := columns m.rank ((List.range 64).map (uRow k m))
      ∃ t, exec (.matrixOpStart core) s = .next t ∧
        (recompress w.r.mtol.toNat cols (vRows k m) = none →
          t.warp core slot = some (withReg w d m (wholeDone r rest 1)) ∧ (t.core core).cells = k.cells ∧ StaysPut s t core) ∧
        ∀ u' v', recompress w.r.mtol.toNat cols (vRows k m) = some (u', v') → u'.length ≤ m.res → v'.length = u'.length →
          (∀ v ∈ v', v.length = 64) →
          FactorRows s t core slot w d { m with rank := u'.length }
            (fun i => (columns 64 u')[i]?.getD []) (fun j => (v'[j]?).getD []) (wholeDone r rest 0))) ∧
  (∀ core s h r a b, s.pkg.powered = true → headWith s core (fun a => a == .consumed) = some (h, r, a) → h.op.bar = some b →
    segCheck (seg h.w 1) b 32 true = none →
    let at_ := (seg h.w 1).base.toNat + b
    let old := leNat (s.scrBytes core at_ 32)
    ∃ t w', exec (.operandsConsumed core) s = .next t ∧ t.warp core h.slot = some w' ∧
      w'.m.run = some { r with acts := r.acts.drop 1 } ∧
      Settled old (leNat (t.scrBytes core at_ 32)) (barExp old) (barArr old) (barBytes old) ((barRdr old + (2 ^ 32 - 1)) % 2 ^ 32)
        (barAccf old)) ∧
  (∀ core s h r a, s.pkg.powered = true → headWith s core (fun a => a == .finish) = some (h, r, a) →
    ∃ t w', exec (.matrixOpComplete core) s = .next t ∧ Popped s t core h.slot h.w w' ∧
      w'.r = { h.w.r with flags := h.w.r.flags ||| BitVec.ofNat 14 r.flags } ∧ StoresKept s t) ∧
  (∀ core s h r cause va acc aux, s.pkg.powered = true →
    headWith s core (fun a => match a with
      | .stop _ _ _ _ => true
      | _ => false) = some (h, r, .stop cause va acc aux) →
    ∃ t w' x, exec (.matrixOpStop core) s = .next t ∧ t.warp core h.slot = some w' ∧ w'.r = h.w.r ∧ w'.m.held = true ∧
      (∀ i, i < 8 → (h.w.frag i).issuable = true → (w'.frag i).st = .stopped ∧ (w'.frag i).pc = (h.w.frag i).pc) ∧
      (t.core core).records = (s.core core).records ++ [x] ∧ x.cause = cause ∧ x.va = va ∧ x.pc = h.op.pc ∧
      x.lanes = h.op.active ∧ x.unit = 4 ∧ StoresKept s t) ∧
  ∀ core s h r cause row, s.pkg.powered = true →
    headWith s core (fun a => match a with
      | .error _ _ => true
      | _ => false) = some (h, r, .error cause row) →
    ∃ t w', exec (.matrixErrorCompletion core) s = .next t ∧ Popped s t core h.slot h.w w' ∧
      w'.r = { h.w.r with flags := h.w.r.flags ||| BitVec.ofNat 14 r.flags } ∧
      w'.m.err = some (h.w.m.err.getD (cause, row)) ∧ ∀ a, t.byte a = s.byte a

/-! ### The chain table, traversal and the tile raster -/

namespace Sys2Proof.Claims
open Sys2Proof.Machine

/-- The 64 bytes of a slot at its home, as a number (R128). -/
abbrev slotBits (u : State) (w : Warp) (ps : List Piece) : Nat := leNat (homeBytes u w ps)
/-- Slots taken one after another for a chain-table step: the state they leave, each with its parts and its bits, when none faults
or waits. -/
def slotsTaken (e : Env) (major : Nat) (acc : Acc) : State → List Nat → Option (State × List SlotView)
  | s, [] => some (s, [])
  | s, i :: is => match slotAccess e s major i acc true with
    | (u, .ok ps) => (slotsTaken e major acc u is).map fun r => (r.1, (i, ps, slotBits u e.w ps) :: r.2)
    | _ => none
/-- No field cache holds an entry of a slot (R134). -/
abbrev Dropped (t : State) (w : Warp) (i : Nat) : Prop := ∀ y ∈ t.fields, ¬ (y.ctxid = w.ctxid ∧ y.slot = i)
/-- The fields of an OPEN slot that FOPEN writes, every other bit zero (R128, R136). -/
structure Opened (y brec wid hgt cell pgen gen base : Nat) (hp dim2 : Bool) (pred : Nat) : Prop where
  state : slState y = 1 ∧ slBrec y = brec ∧ slHp y = hp ∧ slPred y = pred ∧ slPgen y = pgen ∧ slGen y = gen
  place : slFbase y = base ∧ bits y 321 320 = cell ∧ slDim2 y = dim2 ∧ slWid y = wid ∧ slHgt y = hgt
  rest : slNcov y = 0 ∧ slLink y 0 = 0 ∧ slLink y 1 = 0 ∧ slMalformed y = false ∧ bits y 511 448 = 0

/-- The fragment stands parked at the instruction `i` with the wait `x`, and may try it again. -/
structure Waiting (i : Instr) (s : State) (w : Warp) (x : Wait) : Prop where
  warp : s.warp s.cur.core s.cur.slot = some w
  st : (frag s w).st = .parked
  wait : (frag s w).wait = some x
  run : (frag s w).run = []
  legal : i.WellFormed
  mode : i.privileged = true → s.ctxSup w.cslot = true
  grant : (match i.shape, i.fields with
    | some sh, some f => grantOk sh f w.r.xgrant
    | _, _ => true) = true
  codes : (s.core s.cur.core).bad = [] ∧ (s.core s.cur.core).weak = []
/-- What a parked instruction sees: the Active with which it issued (R16). -/
abbrev envAt (s : State) (w : Warp) (f : Fields) (act : Mask) : Env := { env s w f with active := act }
/-- The walks of an instruction's lanes that are under way (R146, R147): those of the lanes of Active where it stands ready, each
from its start, else those with which it stands parked. -/
structure Walks (i : Instr) (s : State) (w : Warp) (f : Fields) (start : Nat → List W32) (act : Mask) (root : W64)
    (ws : List LaneWalk) : Prop where
  stands : (Ready i s w ∧ act = active s w f ∧ root = sr s w f.opb.toNat ∧ ws = (lanesOf act).map fun L => ⟨L, start L, []⟩) ∨
    (Waiting i s w (.walks root ws) ∧ act = (frag s w).act)
  some_ : act ≠ 0
  lanes : ws.map (fun x => x.lane) = lanesOf act
/-- The instruction has done one step of its own and stays parked at its PC with the wait `x`; its warp's registers, and every
other fragment and warp, are as before. -/
structure Stays (i : Instr) (s t : State) (w w' : Warp) (x : Wait) : Prop where
  next : exec i s = .next t
  warp : t.warp s.cur.core s.cur.slot = some w'
  regs : w'.r = w.r
  parked : (frag s w').st = .parked ∧ (frag s w').wait = some x ∧ (frag s w').pc = (frag s w).pc
  lanes : (frag s w').exm = (frag s w).exm ∧ (frag s w').mem = (frag s w).mem ∧ (frag s w').jr = (frag s w).jr
  frags : ∀ j, j ≠ s.cur.entry → w'.frag j = w.frag j
  others : ∀ c k, (c ≠ s.cur.core ∨ k ≠ s.cur.slot) → t.warp c k = s.warp c k

/-- The signed 32-bit word of v[n] in a lane. -/
abbrev fixed (w : Warp) (n L : Nat) : Int := (v w n L).toInt
/-- The edge function of R339 and its top-left rule. -/
abbrev insideEdge (ax ay bx by_ px py : Int) : Bool :=
  let x := (bx - ax) * (py - ay) - (by_ - ay) * (px - ax)
  decide (0 < x ∨ (x = 0 ∧ ((ay = by_ ∧ ax < bx) ∨ by_ < ay)))
/-- Is the sample of pixel `i` of the 8×8 block covered by the lane's triangle (R339)? -/
abbrev covered (w : Warp) (n L b i : Nat) : Bool :=
  let x := fun j => fixed w (n + 2 * j) L
  let y := fun j => fixed w (n + 2 * j + 1) L
  let d := (x 1 - x 0) * (y 2 - y 0) - (y 1 - y 0) * (x 2 - x 0)
  let p := if d < 0 then 2 else 1
  let q := if d < 0 then 1 else 2
  let px : Int := 256 * ((b % 65536 + i % 8 : Nat) : Int) + 128
  let py : Int := 256 * ((b / 65536 % 65536 + i / 8 : Nat) : Int) + 128
  decide (d ≠ 0) && insideEdge (x 0) (y 0) (x p) (y p) px py && insideEdge (x p) (y p) (x q) (y q) px py &&
    insideEdge (x q) (y q) (x 0) (y 0) px py
/-- The comparison of ZTST (R340): .lt, .le, .gt, .ge and .always. -/
abbrev passes (c : Nat) (z d : W32) : Bool :=
  let x := decodeVal fmtF32 z.toNat
  let y := decodeVal fmtF32 d.toNat
  match c with
  | 0 => !x.isNan && !y.isNan && x.lt y
  | 1 => !x.isNan && !y.isNan && !y.lt x
  | 2 => !x.isNan && !y.isNan && y.lt x
  | 3 => !x.isNan && !y.isNan && !x.lt y
  | _ => true
/-- The lanes of a ZTST one after another on a depth plane: a lane sees the depths that lower lanes wrote (R340). -/
def depthRun (c : Nat) (test : Bool) : (Nat → W32) → List (Nat × Nat × W32) → (Nat → W32) × List Nat
  | d, [] => (d, [])
  | d, (L, i, z) :: rest =>
    if passes c z (d i) then
      let r := depthRun c test (if test then d else fun j => if j = i then z else d j) rest
      (r.1, L :: r.2)
    else depthRun c test d rest

end Sys2Proof.Claims

/-- R126 to R149: the chain table. HSTAT gives a slot's first word; FOPEN opens a FREE or RETIRED slot, after checking the
predecessor that it names; FSEAL seals an OPEN one once its workgroup has nothing outstanding; FRET retires a SEALED one and
writes every slot that changes with it; each of these drops the slots that it writes from every field cache. FCOMP stores the
composed entries one by one, and its last step seals its target as a shortcut and links it, or reports a change; HLD makes
one access of one lane's walk at a time, and once every walk has ended gives its lanes' channels, status words and mask.
(Model's readings: logs 43, 44, 45, 85) -/
def Obligations.ChainTable : Prop :=
  (∀ f s w u ps, Ready (.hstat f) s w → active s w f ≠ 0 → ShadowsFit s w [f.dst.toNat] →
    (sr s w f.opa.toNat).toNat < 256 →
    slotAccess (env s w f) s 0xD1 (sr s w f.opa.toNat).toNat .rd false = (u, .ok ps) →
    ∃ t w', Ran (.hstat f) s t w w' ∧ StoresKept s t ∧
      OnlyS s w w' f.dst.toNat (BitVec.ofNat 64 (leNat (readBytes s (touched s u [(0, ps)]) w ps))) 0) ∧
  (∀ f s w u u' ps ps', Ready (.fopen f) s w → active s w f ≠ 0 → w.stnt = [] → ShadowsFit s w [f.dst.toNat] →
    let a := (sr s w f.opa.toNat).toNat
    let b := (sr s w f.opb.toNat).toNat
    let c := sr s w f.opc.toNat
    let wid := (c.extractLsb' 0 16).toNat
    let hgt := (c.extractLsb' 16 16).toNat
    let pred := (c.extractLsb' 40 8).toNat
    let x := slotBits u w ps
    let p := slotBits u' w ps'
    a < 256 → c.extractLsb' 49 3 = 0 → c.extractLsb' 35 5 = 0 → wid ≠ 0 → hgt ≠ 0 → (c.getLsbD 34 = false → hgt = 1) →
    b % 4 = 0 → b + wid * hgt * 4 ≤ 2 ^ 56 →
    slotAccess (env s w f) s 0xD2 a .rw true = (u, .ok ps) → slMalformed x = false → (slState x = 0 ∨ slState x = 3) →
    (c.getLsbD 48 = true → pred ≠ a ∧ slotAccess (env s w f) u 0xD2 pred .rd true = (u', .ok ps') ∧ slMalformed p = false ∧
      slState p ≠ 0 ∧ slNcov p = 0 ∧ slDim2 p = c.getLsbD 34) →
    ∃ t w' y, Ran (.fopen f) s t w w' ∧ OnlyS s w w' f.dst.toNat (BitVec.ofNat 64 ((slGen x + 1) % 65536)) 0 ∧
      Opened y (c.extractLsb' 52 12).toNat wid hgt (c.extractLsb' 32 2).toNat (if c.getLsbD 48 then slGen p else 0)
        ((slGen x + 1) % 65536) b (c.getLsbD 48) (c.getLsbD 34) (if c.getLsbD 48 then pred else 0) ∧ Dropped t w a ∧
      ∀ m, t.byte m = (lastAt (placed ps (leBytes 64 y)) .phys m).getD (s.byte m)) ∧
  (∀ f s w u ps i g, Ready (.fseal f) s w → active s w f ≠ 0 → slotRef (sr s w f.opa.toNat) = some (i, g) → w.latch = none →
    (∀ y ∈ s.warps, y.2.2.wg = w.wg → y.2.2.stnt = []) → groupBusy s w.wg = false →
    slotAccess (env s w f) s 0xD3 i .rw true = (u, .ok ps) →
    let x := slotBits u w ps
    slMalformed x = false → slGen x = g → slState x = 1 →
    ∃ t w', Ran (.fseal f) s t w w' ∧ w'.r = w.r ∧ Dropped t w i ∧
      ∀ m, t.byte m = (lastAt (placed ps (leBytes 64 (x + 1))) .phys m).getD (s.byte m)) ∧
  (∀ f s w u u1 u2 ps i g table views, Ready (.fret f) s w → active s w f ≠ 0 → w.stnt = [] →
    slotRef (sr s w f.opa.toNat) = some (i, g) →
    slotAccess (env s w f) s 0xD5 i .rw true = (u, .ok ps) →
    let x := slotBits u w ps
    slMalformed x = false → slGen x = g → slState x = 2 →
    slotsTaken (env s w f) 0xD5 .rd u (List.range (min 256 ((seg w 6).lim.toNat * 256 / 64))) = some (u1, table) →
    let old := table.map fun y => (y.1, y.2.2)
    let changed := ((old.zip (retireSlots i old)).filter fun y => y.1.2 != y.2.2).map fun y => y.2
    slotsTaken (env s w f) 0xD5 .rw u1 (changed.map fun y => y.1) = some (u2, views) →
    ∃ t w', Ran (.fret f) s t w w' ∧ w'.r = w.r ∧ (∀ y ∈ changed, Dropped t w y.1) ∧
      (∀ m, t.byte m = (lastAt ((views.zip changed).flatMap fun y => placed y.1.2.1 (leBytes 64 y.2.2)) .phys m).getD (s.byte m)) ∧
      ∀ y ∈ retireSlots i old, y.1 = i → slState y.2 = 3) ∧
  (∀ f s w c u ps, let va := slFbase c.target + 4 * c.cell
    Waiting (.fcomp f) s w (.composing c) → (frag s w).act ≠ 0 → w.stnt = [] → c.cell < slWid c.target * slHgt c.target →
    c.next = none → vaAccess (envAt s w f (frag s w).act) s (.l2 (towerOf s.cur.core)) 0 .wr va 4 = (u, .ok ps) →
    ∃ t w', Stays (.fcomp f) s t w w' (.composing (c.at (c.cell + 1))) ∧
      ∀ m, t.byte m = (lastAt (placed ps (leBytes 4 c.entry)) .phys m).getD (s.byte m)) ∧
  (∀ f s w c u1 u2 u3 u4 pt now pl ps src, Waiting (.fcomp f) s w (.composing c) → (frag s w).act ≠ 0 → w.stnt = [] →
    ShadowsFit s w [f.dst.toNat] → slWid c.target * slHgt c.target ≤ c.cell → c.chain.head?.map (fun x => x.1) = some src →
    let e := envAt s w f (frag s w).act
    slotAccess e s 0xD4 c.slot .rw true = (u1, .ok pt) →
    slotsTaken e 0xD4 .rd u1 (c.chain.map fun x => x.1) = some (u2, now) →
    slotAccess e u2 0xD4 c.land.1 .rd true = (u3, .ok pl) →
    slotAccess e u3 0xD4 src .rw true = (u4, .ok ps) →
    let xt := slotBits u1 w pt
    let xl := slotBits u3 w pl
    let same : Prop := (∀ y ∈ now.zip c.chain, slState y.1.2.2 = 2 ∧ slGen y.1.2.2 = slGen y.2.2) ∧ slState xt = 1 ∧
      slGen xt = c.gen ∧ slGen xl = c.land.2
    slMalformed xt = false → slMalformed xl = false → (∀ y ∈ now, slMalformed y.2.2 = false) →
    ∃ t w', Ran (.fcomp f) s t w w' ∧
      (¬ same → OnlyS s w w' f.dst.toNat 1 0 ∧ ∀ m, t.byte m = s.byte m) ∧
      (same → OnlyS s w w' f.dst.toNat 0 0 ∧ Dropped t w c.slot ∧ Dropped t w src ∧ ∃ y z, slState y = 2 ∧ slGen y = c.gen ∧
        slHp y = true ∧ slPred y = c.land.1 % 256 ∧ slPgen y = c.land.2 % 65536 ∧ slNcov y = c.chain.length % 16 ∧
        ((∀ x ∈ c.chain, x.1 < 256) → ∀ j, j < 8 → ∀ x, c.chain[j]? = some x → slCov y j = x.1) ∧ slFbase y = slFbase xt ∧
        z = addLink (slotBits u4 w ps) c.chain.length (2 ^ 31 + c.chain.length * 2 ^ 27 + c.slot * 2 ^ 16 + c.gen) ∧
        ∀ m, t.byte m = (lastAt (placed pt (leBytes 64 y) ++ placed ps (leBytes 64 z)) .phys m).getD (s.byte m))) ∧
  (∀ f s w act root ws u ws', Walks (.hld f) s w f (fun L => [v w f.opa.toNat L]) act root ws →
    (slotRef root).isSome = true → stepWalks (hldWalk f root) (hldAnswer (envAt s w f act)) s ws = (u, ws') →
    walkEnds (hldWalk f root) ws' = none →
    ∃ t w', Stays (.hld f) s t w w' (.walks root ws') ∧ StoresKept s t) ∧
  ∀ f s w act root ws u ws', ∀ ends : List (Nat × HldEnd), Walks (.hld f) s w f (fun L => [v w f.opa.toNat L]) act root ws →
    (slotRef root).isSome = true → stepWalks (hldWalk f root) (hldAnswer (envAt s w f act)) s ws = (u, ws') →
    walkEnds (hldWalk f root) ws' = some (ends.map fun h => (h.1, .ok h.2)) →
    let ch := f.imm.toNat / 16 % 4 + 1
    ∃ t w', Ran (.hld f) s t w w' ∧ StoresKept s t ∧ w' = { w with r := w'.r, frags := w'.frags } ∧
      w'.r = { w.r with v := w'.r.v, k := w'.r.k, flags := w'.r.flags } ∧ (∀ m, sr s w' m = sr s w m) ∧
      w'.r.flags = w.r.flags ||| BitVec.ofNat 14 (ends.foldl (fun a h => a ||| h.2.flags) 0) ∧
      (∀ h ∈ ends, (∀ c, c < ch → (f.opc.toNat < f.dst.toNat ∨ f.dst.toNat + ch ≤ f.opc.toNat) →
          v w' (f.dst.toNat + c) h.1 = (h.2.data[c]?).getD 0) ∧
        v w' f.opc.toNat h.1 = BitVec.ofNat 32 (h.2.status + if h.2.used then 256 else 0)) ∧
      (∀ n L, L < 64 → (∀ h ∈ ends, h.1 ≠ L) ∨ (n ≠ f.opc.toNat ∧ (n < f.dst.toNat ∨ f.dst.toNat + ch ≤ n)) → v w' n L = v w n L) ∧
      (∀ m, f.imm.toNat / 256 % 8 = 0 ∨ m ≠ f.imm.toNat / 256 % 8 → kr w' m = kr w m) ∧
      (f.imm.toNat / 256 % 8 ≠ 0 → ∀ h ∈ ends, (kr w' (f.imm.toNat / 256 % 8)).getLsbD h.1 = (h.2.status == 1))

/-- R325 to R329, R331 to R336, R353: TRACE makes one read of one lane's walk at a time, reports a page that a read skips when it
meets it, and once every walk has ended gives its lanes' hit records; PAIR and PAIRX give 0 with an empty Active, else what the
warp has stored before is performed and their operation is added to the warp's; each of the operation's steps makes one access:
a read for the entry on top of its stack or for its continuation, the append of a pair, or a piece of the continuation written;
it replaces the entry, and ends with the status in the destination register, or stops the warp.
(Model's readings: logs 47, 48, 49, 96) -/
def Obligations.Traversal : Prop :=
  (∀ f s w act root ws u ws', let first := f.qual.getLsbD 0
    Walks (.trace f) s w f (fun L => (List.range 8).map fun j => v w (f.opa.toNat + j) L) act root ws →
    stepWalks (traceWalk first root) (traceAnswer (envAt s w f act)) s ws = (u, ws') → walkEnds (traceWalk first root) ws' = none →
    ∃ t w', Stays (.trace f) s t w w' (.walks root ws') ∧ StoresKept s t ∧
      (u.warp s.cur.core s.cur.slot).map (fun x => x.fbs) = some w'.fbs) ∧
  (∀ f s w act root ws u ws', ∀ ks : List (Nat × TraceEnd), let first := f.qual.getLsbD 0
    Walks (.trace f) s w f (fun L => (List.range 8).map fun j => v w (f.opa.toNat + j) L) act root ws →
    stepWalks (traceWalk first root) (traceAnswer (envAt s w f act)) s ws = (u, ws') →
    walkEnds (traceWalk first root) ws' = some (ks.map fun k => (k.1, .ok k.2)) →
    ∃ t w', Ran (.trace f) s t w w' ∧ StoresKept s t ∧ w' = { w with r := w'.r, fbs := w'.fbs, frags := w'.frags } ∧
      (u.warp s.cur.core s.cur.slot).map (fun x => x.fbs) = some w'.fbs ∧
      OnlyV s w w' (fun n L =>
        if f.dst.toNat ≤ n ∧ n < f.dst.toNat + 6 then
          (ks.find? fun x => x.1 == L).map fun x => BitVec.ofNat 32 (((hitRecord x.2)[n - f.dst.toNat]?).getD 0)
        else none) (ks.foldl (fun a k => a ||| k.2.raised) 0)) ∧
  (∀ f s w act L ask u, s.warp s.cur.core s.cur.slot = some w → traceAnswer (envAt s w f act) s L ask = (u, some .absent) →
    ∃ w' va, u.warp s.cur.core s.cur.slot = some w' ∧ ask.va ≤ va ∧ va < ask.va + ask.n ∧
      w' = { w with fbs := w.fbs ++ [⟨va, f.imm.toNat % 16⟩] }) ∧
  (∀ f s w, ∀ i ∈ [.pair f, .pairx f], Ready i s w → active s w f = 0 → ShadowsFit s w [f.dst.toNat] →
    ∃ t w', Completes i s t w w' ∧ OnlyS s w w' f.dst.toNat 0 0) ∧
  (∀ f s w u z, ∀ i ∈ [.pair f, .pairx f], Ready i s w → active s w f ≠ 0 → w.trv.length < 255 →
    pairChecks (env s w f) s (sr s w f.opb.toNat).toNat (sr s w f.opc.toNat).toNat = (u, .ok []) →
    settleStores u s.cur.core s.cur.slot = some z →
    ∃ t wz w' o, RanFrom i s z t w wz w' ∧ StoresKept z t ∧ w' = { wz with trv := w.trv ++ [o], frags := w'.frags } ∧
      o.pc = (frag s w).pc ∧ o.active = active s w f ∧ o.dst = f.dst.toNat ∧ o.queue = sr s w f.opb.toNat ∧
      o.cont = sr s w f.opc.toNat ∧ o.appended = 0 ∧ o.got = [] ∧ o.put = 0 ∧
      (i = .pairx f → o.stack = none ∧ o.phase = .load) ∧
      (i = .pair f → o.phase = .run ∧ ∃ es, o.stack = some es ∧ es.map (fun e => (e.lane, e.x, e.y)) =
        (lanesOf (active s w f)).map fun L => (L, (v64 w f.opa.toNat L).toNat, (v64 w (f.opa.toNat + 2) L).toNat))) ∧
  (∀ core slot idx s w o a k u x, s.pkg.powered = true → s.pairOp core slot idx = some (w, o) →
    ((o.phase = .run ∧ ∃ e rest, o.stack = some (e :: rest) ∧ (expandEntry e).feed o.got = .ask a k) ∨
      (o.phase = .load ∧ ∃ k', (loadStack o.cont.toNat).feed o.got = .ask a k')) → pairAnswer s core w a = (u, some x) →
    ∃ t w', exec (.pairOperationRun core slot idx) s = .next t ∧ t.warp core slot = some w' ∧ StoresKept s t ∧ w'.r = w.r ∧
      w'.trv[idx]? = some { o with got := o.got ++ [x] }) ∧
  (∀ core slot idx s w o x, s.pkg.powered = true → s.pairOp core slot idx = some (w, o) →
    ((o.phase = .run ∧ ∃ e rest, o.stack = some (e :: rest) ∧ (expandEntry e).feed o.got = .fail x) ∨
      (o.phase = .load ∧ (loadStack o.cont.toNat).feed o.got = .fail x)) →
    ∃ t w', exec (.pairOperationRun core slot idx) s = .next t ∧ t.warp core slot = some w' ∧ StoresKept s t ∧ w'.r = w.r ∧
      w'.trv[idx]? = some { o with phase := .stopping x.cause (BitVec.ofNat 64 x.va) x.acc x.aux, got := [] }) ∧
  (∀ core slot idx s w o es, s.pkg.powered = true → s.pairOp core slot idx = some (w, o) → o.phase = .load →
    (loadStack o.cont.toNat).feed o.got = .done es →
    ∃ t w', exec (.pairOperationRun core slot idx) s = .next t ∧ t.warp core slot = some w' ∧ StoresKept s t ∧ w'.r = w.r ∧
      w'.trv[idx]? = some { o with stack := some es, phase := .run, got := [] }) ∧
  (∀ core slot idx s w o e rest es, s.pkg.powered = true → s.pairOp core slot idx = some (w, o) → o.phase = .run →
    o.stack = some (e :: rest) → (expandEntry e).feed o.got = .done (.entries es) →
    ∃ t w', exec (.pairOperationRun core slot idx) s = .next t ∧ t.warp core slot = some w' ∧ StoresKept s t ∧ w'.r = w.r ∧
      w'.trv[idx]? = some { o with stack := some (es ++ rest), got := [] }) ∧
  (∀ core slot idx s w o e rest u data, s.pkg.powered = true → s.pairOp core slot idx = some (w, o) → o.phase = .run →
    o.stack = some (e :: rest) → (expandEntry e).feed o.got = .done (.emit data) →
    appendRecord s core w o.queue data = (u, .ok) →
    ∃ t w', exec (.pairOperationRun core slot idx) s = .next t ∧ t.warp core slot = some w' ∧ w'.r = w.r ∧
      (∀ a, t.byte a = u.byte a) ∧ w'.trv[idx]? = some { o with stack := some rest, appended := o.appended + 1, got := [] }) ∧
  (∀ core slot idx s w o part va data u x, s.pkg.powered = true → s.pairOp core slot idx = some (w, o) → o.phase = .finish part →
    contPiece o.cont.toNat (o.stack.getD []) o.put = some (va, data) → devWrite s (pairCtx core w) va data = (u, .ok x) →
    ∃ t w', exec (.pairOperationComplete core slot idx) s = .next t ∧ t.warp core slot = some w' ∧
      w' = { w with trv := w'.trv } ∧ w'.trv[idx]? = some { o with put := o.put + 1 } ∧ ∀ a, t.byte a = u.byte a) ∧
  (∀ core slot idx s w o part, s.pkg.powered = true → s.pairOp core slot idx = some (w, o) → o.phase = .finish part →
    contPiece o.cont.toNat (o.stack.getD []) o.put = none →
    ∃ t w', exec (.pairOperationComplete core slot idx) s = .next t ∧ t.warp core slot = some w' ∧ StoresKept s t ∧
      w' = { w with trv := w.trv.eraseIdx idx, r := { w.r with s := w'.r.s } } ∧
      ∀ n, spGet 0 w'.r.s n = if n = o.dst then BitVec.ofNat 64 (o.appended * 2 ^ 32 + if part then 1 else 0) else spGet 0 w.r.s n) ∧
  ∀ core slot idx s w o cause va acc aux, s.pkg.powered = true → s.pairOp core slot idx = some (w, o) →
    o.phase = .stopping cause va acc aux →
    (∀ st, o.stack = some st → contPiece o.cont.toNat st o.put = none) →
    ∃ t w' x, exec (.pairOperationStop core slot idx) s = .next t ∧ t.warp core slot = some w' ∧ w'.r = w.r ∧
      w'.trv[idx]? = some { o with phase := .held true, put := 0 } ∧
      (∀ i, i < 8 → (w.frag i).issuable = true → (w'.frag i).st = .stopped ∧ (w'.frag i).pc = (w.frag i).pc) ∧
      (t.core core).records = (s.core core).records ++ [x] ∧ x.cause = cause ∧ x.va = va ∧ x.pc = o.pc ∧ x.unit = 5

/-- R337 to R341: COVER gives each lane its coverage mask; ZTST tests, and unless .test updates, the depths of its lanes in
ascending order; TLACQ takes a free tile, and clears its planes under .clr, tells of its own one, or gives 0 under .try; TLREL
frees it; ORDW.wait completes at its counter's value, and ORDW.adv counts one. (Model's readings: log 46) -/
def Obligations.Raster : Prop :=
  LaneResult .cover (fun _ => true) (fun s w f L =>
    (BitVec.ofNat 64 ((List.range 64).foldl (fun m i =>
      if covered w f.opa.toNat L (op32 s w f.bscl f.opb L).toNat i then m + 2 ^ i else m) 0), 0)) ∧
  (∀ f s w, Ready (.ztst f) s w → active s w f ≠ 0 →
    let off := (sr s w f.opc.toNat).toNat
    let test := f.minor.getLsbD 3
    let base := (seg w 1).base.toNat + off
    let plane := fun i => BitVec.ofNat 32 (leNat (s.scrBytes s.cur.core (base + 4 * i) 4))
    let r := depthRun (f.minor.toNat % 8) test plane ((lanesOf (active s w f)).map fun L =>
      (L, (op32 s w f.bscl f.opb L).toNat, op32 s w f.ascl f.opa L))
    segCheck (seg w 1) off 16384 (!test) = none → off % 4096 = 0 →
    (∀ L ∈ lanesOf (active s w f), (op32 s w f.bscl f.opb L).toNat < 4096) →
    ∃ t w', Ran (.ztst f) s t w w' ∧ w' = { w with r := w'.r, frags := w'.frags } ∧ (∀ a, t.byte a = s.byte a) ∧
      OnlyK s w w' f.dst.toNat (kr w' f.dst.toNat) 0 ∧
      (∀ L, L < 64 → (kr w' f.dst.toNat).getLsbD L =
        if (active s w f).getLsbD L then decide (L ∈ r.2) else (kr w f.dst.toNat).getLsbD L) ∧
      (∀ i, i < 4096 → leNat (t.scrBytes s.cur.core (base + 4 * i) 4) = (r.1 i).toNat) ∧
      ∀ a, (a < base ∨ base + 16384 ≤ a) → spGet 0 (t.core s.cur.core).scr a = spGet 0 (s.core s.cur.core).scr a) ∧
  (∀ f s w, Ready (.tlacq f) s w → active s w f ≠ 0 → ShadowsFit s w [f.dst.toNat] →
    let key := (sr s w f.opa.toNat).toNat
    let off := (sr s w f.opb.toNat).toNat
    let base := (seg w 1).base.toNat + off
    key < 2 ^ 32 → segCheck (seg w 1) off 32768 true = none → off % 4096 = 0 →
    ((∀ x, s.tile w.ctxid key = some x → x.wg = w.wg → ∃ t w', Ran (.tlacq f) s t w w' ∧ StoresKept s t ∧
        OnlyS s w w' f.dst.toNat 1 0 ∧ t.tiles = s.tiles) ∧
      (∀ x, s.tile w.ctxid key = some x → x.wg ≠ w.wg → (s.tiles.filter fun x => x.wg == w.wg).length < 8 →
        f.minor.getLsbD 0 = true → ∃ t w', Ran (.tlacq f) s t w w' ∧ StoresKept s t ∧ OnlyS s w w' f.dst.toNat 0 0 ∧
          t.tiles = s.tiles) ∧
      (s.tile w.ctxid key = none → (s.tiles.filter fun x => x.wg == w.wg).length < 8 → tilesIn s (tileSlice w.ctxid key) < 64 →
        oldestWaiter s w.ctxid key = none →
        ∃ t w', Ran (.tlacq f) s t w w' ∧ (∀ a, t.byte a = s.byte a) ∧ OnlyS s w w' f.dst.toNat 1 0 ∧
          t.tiles = s.tiles ++ [⟨w.cslot, w.ctxid, key, tileSlice w.ctxid key, w.wg, base, 0⟩] ∧
          ∀ a, spGet 0 (t.core s.cur.core).scr a =
            if f.minor.getLsbD 1 = true ∧ base ≤ a ∧ a < base + 16384 then
              ((sr s w f.opc.toNat).extractLsb' (8 * ((a - base) % 4)) 8)
            else if f.minor.getLsbD 1 = true ∧ base + 16384 ≤ a ∧ a < base + 32768 then 0
            else spGet 0 (s.core s.cur.core).scr a))) ∧
  (∀ f s w, Ready (.tlrel f) s w → active s w f ≠ 0 → (sr s w f.opa.toNat).toNat < 2 ^ 32 →
    ∃ t w', Ran (.tlrel f) s t w w' ∧ StoresKept s t ∧ w'.r = w.r ∧
      ∀ x, x ∈ t.tiles ↔ x ∈ s.tiles ∧ ¬ (x.ctxid = w.ctxid ∧ x.key = (sr s w f.opa.toNat).toNat ∧ x.wg = w.wg)) ∧
  (∀ f s w x, Ready (.ordwWait f) s w → active s w f ≠ 0 → s.tile w.ctxid (sr s w f.opa.toNat).toNat = some x → x.wg = w.wg →
    x.ctr.toNat = (sr s w f.opb.toNat).toNat % 2 ^ 32 →
    ∃ t w', Ran (.ordwWait f) s t w w' ∧ StoresKept s t ∧ w' = { w with frags := w'.frags }) ∧
  ∀ f s w x, Ready (.ordwAdv f) s w → active s w f ≠ 0 → s.tile w.ctxid (sr s w f.opa.toNat).toNat = some x → x.wg = w.wg →
    ∃ t w', Issued (.ordwAdv f) s t w w' ∧ StoresKept s t ∧ w'.r = w.r ∧
      t.tile w.ctxid (sr s w f.opa.toNat).toNat = some { x with ctr := x.ctr + 1 }

/-! ### Privileged control -/

namespace Sys2Proof.Claims
open Sys2Proof.Machine

/-- The segment register that SEGLD's two operands describe (R75, R78). -/
abbrev segFrom (lo hi : W64) : Seg :=
  { base := hi, lim := lo.extractLsb' 16 48, lclass := lo.extractLsb' 9 3, lcov := lo.getLsbD 8, wr := lo.getLsbD 1, v := lo.getLsbD 0 }
/-- The bounds of R76, and R79 for prv: base + lim × 256, with W lanes in prv. -/
abbrev SegFits (n width : Nat) (g : Seg) : Prop :=
  g.base.toNat + g.lim.toNat * 256 * (if n = 2 then width else 1) ≤
    if n = 1 then 2 ^ 23 else if n = 4 then 0x101000000 else 2 ^ 56
/-- The operands of SEGLD are free of reserved bits (R78). -/
abbrev SegWord (lo : W64) : Prop := lo.extractLsb' 12 4 = 0 ∧ lo.extractLsb' 2 6 = 0
/-- The first virtual address of a cached entry, and the number of addresses it covers (R66, R72). -/
abbrev coveredFrom (x : TlbEntry) : Nat := x.index * pageSize x.level
/-- Does a cached entry meet `n` addresses from `va`? -/
abbrev Meets (x : TlbEntry) (va n : Nat) : Prop := n ≠ 0 ∧ coveredFrom x < va + n ∧ va < coveredFrom x + pageSize x.level
/-- Does a cached entry translate an address of a context? -/
abbrev Translates (y : TlbEntry) (ctxid : BitVec 16) (va : Nat) : Prop :=
  y.ctxid = ctxid ∧ coveredFrom y ≤ va ∧ va < coveredFrom y + pageSize y.level
/-- Did a pending store of the warp use one of the cached entries that `gone` selects (R73, R223)? -/
abbrev usedGone (s : State) (gone : TlbEntry → Bool) (x : Warp) : Bool :=
  x.stnt.any fun st => st.any fun p => s.tlb.any fun y => gone y && decide (Translates y x.ctxid p.va.toNat)
/-- A TLBINV discards exactly the cached entries that `gone` selects, and what the field caches hold by them; it performs every
pending store of the warps of which one used such an entry, one warp after another and each in order, and touches nothing
else: no other byte, no scratchpad and no cell, and no register or other part of any warp. It waits only where such a store
must wait for another agent (R157, R166, R283). -/
def Invalidates (i : Instr) (s : State) (w : Warp) (gone : TlbEntry → Bool) : Prop :=
  let users := s.warps.filter fun x => usedGone s gone x.2.2
  let after := fun (x : Warp) => if usedGone s gone x then { x with stnt := [] } else x
  (∀ x ∈ users, ∀ st ∈ x.2.2.stnt, ∀ p ∈ st, s.poisoned p.addr p.data.length = false ∧
    ∀ ln ∈ linesOf p.addr p.data.length, s.writeHeld ln = false ∧ activeReq s (towerOf x.1) ln = none ∧
      ∀ r ∈ ((s.line ln).bank (towerOf x.1)).reqs, r.served = false) →
  ∃ t w', Issued i s t w w' ∧ w' = { after w with frags := w'.frags } ∧ (∀ j, j ≠ s.cur.entry → w'.frag j = w.frag j) ∧
    (∀ c k, (c ≠ s.cur.core ∨ k ≠ s.cur.slot) → t.warp c k = (s.warp c k).map after) ∧
    (∀ x, x ∈ t.tlb ↔ x ∈ s.tlb ∧ gone x = false) ∧
    (∀ y ∈ t.fields, y ∈ s.fields ∧ ∀ x ∈ s.tlb, gone x = true → ¬ Translates x y.ctxid y.va) ∧
    (∀ a, t.byte a = (lastAt (users.flatMap fun x => pendPlaced x.2.2.stnt) .phys a).getD (s.byte a)) ∧
    ∀ c, (t.core c).scr = (s.core c).scr ∧ (t.core c).cells = (s.core c).cells ∧ (t.core c).full = (s.core c).full
/-- The context that a TLBINV names by s[opa] is live and has the entry. -/
abbrev liveEntry (s : State) (w : Warp) (f : Fields) (x : TlbEntry) : Bool :=
  (s.ctxSlot (sr s w f.opa.toNat).toNat).isSome && decide (x.ctxid.toNat = (sr s w f.opa.toNat).toNat)

/-- Bytes at consecutive physical addresses. -/
abbrev bytesAt (a : Nat) (bs : List Byte) : List (Space × Nat × Byte) :=
  (List.range bs.length).map fun i => (.phys, a + i, (bs[i]?).getD 0)
/-- The black box has one record more, and no other byte of memory changed (R425). -/
structure Recorded (s t : State) (type src ctxid payload : Nat) : Prop where
  seq : t.pkg.bbseq = s.pkg.bbseq + 1
  mem : ∀ a, t.byte a = (lastAt (bytesAt (0x1000 + 64 * (s.pkg.bbseq.toNat % 4096))
    (leBytes 48 payload ++ leBytes 2 ctxid ++ leBytes 1 src ++ leBytes 1 type ++ leBytes 4 s.pkg.bbseq.toNat ++
      leBytes 8 s.pkg.gtime)) .phys a).getD (s.byte a)

/-- The warp, fragment or workgroup target of R394: the context, the tag, the split-table entry. -/
abbrev tgtCtx (x : W64) : BitVec 16 := x.extractLsb' 32 16
abbrev tgtTag (x : W64) : W32 := x.extractLsb' 0 32
abbrev tgtEntry (x : W64) : Nat := (x.extractLsb' 48 3).toNat
/-- The .hwm form of WRESUME names a bound that R396 takes. -/
abbrev HwmOk (s : State) (w : Warp) (f : Fields) (x : Warp) : Prop :=
  f.minor.getLsbD 1 = true → (sr s w f.opc.toNat).toNat % 256 = 0 ∧
    (seg x 2).base.toNat + (sr s w f.opc.toNat).toNat * x.width ≤ 2 ^ 56
/-- What the warp has on its way can be performed now: none of its non-temporal stores is poisoned or has to wait (R166), and it
has no CFGWR pending. -/
abbrev Settleable (s : State) (w : Warp) : Prop := PendFree s s.cur.core w.stnt ∧ w.cfgs = []
/-- The issuing warp's pending stores are performed, in order, and nothing else is stored (R409). -/
structure SettledBefore (s t : State) (w : Warp) : Prop where
  mem : ∀ a, t.byte a = (lastAt (pendPlaced w.stnt) .phys a).getD (s.byte a)
  cores : ∀ c, (t.core c).scr = (s.core c).scr ∧ (t.core c).cells = (s.core c).cells ∧ (t.core c).full = (s.core c).full
/-- The registers of WRESUME's target: HWM under .hwm, every other as before. -/
abbrev HwmSet (s : State) (w : Warp) (f : Fields) (x x' : Warp) : Prop :=
  x'.r = { x.r with hwm := if f.minor.getLsbD 1 then sr s w f.opc.toNat else x.r.hwm }

/-- A live warp that a target names has its workgroup `g`, which is not the issuing warp's, with no on-chip map store pending
that could reach the issuing warp; and the issuing warp has no map load still to read that could read the target's registers. -/
structure Target (s : State) (w : Warp) (x : W64) (g : Workgroup) : Prop where
  names : targetGroup s (tgtCtx x) (tgtTag x) = some g
  layout : x.extractLsb' 48 16 = 0
  other : g.id ≠ w.wg
  maps : ∀ y ∈ s.warps, y.2.2.wg = g.id → y.2.2.maps = []
  loads : ∀ fr ∈ w.frags, fr.loads = []
/-- Nothing of a workgroup is left on a core or in a directory. -/
structure Gone (t : State) (wg : Nat) : Prop where
  warps : ∀ x ∈ t.warps, x.2.2.wg ≠ wg
  tiles : ∀ x ∈ t.tiles, x.wg ≠ wg
  locks : ∀ x ∈ t.locks, x.2 ≠ wg

/-- What an access of a size to the register window names, after the checks of R413. -/
structure Window (s : State) (w : Warp) (f : Fields) (r : MmioReg) (p : MmioPart) : Prop where
  inside : scalarAt s w f < 2 ^ 32
  aligned : scalarAt s w f % (if f.minor = 1 then 8 else 4) = 0
  listed : mmioPart (scalarAt s w f) (if f.minor = 1 then 8 else 4) = some (r, p)

end Sys2Proof.Claims

/-- R73, R78: SEGLD writes a segment register of its warp, and SEGLD.w of a warp of its core that holds a stopped fragment, from
operands without reserved bits that describe a segment within its bound. TLBINV discards exactly the cached translations
that its variant names, in the whole package, and none of a context that is not live; it performs, in order, the pending
stores of the warps that used them, and changes nothing else. (Model's readings: logs 11, 56, 88) -/
def Obligations.SegmentsAndTlb : Prop :=
  (∀ f s w, Ready (.segld f) s w → active s w f ≠ 0 → SegWord (sr s w f.opb.toNat) →
    SegFits (f.dst.toNat % 8) w.width (segFrom (sr s w f.opb.toNat) (sr s w f.opa.toNat)) →
    ∃ t w', Completes (.segld f) s t w w' ∧ w'.r =
      { w.r with g := w.r.g.set (f.dst.toNat % 8) (segFrom (sr s w f.opb.toNat) (sr s w f.opa.toNat)) }) ∧
  (∀ f s w x, Ready (.segldW f) s w → active s w f ≠ 0 → SegWord (sr s w f.opb.toNat) →
    let slot := (sr s w f.opc.toNat).toNat
    slot < 128 → s.warp s.cur.core slot = some x → (∃ fr ∈ x.frags, fr.st = .stopped) →
    (∀ g, g = segFrom (sr s w f.opb.toNat) (sr s w f.opa.toNat) → SegFits (f.dst.toNat % 8) x.width g ∧ SegFits (f.dst.toNat % 8) 1 g) →
    ∃ t w' x', Issued (.segldW f) s t w w' ∧ StoresKept s t ∧ t.warp s.cur.core slot = some x' ∧
      x' = { x with r := x'.r, frags := x'.frags } ∧
      x'.r = { x.r with g := x.r.g.set (f.dst.toNat % 8) (segFrom (sr s w f.opb.toNat) (sr s w f.opa.toNat)) } ∧
      (slot ≠ s.cur.slot → w'.r = w.r ∧ x'.frags = x.frags) ∧
      ∀ c k, (c ≠ s.cur.core ∨ (k ≠ slot ∧ k ≠ s.cur.slot)) → t.warp c k = s.warp c k) ∧
  (∀ f s w, Ready (.tlbinvAll f) s w → active s w f ≠ 0 → Invalidates (.tlbinvAll f) s w (fun _ => true)) ∧
  (∀ f s w, Ready (.tlbinvCtx f) s w → active s w f ≠ 0 → (sr s w f.opa.toNat).toNat < 2 ^ 16 →
    Invalidates (.tlbinvCtx f) s w (liveEntry s w f)) ∧
  (∀ f s w, let va := (sr s w f.opb.toNat).toNat
    Ready (.tlbinvPage f) s w → active s w f ≠ 0 → (sr s w f.opa.toNat).toNat < 2 ^ 16 → va < 2 ^ 56 →
    Invalidates (.tlbinvPage f) s w (fun x => liveEntry s w f x && decide (Meets x va 1))) ∧
  ∀ f s w, let va := (sr s w f.opb.toNat).toNat
    let n := (sr s w f.opc.toNat).toNat
    Ready (.tlbinvRange f) s w → active s w f ≠ 0 → (sr s w f.opa.toNat).toNat < 2 ^ 16 → va < 2 ^ 56 → va + n ≤ 2 ^ 56 →
    Invalidates (.tlbinvRange f) s w (fun x => liveEntry s w f x && decide (Meets x va n))

/-- R395 to R397, R403, R405, R406: FRQACK acknowledges n records and gives the count of the others; WRESUME makes a stopped
fragment ready at its own PC, the given one or the next, or restarts a warp's held operations, once the issuing warp's stores
are performed, and refuses a supervisor warp's with 0x02; WKILL and WKILL.ctx leave nothing of their targets; CTXSAVE gives 3, 2, 1 or 0, and saves with 0; CTXSAVE.ctx counts those it did not save; HALTC and
HALTC.go set and end a context's halt. (Model's readings: logs 51, 52, 53, 87) -/
def Obligations.Supervisor : Prop :=
  (∀ f s w, Ready (.frqack f) s w → active s w f ≠ 0 → ShadowsFit s w [f.dst.toNat] →
    let i := (sr s w f.opa.toNat).toNat
    let n := (sr s w f.opb.toNat).toNat
    let head := s.num (s.descAddr i + 12) 4
    let fill := (s.num (s.descAddr i + 16) 4 + 2 ^ 32 - head) % 2 ^ 32
    i < 64 → s.ctxValid i = true → n ≤ fill → s.storeHeld (s.descAddr i + 12) 4 = false →
    ∃ t w', Ran (.frqack f) s t w w' ∧ OnlyS s w w' f.dst.toNat (BitVec.ofNat 64 (fill - n)) 0 ∧
      ∀ a, t.byte a = (lastAt (bytesAt (s.descAddr i + 12) (leBytes 4 ((head + n) % 2 ^ 32))) .phys a).getD (s.byte a)) ∧
  (∀ f s w core slot x, let tgt := sr s w f.opa.toNat
    Ready (.wresume f) s w → active s w f ≠ 0 → Settleable s w → tgt.extractLsb' 51 13 = 0 →
    targetWarp s (tgtCtx tgt) (tgtTag tgt) = some (core, slot, x) → s.ctxSup x.cslot = false → x.heldPCs = [] →
    (x.frag (tgtEntry tgt)).st = .stopped →
    (∀ r ∈ (s.core core).records, ¬ (r.wtag = x.tag ∧ r.ctxid = x.ctxid ∧ r.frag = tgtEntry tgt)) → HwmOk s w f x →
    (f.minor.getLsbD 0 = true → pcValid (sr s w f.opb.toNat) = true) →
    ∃ t w' x', Issued (.wresume f) s t w w' ∧ w'.stnt = [] ∧ SettledBefore s t w ∧
      targetWarp t (tgtCtx tgt) (tgtTag tgt) = some (core, slot, x') ∧ HwmSet s w f x x' ∧
      (x'.frag (tgtEntry tgt)).st = .ready ∧ (x'.frag (tgtEntry tgt)).run = [] ∧
      (x'.frag (tgtEntry tgt)).pc = (if f.minor.getLsbD 0 then sr s w f.opb.toNat
        else if f.minor.getLsbD 2 then nextPC (x.frag (tgtEntry tgt)).pc else (x.frag (tgtEntry tgt)).pc) ∧
      (x'.frag (tgtEntry tgt)).exm = (x.frag (tgtEntry tgt)).exm ∧ (x'.frag (tgtEntry tgt)).mem = (x.frag (tgtEntry tgt)).mem ∧
      ∀ j, j ≠ tgtEntry tgt → (core = s.cur.core ∧ slot = some s.cur.slot ∧ j = s.cur.entry) ∨ x'.frag j = x.frag j) ∧
  (∀ f s w core slot x, let tgt := sr s w f.opa.toNat
    Ready (.wresume f) s w → active s w f ≠ 0 → Settleable s w → tgt.extractLsb' 51 13 = 0 → (frag s w).byHeld = none →
    targetWarp s (tgtCtx tgt) (tgtTag tgt) = some (core, slot, x) → kernelOnly s x = false → x.heldPCs ≠ [] →
    (∀ r ∈ (s.core core).records, ¬ (r.wtag = x.tag ∧ r.ctxid = x.ctxid ∧ r.pc ∈ x.heldPCs ∧ (r.unit = 4 ∨ r.unit = 5))) →
    HwmOk s w f x → f.minor.getLsbD 0 = false → f.minor.getLsbD 2 = false →
    ∃ t w' x', Issued (.wresume f) s t w w' ∧ w'.stnt = [] ∧ SettledBefore s t w ∧
      targetWarp t (tgtCtx tgt) (tgtTag tgt) = some (core, slot, x') ∧ HwmSet s w f x x' ∧
      x'.m = { x.m with held := false, resumed := x.m.resumed || x.m.held } ∧ x'.trv.length = x.trv.length ∧
      (∀ o ∈ x'.trv, ∀ b, o.phase ≠ .held b) ∧
      ∀ j, j < x.frags.length → (core = s.cur.core ∧ slot = some s.cur.slot ∧ j = s.cur.entry) ∨
        ((x'.frag j).pc = (x.frag j).pc ∧ (x'.frag j).exm = (x.frag j).exm ∧
          (x'.frag j).st = ((x.frag j).byHeld).getD (x.frag j).st)) ∧
  (∀ f s w core slot x, let tgt := sr s w f.opa.toNat
    Ready (.wresume f) s w → active s w f ≠ 0 → tgt.extractLsb' 51 13 = 0 →
    targetWarp s (tgtCtx tgt) (tgtTag tgt) = some (core, slot, x) → kernelOnly s x = true →
    ∃ t y, exec (.wresume f) s = .next t ∧ Faulted s t w y ∧ y.cause = 2) ∧
  (∀ f s w g, Ready (.wkill f) s w → active s w f ≠ 0 → Target s w (sr s w f.opa.toNat) g →
    (∀ x ∈ s.warps, x.2.2.wg = g.id → kernelOnly s x.2.2 = false) →
    ∃ t w', Issued (.wkill f) s t w w' ∧ w'.r = w.r ∧ Gone t g.id ∧ (∀ x ∈ t.images, x.wg ≠ g.id) ∧
      (∀ x, x ∈ t.groups ↔ x ∈ s.groups ∧ x.id ≠ g.id) ∧
      ∀ c, ∀ r ∈ (t.core c).records, ∀ x ∈ s.warps, x.2.2.wg = g.id → x.1 = c → ¬ (r.wtag = x.2.2.tag ∧ r.ctxid = x.2.2.ctxid)) ∧
  (∀ f s w c, let id := (tgtCtx (sr s w f.opa.toNat)).toNat
    Ready (.wkillCtx f) s w → active s w f ≠ 0 → (sr s w f.opa.toNat).toNat = id * 2 ^ 32 → id ≠ w.ctxid.toNat →
    s.ctxSlot id = some c → c < s.ctxs.length → (∀ g ∈ s.groups, g.cslot = c → g.id ≠ w.wg) →
    (∀ g ∈ s.groups, g.cslot = c → ∀ x ∈ s.warps, x.2.2.wg = g.id → x.2.2.maps = []) → (∀ fr ∈ w.frags, fr.loads = []) →
    (∀ x ∈ s.warps, x.2.2.cslot = c → kernelOnly s x.2.2 = false) →
    ∃ t w', Issued (.wkillCtx f) s t w w' ∧ w'.r = w.r ∧ (∀ g ∈ s.groups, g.cslot = c → Gone t g.id) ∧
      (∀ g, g ∈ t.groups ↔ g ∈ s.groups ∧ ∀ h ∈ s.groups, h.cslot = c → g.id ≠ h.id) ∧
      (t.ctx c).tasks = [] ∧ (t.ctx c).batches = [] ∧ (t.ctx c).pushes = [] ∧ (∀ x ∈ t.watches, x.cslot ≠ c) ∧ ∀ x ∈ t.binds, x.cslot ≠ c) ∧
  (∀ f s w g, Ready (.ctxsave f) s w → active s w f ≠ 0 → Target s w (sr s w f.opa.toNat) g → ShadowsFit s w [f.dst.toNat] →
    (g.saved = true →
      ∃ t w', Ran (.ctxsave f) s t w w' ∧ StoresKept s t ∧ OnlyS s w w' f.dst.toNat 2 0) ∧
    (g.saved = false → (∃ x ∈ s.warps, x.2.2.wg = g.id ∧ ∃ fr ∈ x.2.2.frags, fr.st = .stopped) →
      ∃ t w', Ran (.ctxsave f) s t w w' ∧ StoresKept s t ∧ OnlyS s w w' f.dst.toNat 3 0) ∧
    (g.saved = false → (∀ x ∈ s.warps, x.2.2.wg = g.id → ∀ fr ∈ x.2.2.frags, fr.st ≠ .stopped) →
      (roomFor s g = false →
        ∃ t w', Issued (.ctxsave f) s t w w' ∧ StoresKept s t ∧ OnlyS s w w' f.dst.toNat 1 0 ∧ t.images = s.images) ∧
      (roomFor s g = true → commandsHold s g = false → s.wgroup g.id = some g →
        (∀ x ∈ s.warps, x.2.2.wg = g.id → x.2.2.stnt = [] ∧ x.2.2.trv = [] ∧ x.2.2.cfgs = [] ∧ x.2.2.fbs = []) →
        (∀ ln ∈ linesOf (s.ctx g.cslot).svbase.toNat ((s.ctx g.cslot).svsize.toNat * 65536), s.writeHeld ln = false) →
        ∃ t w' im, Issued (.ctxsave f) s t w w' ∧ OnlyS s w w' f.dst.toNat 0 0 ∧ (∀ x ∈ t.warps, x.2.2.wg ≠ g.id) ∧
          im ∈ t.images ∧ im.wg = g.id ∧ im.whole = true ∧ t.wgroup g.id = some { g with saved := true } ∧
          (s.members g.id).length ≤ im.warps.length))) ∧
  (∀ f s w c u n, let id := (tgtCtx (sr s w f.opa.toNat)).toNat
    let gs := s.groups.filter fun g => g.cslot == c && !g.saved && g.ended != g.nw
    Ready (.ctxsaveCtx f) s w → active s w f ≠ 0 → (sr s w f.opa.toNat).toNat = id * 2 ^ 32 → id ≠ w.ctxid.toNat →
    s.ctxSlot id = some c → (∀ g ∈ gs, g.id ≠ w.wg ∧ s.wgroup g.id = some g) →
    (∀ x ∈ s.warps, (∃ g ∈ gs, x.2.2.wg = g.id) → x.2.2.maps = []) → (∀ fr ∈ w.frags, fr.loads = []) → ShadowsFit s w [f.dst.toNat] →
    evictAll s (gs.map fun g => g.id) = (u, n, false) →
    (∃ t w', Issued (.ctxsaveCtx f) s t w w' ∧ OnlyS s w w' f.dst.toNat (BitVec.ofNat 64 n) 0 ∧ t.images = u.images ∧
      (∀ a, t.byte a = u.byte a)) ∧ n ≤ gs.length ∧
    ((∀ g ∈ gs, ∃ x ∈ s.warps, x.2.2.wg = g.id ∧ ∃ fr ∈ x.2.2.frags, fr.st = .stopped) → n = gs.length ∧ u = s)) ∧
  ∀ f s w c, ∀ i ∈ [(.haltc f, true), (.haltcGo f, false)], Ready i.1 s w → active s w f ≠ 0 →
    (sr s w f.opa.toNat).toNat < 2 ^ 16 → s.ctxSlot (sr s w f.opa.toNat).toNat = some c → c < s.ctxs.length →
    ∃ t w', Ran i.1 s t w w' ∧ StoresKept s t ∧ w'.r = w.r ∧ t.ctx c = { s.ctx c with halted := i.2 } ∧
      ∀ j, j ≠ c → t.ctx j = s.ctx j

/-- R84, R389, R392, R413, R414, R425: CFGRD gives the register that its offset names, after every earlier write of the warp;
CFGWR leaves its write pending after them. FAULT_RECORD_POST writes a warp's oldest record into its context's queue and
counts frqtail, with the interrupt when the queue was empty; a supervisor warp's record, and one of a context without a usable
queue, becomes an event of the black box, with its interrupt; a full queue keeps the record in its core.
(Model's readings: logs 13, 14, 16, 22, 25, 86) -/
def Obligations.WindowAndRecords : Prop :=
  (∀ f s w r p, let u := performCfgs s s.cur.core s.cur.slot
    Ready (.cfgrd f) s w → active s w f ≠ 0 → Window s w f r p → ShadowsFit s w [f.dst.toNat] →
    ∃ t w', Ran (.cfgrd f) s t w w' ∧ OnlyS s w w' f.dst.toNat (BitVec.ofNat 64 (mmioRead u r p)) 0 ∧
      w'.cfgs = [] ∧ (∀ a, t.byte a = u.byte a) ∧ (w.cfgs = [] → StoresKept s t)) ∧
  (∀ f s w r p, Ready (.cfgwr f) s w → active s w f ≠ 0 → Window s w f r p →
    let size := if f.minor = 1 then 8 else 4
    ∃ t w', Ran (.cfgwr f) s t w w' ∧ StoresKept s t ∧ w' = { w with frags := w'.frags, cfgs := w.cfgs ++
      [⟨scalarAt s w f, size, BitVec.ofNat 64 ((sr s w f.opb.toNat).toNat % 2 ^ (8 * size))⟩] }) ∧
  ∀ core idx s r, s.pkg.powered = true → s.tableHeld = false → (s.core core).records[idx]? = some r → r.cause ≠ 0x15 →
    (∀ x ∈ (s.core core).records.take idx, ¬ (x.wtag = r.wtag ∧ x.ctxid = r.ctxid)) →
    let q := s.faultQueue r.cslot
    (s.ctxSup r.cslot = true →
      ∃ t, exec (.faultRecordPost core idx) s = .next t ∧ Recorded s t 1 r.phys r.ctxid.toNat (r.encode 0) ∧
        t.pkg.supIrq = true ∧ (t.core core).records = (s.core core).records.eraseIdx idx) ∧
    (s.ctxSup r.cslot = false → q.usable = false →
      ∃ t, exec (.faultRecordPost core idx) s = .next t ∧ Recorded s t 1 r.phys r.ctxid.toNat (r.encode 0) ∧
        r.cslot ∈ t.pkg.irq ∧ (t.core core).records = (s.core core).records.eraseIdx idx) ∧
    (s.ctxSup r.cslot = false → q.usable = true → (s.ctx r.cslot).damaged = false → q.fill < q.cap →
      s.storeHeld (q.base + 64 * (q.tail % q.cap)) 64 = false → s.storeHeld (s.descAddr r.cslot + 16) 4 = false →
      ∃ t, exec (.faultRecordPost core idx) s = .next t ∧
        (t.core core).records = (s.core core).records.eraseIdx idx ∧ t.pkg.bbseq = s.pkg.bbseq ∧
        (∀ c, c ∈ t.pkg.irq ↔ c ∈ s.pkg.irq ∨ (c = r.cslot ∧ q.fill = 0)) ∧
        ∀ a, t.byte a = (lastAt (bytesAt (q.base + 64 * (q.tail % q.cap)) (leBytes 64 (r.encode s.pkg.gtime)) ++
          bytesAt (s.descAddr r.cslot + 16) (leBytes 4 ((q.tail + 1) % 2 ^ 32))) .phys a).getD (s.byte a)) ∧
    (s.ctxSup r.cslot = false → q.usable = true → (s.ctx r.cslot).damaged = false → q.cap ≤ q.fill →
      exec (.faultRecordPost core idx) s = .next s)

/-! ### The register window, the role of a layer, and the monitors -/

namespace Sys2Proof.Claims
open Sys2Proof.Machine

/-- Does the state have the register: its tower, queue, context, comb, core, monitor, entry or bin? -/
def present (s : State) : MmioReg → Prop
  | .trole t => t < s.towers.length
  | .mcoinr t => t < s.towers.length
  | .llen t c => t < s.towers.length ∧ c < (s.tower t).llen.length
  | .svbase i => i < s.ctxs.length
  | .svsize i => i < s.ctxs.length
  | .ecbase c => c < s.combs.length
  | .ecsize c => c < s.combs.length
  | .xplim p => p < s.cores.length
  | .monMin m => m < s.monitors.length
  | .monMax m => m < s.monitors.length
  | .monBin m b => m < s.monitors.length ∧ b < (s.monitor m).bins.length
  | _ => True
/-- What a register reads after the value v is written to it, for those whose write changes nothing but the register
(R163, R233, R316, R403, R411, R426): read-only ones and refused values leave it as it was. -/
def written (s : State) (r : MmioReg) (v : Nat) : Option Nat :=
  let old := mmioValue s r
  match r with
  | .gtime => some old
  | .lcstate => some old
  | .bbseq => some old
  | .qhead _ _ => some old
  | .ecdone _ => some old
  | .linkid => some (v % 64)
  | .cdtbase => some (v % 2 ^ 64 / 4096 * 4096)
  | .mcoinr _ => some (if v % 4096 = 0 then old else v % 4096)
  | .llen _ c => some (if c = 0 ∨ v = 0 ∨ 2 ^ 20 < v then old else v)
  | .svbase _ => some (v % 2 ^ 64 / 65536 * 65536)
  | .svsize _ => some (v % 65536)
  | .ecbase c => some (if v % 4096 ≠ 0 ∨ (s.comb c).chain ≠ [] then old else v % 2 ^ 64)
  | .ecsize c => some (if 10 < v ∨ (s.comb c).chain ≠ [] then old else v)
  | .xplim _ => some (if 768 < v % 1024 then old else v % 1024)
  | .monMin _ => some (v % 2 ^ 32)
  | .monMax _ => some (v % 2 ^ 32)
  | .monBin _ _ => some (v % 2 ^ 32)
  | _ => none
/-- A write of a register that changes no other register, and no byte of memory. -/
structure WroteOne (i : Instr) (s t : State) (r : MmioReg) (v : Nat) : Prop where
  next : exec i s = .next t
  value : some (mmioValue t r) = written s r v
  others : ∀ r', r' ≠ r → mmioValue t r' = mmioValue s r'
  mem : ∀ a, t.byte a = s.byte a
/-- A queue after a write that left it `x`: one that the scheduler finds beyond its capacity is disabled, with its event (R364,
R425); every other queue stays. -/
structure QueueSet (i : Instr) (s t : State) (cslot queue : Nat) (x : Queue) : Prop where
  next : exec i s = .next t
  beyond : s.placing cslot = true ∧ x.en = true ∧ x.capacity < x.fill →
    (t.ctx cslot).queue queue = { x with en := false, err := true } ∧
      Recorded s t 7 0xFF (s.ctxId cslot) (cslot + 64 * queue + 1024 * 3)
  fits : ¬ (s.placing cslot = true ∧ x.en = true ∧ x.capacity < x.fill) →
    (t.ctx cslot).queue queue = x ∧ ∀ a, t.byte a = s.byte a
  others : ∀ j r, (j ≠ cslot ∨ r ≠ queue) → (t.ctx j).queue r = (s.ctx j).queue r
/-- The tower's role register after a write, every other tower as before. -/
structure TowerSet (i : Instr) (s t : State) (tower : Nat) (x : Tower) : Prop where
  next : exec i s = .next t
  tower_ : t.tower tower = x
  others : ∀ j, j ≠ tower → t.tower j = s.tower j
  mem : ∀ a, t.byte a = s.byte a
/-- A new ktarget is accepted (R51): no change is under way, it is a legal count one above or below the present one, and a layer
that is to leave the compute role is idle. -/
abbrev Accepted (s : State) (tower k : Nat) : Prop :=
  (s.tower tower).changing = none ∧ k ≤ 3 ∧ (k + 1 = (s.tower tower).k ∨ k = (s.tower tower).k + 1) ∧
    (k < (s.tower tower).k → layerIdle s tower (4 - (s.tower tower).k) = true)
/-- The physical positions of a layer (R47). -/
abbrev onLayer (tower j c : Nat) : Prop := c / 32 = 4 * tower + j
/-- The storage of a core reads zero, its granules are empty and it holds no warp (R53). -/
abbrev Zeroed (k : Core) : Prop := k.scr = [] ∧ k.full = [] ∧ k.cells = [] ∧ ∀ slot : Nat, (k.slots[slot]?).getD none = none

end Sys2Proof.Claims

/-- R50 to R53: TROLE_KTARGET begins a change for an accepted target and sets err for another; TROLE_DMASK and TROLE_ERR_CLEAR
write their fields; ROLE_CHANGE performs the three steps of a change: flushing a falling layer, zeroing a rising one, and the
re-enumeration with its epoch and event. R163, R233, R316, R364, R403, R411, R412, R426, R427: writes of the other registers,
by events of their own and by REGISTER_WRITE, whole and by halves; MONITOR_CLEAR and MONITOR_SAMPLE.
(Model's readings: logs 58, 59, 61) -/
def Obligations.RegisterWrites : Prop :=
  (∀ s tower k clear, s.pkg.powered = true → tower < 2 → tower < s.towers.length → k < 8 →
    let w := s.tower tower
    let x : Tower := { w with err := w.err && !clear }
    let now := match w.changing with
      | some (_, n) => n
      | none => w.k
    ∃ t, TowerSet (.troleKtarget tower k clear) s t tower
      (if k = now then x
       else if Accepted s tower k then { x with changing := some (if k < w.k then 4 - w.k else 3 - w.k, k), step := 1 }
       else { x with err := true })) ∧
  (∀ s tower m, s.pkg.powered = true → tower < 2 → tower < s.towers.length →
    ∃ t, TowerSet (.troleDmask tower m) s t tower { s.tower tower with dmask := BitVec.ofNat 4 m }) ∧
  (∀ s tower, s.pkg.powered = true → tower < 2 → tower < s.towers.length →
    ∃ t, TowerSet (.troleErrClear tower) s t tower { s.tower tower with err := false }) ∧
  (∀ s tower j new, s.pkg.powered = true → tower < 2 → tower < s.towers.length → (s.tower tower).changing = some (j, new) →
    ((s.tower tower).step = 1 → ∃ t, TowerSet (.roleChange tower) s t tower { s.tower tower with step := 2 } ∧
      (new < (s.tower tower).k → (∀ c, c < 256 → onLayer tower j c → Zeroed (t.core c)) ∧
        ∀ ln, ∀ h ∈ ((t.line ln).bank tower).near, ¬ onLayer tower j h.core) ∧
      (∀ c, c < 256 → ¬ (new < (s.tower tower).k ∧ onLayer tower j c) → c < s.cores.length → t.core c = s.core c)) ∧
    ((s.tower tower).step = 2 → ∃ t, TowerSet (.roleChange tower) s t tower { s.tower tower with step := 3 } ∧
      ((s.tower tower).k ≤ new → ∀ c, c < 256 → onLayer tower j c → Zeroed (t.core c)) ∧
      (∀ c, c < 256 → ¬ ((s.tower tower).k ≤ new ∧ onLayer tower j c) → c < s.cores.length → t.core c = s.core c)) ∧
    ((s.tower tower).step = 3 → ∃ t, exec (.roleChange tower) s = .next t ∧
      t.tower tower = { s.tower tower with
        k := new, changing := none, step := 0, dmask := (s.tower tower).dmask &&& ~~~(BitVec.ofNat 4 (2 ^ j)),
        pts := (t.tower tower).pts } ∧ (s.tower tower).pts ≤ (t.tower tower).pts ∧
      t.pkg.epoch = s.pkg.epoch + 1 ∧
      Recorded s t 4 0xFF 0 (tower + 4 * (s.tower tower).k + 32 * new + 2 ^ 16 * (s.pkg.epoch + 1).toNat))) ∧
  (∀ s cslot queue (v : W64), s.pkg.powered = true → cslot < 64 → queue < 16 → cslot < s.ctxs.length →
    queue < (s.ctx cslot).queues.length →
    (((v.extractLsb' 8 4).toNat < 13 ∧ v.extractLsb' 4 4 = 0) → ∃ t, QueueSet (.qctlWrite cslot queue v) s t cslot queue
      { (s.ctx cslot).queue queue with
        base := v.extractLsb' 12 52, size := v.extractLsb' 8 4, pri := v.extractLsb' 1 2, en := v.getLsbD 0,
        err := ((s.ctx cslot).queue queue).err && !v.getLsbD 3 }) ∧
    (¬ ((v.extractLsb' 8 4).toNat < 13 ∧ v.extractLsb' 4 4 = 0) → exec (.qctlWrite cslot queue v) s = .next s) ∧
    (∃ t, QueueSet (.qctlErrClear cslot queue) s t cslot queue { (s.ctx cslot).queue queue with err := false }) ∧
    ∀ host (x : W32), (host = true → s.pkg.hostLink = true ∧ s.ctxSup cslot = false) →
      ∃ t, QueueSet (.qtailWrite host cslot queue x) s t cslot queue { (s.ctx cslot).queue queue with tail := x }) ∧
  (∀ s tower cls v, s.pkg.powered = true → tower < 2 → present s (.llen tower cls) →
    ∃ t, WroteOne (.llenWrite tower cls v) s t (.llen tower cls) v.toNat) ∧
  (∀ s tower v, s.pkg.powered = true → tower < 2 → present s (.mcoinr tower) →
    ∃ t, WroteOne (.mcoinrWrite tower v) s t (.mcoinr tower) v.toNat) ∧
  (∀ s core v, s.pkg.powered = true → present s (.xplim core) →
    ∃ t, WroteOne (.xplimWrite core v) s t (.xplim core) v.toNat) ∧
  (∀ s comb v, s.pkg.powered = true → present s (.ecbase comb) →
    ∃ t, WroteOne (.ecbaseWrite comb v) s t (.ecbase comb) v.toNat) ∧
  (∀ s comb v, s.pkg.powered = true → present s (.ecsize comb) →
    ∃ t, WroteOne (.ecsizeWrite comb v) s t (.ecsize comb) v.toNat) ∧
  (∀ s writer offset size val r p, s.pkg.powered = true → mmioPart offset size = some (r, p) → present s r →
    (writer = .host → 0x10000 ≤ offset ∧ offset < 0x50000 ∧ s.pkg.hostLink = true ∧ s.ctxSup ((offset - 0x10000) / 0x1000) = false) →
    (writer = .supervisorWarp → ∃ x ∈ s.warps, s.ctxSup x.2.2.cslot = true) →
    let old := mmioValue s r
    let v := match p with
      | .whole => val.toNat % 2 ^ (8 * size)
      | .low => old / 2 ^ 32 * 2 ^ 32 + val.toNat % 2 ^ 32
      | .high => val.toNat % 2 ^ 32 * 2 ^ 32 + old % 2 ^ 32
    ((written s r v).isSome = true → ∃ t, WroteOne (.registerWrite writer offset size val) s t r v) ∧
    (∀ i q, r = .qctl i q → p = .whole → i < 64 → q < 16 →
      exec (.registerWrite writer offset size val) s = exec (.qctlWrite i q val) s) ∧
    (∀ i q, r = .qtail i q → i < 64 → q < 16 →
      exec (.registerWrite writer offset size val) s = exec (.qtailWrite false i q (val.setWidth 32)) s) ∧
    (∀ j, r = .trole j → j < 2 →
      let w := s.tower j
      let x : Tower := { w with err := w.err && !val.getLsbD 28, dmask := val.extractLsb' 20 4 }
      let k := (val.extractLsb' 0 3).toNat
      let now := match w.changing with
        | some (_, n) => n
        | none => w.k
      ∃ t, TowerSet (.registerWrite writer offset size val) s t j
        (if k = now then x
         else if Accepted s j k then { x with changing := some (if k < w.k then 4 - w.k else 3 - w.k, k), step := 1 }
         else { x with err := true })) ∧
    (r = .bootst → exec (.registerWrite writer offset size val) s =
      .next (if writer = .management ∧ val.getLsbD 0 = true then { s with pkg := { s.pkg with bootStep := 1 } } else s)) ∧
    (∀ m, r = .monCtl m → m < s.monitors.length → ∃ t, exec (.registerWrite writer offset size val) s = .next t ∧
      t.monitor m = (let y : Monitor := { s.monitor m with
          en := val.getLsbD 31, src := val.extractLsb' 16 8, scope := val.extractLsb' 8 8, sub := val.extractLsb' 4 4 }
        let x : Monitor := { y with seen := if y = { s.monitor m with en := true } then y.seen else [] }
        if val.getLsbD 30 then { x with mmin := 0xFFFFFFFF, mmax := 0, bins := List.replicate 16 0 } else x))) ∧
  (∀ s m, s.pkg.powered = true → m < s.monitors.length → ∃ t, exec (.monitorClear m) s = .next t ∧
    t.monitor m = { s.monitor m with mmin := 0xFFFFFFFF, mmax := 0, bins := List.replicate 16 0 } ∧
    ∀ j, j ≠ m → t.monitor j = s.monitor j) ∧
  ∀ s m v, s.pkg.powered = true → m < s.monitors.length → sampleFits (s.monitor m) v = true →
    (s.monitor m).bins.length = 16 → ∃ t, exec (.monitorSample m v) s = .next t ∧
    (t.monitor m).seen = (s.monitor m).seen.drop 1 ∧
    (t.monitor m).mmin.toNat = min (s.monitor m).mmin.toNat v ∧
    (t.monitor m).mmax.toNat = min 0xFFFFFFFF (max (s.monitor m).mmax.toNat v) ∧
    (∀ b, b < 16 → ((t.monitor m).bins[b]?.getD 0).toNat =
      let c := ((s.monitor m).bins[b]?.getD 0).toNat
      if (b = 0 ∧ v = 0) ∨ (0 < b ∧ 2 ^ (b - 1) ≤ v ∧ (v < 2 ^ b ∨ b = 15)) then min 0xFFFFFFFF (c + 1) else c) ∧
    (∀ j, j ≠ m → t.monitor j = s.monitor j) ∧ ∀ a, t.byte a = s.byte a

/-! ### Tokens and leases -/

namespace Sys2Proof.Claims
open Sys2Proof.Machine

/-- The tokens of a line in a core's tower (R153). -/
abbrev bankOf (s : State) (core line : Nat) : TokenBank := (s.line line).bank (towerOf core)
/-- A tower's tokens of a line are 128 in all, at home, in near caches and in flight (R153); the home has at least one when it
has the owner token, no core is listed twice, and no message is empty. -/
structure BankOk (b : TokenBank) : Prop where
  total : b.home + (b.near.map fun h => h.tokens).sum + (b.msgs.map fun m => m.tokens).sum = 128
  home : b.homeOwner = true → 1 ≤ b.home
  cores : (b.near.map fun h => h.core).Nodup
  msgs : ∀ m ∈ b.msgs, 1 ≤ m.tokens
/-- A step on one line's tokens of one tower: every byte, and every other line, as before. -/
structure TokenStep (i : Instr) (s t : State) (tower line : Nat) (b : TokenBank) : Prop where
  next : exec i s = .next t
  bank : (t.line line).bank tower = b
  others : ∀ ln, ln ≠ line → t.line ln = s.line ln
  rest : t = { s with lines := t.lines, pers := t.pers }
/-- The bank after a request is noted and no persistent request stands before it. -/
abbrev noted (s : State) (b : TokenBank) (core : Nat) (write : Bool) : TokenBank :=
  { b with reqs := (b.reqs.filter fun x => x.core != core) ++ [⟨core, write, 0, false, (s.tower (towerOf core)).clock, false, false⟩] }
/-- A core asks anew for a line: it may act, it has no request for the line, and lacks what it asks for. -/
structure Asks (s : State) (core line : Nat) (write : Bool) : Prop where
  live : nearLive s core line = true
  new : ∀ r ∈ (bankOf s core line).reqs, r.core ≠ core
  lacks : ∀ h, (bankOf s core line).held core = some h → h.data = false ∨ h.tokens < if write then 128 else 1
  alone : activeReq s (towerOf core) line = none

/-- The memory of the device's own that programs reach: a line of it, and its tower. -/
abbrev homeOf (line : Nat) : Nat := (homeTower (line * 128)).getD 0
/-- A tower's copy may be used: its lease runs in logical time, and that of an outside home in global time too (R161, R166). -/
abbrev Valid (s : State) (tower : Nat) (c : Proxy) : Prop :=
  (s.tower tower).pts ≤ c.rts ∧ ∀ x, c.pexp = some x → s.pkg.gtime ≤ x
/-- An outside agent stands where the homes grant it anything, and may act on the line (R159, R167, R393). -/
abbrev Granted (s : State) (a : Agent) (line : Nat) : Prop := s.granting a = true ∧ s.reachable a line = true
/-- The line's times after an action at its home, with the slice's base moved where an offset would not fit (R165). -/
abbrev timesAre (s t : State) (line wts rts : Nat) : Prop :=
  let b := spGet 0 s.bases (sliceOf (line * 128))
  let b' := if max wts rts - b > 0xFFFFFF then max wts rts - 2 ^ 23 else b
  t.times line = (max wts b', max rts b')

end Sys2Proof.Claims

/-- R153 to R158 and R283: token counting. READ_REQUEST, WRITE_REQUEST, READ_REPLY, WRITE_REPLY, FORWARDED_READ, EVICTION, RECALL,
TRANSIENT_TIMEOUT, PERSISTENT_REQUEST and PERSISTENT_REQUEST_END move tokens only as R155 and R157 say, and none of them loses
or duplicates a token of the line. (Model's readings: log 40) -/
def Obligations.TokenMoves : Prop :=
  (∀ s core line, ∀ i ∈ [.readRequest core line, .writeRequest core line, .readReply core line, .writeReply core line,
      .forwardedRead core line, .eviction core line, .transientTimeout core line, .persistentRequest core line],
    BankOk (bankOf s core line) →
    ∃ t b, TokenStep i s t (towerOf core) line b ∧ BankOk b) ∧
  (∀ s core line, (∀ ln tower, tower < 2 → BankOk ((s.line ln).bank tower)) →
    ∃ t, exec (.persistentRequestEnd core line) s = .next t ∧ t = { s with lines := t.lines, pers := t.pers } ∧
      ∀ ln tower, tower < 2 → BankOk ((t.line ln).bank tower)) ∧
  (∀ s tower line, tower < 2 → BankOk ((s.line line).bank tower) → ∃ t b, TokenStep (.recall tower line) s t tower line b ∧ BankOk b) ∧
  (∀ s core line, let b := bankOf s core line
    Asks s core line false →
    (b.homeOwner = true → 2 ≤ b.home → ∃ t, TokenStep (.readRequest core line) s t (towerOf core) line
      { noted s b core false with home := b.home - 1, msgs := b.msgs ++ [⟨some core, 1, false, true⟩] }) ∧
    (b.homeOwner = true → b.home = 1 → ∃ t, TokenStep (.readRequest core line) s t (towerOf core) line
      { noted s b core false with
        home := 0, homeOwner := false, sentTo := some core, msgs := b.msgs ++ [⟨some core, 1, true, true⟩] }) ∧
    (b.homeOwner = false → ∀ h, b.sentTo = some h → ∃ t, TokenStep (.readRequest core line) s t (towerOf core) line
      { noted s b core false with fwd := b.fwd ++ [(h, core)] })) ∧
  (∀ s core line, let b := bankOf s core line
    Asks s core line true → (b.near.map fun h => h.core).Nodup → (∀ h ∈ b.near, 1 ≤ h.tokens) →
    ∃ t, TokenStep (.writeRequest core line) s t (towerOf core) line { noted s b core true with
      home := 0, homeOwner := false, sentTo := if b.homeOwner then some core else b.sentTo,
      near := b.near.filter fun h => h.core == core,
      msgs := b.msgs ++ ((b.near.filter fun h => h.core != core).map fun h => ⟨some core, h.tokens, h.owner, h.owner⟩) ++
        if b.home = 0 then [] else [⟨some core, b.home, b.homeOwner, b.homeOwner⟩] }) ∧
  (∀ s core line write k m, let b := bankOf s core line
    s.pkg.powered = true → b.firstTo (some core) = some k → b.msgs[k]? = some m → (∀ r, b.req core = some r → r.write = write) →
    activeReq s (towerOf core) line = none → (b.near.map fun h => h.core).Nodup →
    ∃ t b', TokenStep (if write then .writeReply core line else .readReply core line) s t (towerOf core) line b' ∧
      b'.msgs = b.msgs.eraseIdx k ∧
      b'.held core = some (match b.held core with
        | some h => { h with tokens := h.tokens + m.tokens, owner := h.owner || m.owner, data := h.data || m.data }
        | none => ⟨core, m.tokens, m.owner, m.data⟩) ∧
      (∀ c, c ≠ core → b'.held c = b.held c) ∧
      ∀ r, b.req core = some r → r.persistent = false →
        b'.req core = if b'.satisfied r then none else some r) ∧
  (∀ s core line k h, let b := bankOf s core line
    s.pkg.powered = true → findIdxFrom (fun x => x.2 == core) 0 b.fwd = some k → b.fwd[k]? = some (h, core) →
    (b.near.map fun x => x.core).Nodup →
    (∀ x, b.held h = some x → x.owner = true → 2 ≤ x.tokens → activeReq s (towerOf core) line ≠ some h →
      ∃ t b', TokenStep (.forwardedRead core line) s t (towerOf core) line b' ∧ b'.fwd = b.fwd.eraseIdx k ∧
        b'.held h = some { x with tokens := x.tokens - 1 } ∧ b'.msgs = b.msgs ++ [⟨some core, 1, false, true⟩]) ∧
    ((∀ x, b.held h = some x → x.owner = false ∨ x.tokens < 2 ∨ activeReq s (towerOf core) line = some h) →
      ∃ t, TokenStep (.forwardedRead core line) s t (towerOf core) line { b with fwd := b.fwd.eraseIdx k })) ∧
  (∀ s core line, let b := bankOf s core line
    s.pkg.powered = true →
    (∀ h, b.held core = some h → 1 ≤ h.tokens → ∃ t, TokenStep (.eviction core line) s t (towerOf core) line { b with
      near := b.near.filter fun x => x.core != core,
      msgs := b.msgs ++ [⟨activeReq s (towerOf core) line, h.tokens, h.owner, h.owner⟩] }) ∧
    (∀ k m, b.held core = none → b.firstTo none = some k → b.msgs[k]? = some m → activeReq s (towerOf core) line = none →
      ∃ t, TokenStep (.eviction core line) s t (towerOf core) line { b with
        msgs := b.msgs.eraseIdx k, home := b.home + m.tokens, homeOwner := b.homeOwner || m.owner })) ∧
  (∀ s tower line, let b := (s.line line).bank tower
    s.pkg.powered = true → tower < 2 → (b.near.map fun h => h.core).Nodup → (∀ h ∈ b.near, 1 ≤ h.tokens ∧ towerOf h.core = tower) →
    ∃ t, TokenStep (.recall tower line) s t tower line { b with
      near := [], msgs := b.msgs ++ b.near.map (fun h => ⟨activeReq s tower line, h.tokens, h.owner, h.owner⟩) }) ∧
  (∀ s core line r, let b := bankOf s core line
    s.pkg.powered = true → b.req core = some r → r.persistent = false → b.satisfied r = false →
    (r.held = true → exec (.transientTimeout core line) s = .next s) ∧
    (r.held = false → activeReq s (towerOf core) line = none → r.since + 256 ≤ (s.tower (towerOf core)).clock →
    ∃ t b', TokenStep (.transientTimeout core line) s t (towerOf core) line b' ∧ b'.held core = b.held core ∧
      b'.req core = some (if r.tries = 3 then { r with tries := 4, persistent := true }
        else { r with tries := r.tries + 1, since := (s.tower (towerOf core)).clock, served := false }))) ∧
  (∀ s core line r, let b := bankOf s core line
    s.pkg.powered = true → b.req core = some r → r.persistent = true → (∀ p ∈ s.pers, ¬ (p.core = core ∧ p.line = line)) →
    ∃ t b', TokenStep (.persistentRequest core line) s t (towerOf core) line b' ∧
      t.pers = s.pers ++ [⟨reqSlice (towerOf core) line, line, core⟩] ∧
      ((b.near.map fun h => h.core).Nodup → ∀ c, activeReq t (towerOf core) line = some c →
        b'.home = 0 ∧ (∀ h ∈ b'.near, h.core = c) ∧ b'.held c = b.held c)) ∧
  ∀ s core line r, let b := bankOf s core line
    s.pkg.powered = true → b.req core = some r → activeReq s (towerOf core) line = some core → b.satisfied r = true →
    ∃ t, exec (.persistentRequestEnd core line) s = .next t ∧ t = { s with lines := t.lines, pers := t.pers } ∧
      (∀ p, p ∈ t.pers ↔ p ∈ s.pers ∧ ¬ (p.core = core ∧ p.line = line)) ∧
      (activeReq t (towerOf core) line = none → (∀ x ∈ b.reqs, x.core ≠ core → x.held = false) →
        bankOf t core line = { b with reqs := b.reqs.filter fun x => x.core != core }) ∧
      ∀ ln c, reqSlice (towerOf core) ln = reqSlice (towerOf core) line → activeReq t (towerOf core) ln = some c →
        (bankOf t core ln).home = 0 ∧ ∀ h ∈ (bankOf t core ln).near, h.core = c

/-- R159 to R168: leases. A read gives its reader the line's write time and ends the read lease after its own time and length; a
store and a grant of ownership come after the lease, and after every outside lease is dead; a returned line carries its
owner's write time. An agent whose time differs by more than 2 µs, or that reports none for 50 µs, is time-lost and the lines
it owns are poisoned; AMNESTY ends that. (Model's readings: logs 2, 28, 79) -/
def Obligations.Leases : Prop :=
  (∀ s tower line cls, s.pkg.powered = true → tower < 2 → tower < s.towers.length → cls < 8 → homeLine line = true →
    homeTower (line * 128) ≠ some tower → s.readHeld line = false →
    (cls = 0 ∨ ∀ c, (s.line line).proxy tower = some c → ¬ Valid s tower c) →
    let wts := (s.times line).1
    let rts := (s.times line).2
    let r := max rts (max (s.tower tower).pts wts + if cls = 0 then 0 else s.leaseLen tower cls)
    ∃ t, exec (.leaseRead (.tower tower) line cls) s = .next t ∧ timesAre s t line wts r ∧
      (t.tower tower).pts = max (s.tower tower).pts wts ∧
      (t.line line).proxy tower = (if cls = 0 then none else some ⟨wts, r, none, none⟩) ∧ ∀ a, t.byte a = s.byte a) ∧
  (∀ s tower line cls c, s.pkg.powered = true → tower < 2 → tower < s.towers.length → cls < 8 → cls ≠ 0 → homeLine line = true →
    homeTower (line * 128) ≠ some tower → s.readHeld line = false → (s.line line).proxy tower = some c → Valid s tower c →
    ∃ t, exec (.leaseRead (.tower tower) line cls) s = .next t ∧ t.lines = s.lines ∧
      (t.tower tower).pts = max (s.tower tower).pts c.wts ∧ ∀ a, t.byte a = s.byte a) ∧
  (∀ s a line cls, isOutside a = true → Granted s a line → s.readHeld line = false →
    let wts := (s.times line).1
    let rts := (s.times line).2
    let len := outLen s a line cls
    ∃ t, exec (.leaseRead a line cls) s = .next t ∧ timesAre s t line wts (max rts (max (s.agent a).pts wts + len)) ∧
      (t.agent a).pts = max (s.agent a).pts wts ∧ (len ≠ 0 → ∃ x ∈ (t.line line).leases, x.agent = a ∧ s.pkg.gtime + len ≤ x.pexp ∧
        ∀ y ∈ (s.line line).leases, y.agent = a → y.pexp ≤ x.pexp) ∧
      (∀ y ∈ (s.line line).leases, y.agent ≠ a → y ∈ (t.line line).leases) ∧ ∀ x, t.byte x = s.byte x) ∧
  (∀ s n addr data, let line := lineOf addr
    n < 64 → Granted s (.peer n) line → data ≠ [] → lineOf (addr + data.length - 1) = line → s.writeHeld line = false →
    line ∉ s.poison →
    let w := max (s.agent (.peer n)).pts ((s.times line).2 + 1)
    ∃ t, exec (.leaseStore (.peer n) addr data) s = .next t ∧ timesAre s t line w w ∧ (t.agent (.peer n)).pts = w ∧
      (t.line line).bank0.near = [] ∧ (t.line line).bank1.near = [] ∧ (t.line line).dirty = true ∧
      ∀ x, t.byte x = (lastAt (bytesAt addr data) .phys x).getD (s.byte x)) ∧
  (∀ s a line, isOutside a = true → Granted s a line → line ∉ s.poison →
    (s.writeHeld line = true → (s.line line).owner ≠ some a → ∃ t, exec (.ownershipRequest a line) s = .next t ∧
      a ∈ (t.line line).wanted ∧ (t.line line).owner = (s.line line).owner ∧ ∀ x, t.byte x = s.byte x) ∧
    (s.writeHeld line = false → (s.line line).wanted = [] →
      let w := max (s.agent a).pts ((s.times line).2 + 1)
      ∃ t, exec (.ownershipRequest a line) s = .next t ∧ (t.line line).owner = some a ∧ (t.line line).leases = [] ∧
        timesAre s t line w w ∧ (t.agent a).pts = w ∧ (t.line line).bank0.near = [] ∧ (t.line line).bank1.near = [] ∧
        ∀ x, t.byte x = s.byte x)) ∧
  (∀ s a line wts data, s.granting a = true → (s.line line).owner = some a → data.length = 128 → (s.line line).wanted = [] →
    let w := max (s.times line).1 wts
    ∃ t, exec (.lineReturn a line wts data) s = .next t ∧ (t.line line).owner = none ∧
      timesAre s t line w (max (s.times line).2 w) ∧
      ∀ x, t.byte x = (lastAt (bytesAt (line * 128) data) .phys x).getD (s.byte x)) ∧
  (∀ s line, s.pkg.powered = true → s.writeHeld line = false →
    ∃ t, exec (.outsideLeaseExpiry line) s = .next t ∧ (t.line line).leases = [] ∧ (∀ x, t.byte x = s.byte x) ∧
      (∀ a rest, (s.line line).wanted = a :: rest → (s.agent a).lost = none → s.pkg.reaches a = true →
        (t.line line).owner = some a)) ∧
  (∀ s a time, s.pkg.powered = true → isOutside a = true →
    (s.pkg.gtime ≤ time + 2000 → time ≤ s.pkg.gtime + 2000 →
      ∃ t, exec (.timeReport a time) s = .next t ∧ t.agent a = { s.agent a with last := s.pkg.gtime } ∧ ∀ x, t.byte x = s.byte x) ∧
    ((time + 2000 < s.pkg.gtime ∨ s.pkg.gtime + 2000 < time) → (s.agent a).lost = none →
      ∃ t, exec (.timeReport a time) s = .next t ∧ (t.agent a).lost = some s.pkg.gtime ∧
        (∀ ln, (s.line ln).owner = some a → (t.line ln).owner = none ∧ ln ∈ t.poison) ∧
        ((∀ ln, (s.line ln).owner ≠ some a) → Recorded s t 3 0xFF 0 (agentNumber a + 256)))) ∧
  (∀ s a, s.pkg.powered = true → isOutside a = true → holdsAny s a = true → (s.agent a).last + 50000 ≤ s.pkg.gtime →
    (s.agent a).lost = none →
    ∃ t, exec (.timeReportTimeout a) s = .next t ∧ (t.agent a).lost = some s.pkg.gtime ∧
      (∀ ln, (s.line ln).owner = some a → (t.line ln).owner = none ∧ ln ∈ t.poison) ∧
      ((∀ ln, (s.line ln).owner ≠ some a) → Recorded s t 3 0xFF 0 (agentNumber a))) ∧
  (∀ s a d, s.pkg.powered = true → (s.agent a).lost = some d →
    ∃ t, exec (.timeLostExpiry a) s = .next t ∧ (∀ x, t.byte x = s.byte x) ∧
      ∀ ln, (t.line ln).leases = (s.line ln).leases.filter fun l => l.agent != a || s.leaseLive ln l) ∧
  (∀ s a d, s.pkg.powered = true → (s.agent a).lost = some d →
    ∃ t, exec (.amnesty a) s = .next t ∧ t.agent a = { s.agent a with lost := none, last := s.pkg.gtime } ∧
      (∀ x, t.byte x = s.byte x) ∧ ∀ ln, (t.line ln).leases = (s.line ln).leases.filter fun l => l.agent != a) ∧
  ∀ s a, s.pkg.powered = true → isOutside a = true →
    exec (.timeReportSend a) s = .next { s with reply := leBytes 8 s.pkg.gtime }

/-! ### Copy engines -/

namespace Sys2Proof.Claims
open Sys2Proof.Machine

/-- The head of a comb's chain, performed as GO wrote it: its ring entry still holds its words (R198). -/
structure Head (s : State) (comb : Nat) (c : EngCmd) (rest : List EngCmd) : Prop where
  powered : s.pkg.powered = true
  comb_ : comb < s.combs.length
  chain : (s.comb comb).chain = c :: rest
  cancel : c.cancel = false
/-- The head's run after an access, everything else of the comb as before. -/
abbrev HeadRun (s t : State) (comb : Nat) (c : EngCmd) (rest : List EngCmd) (r : EngRun) : Prop :=
  t.comb comb = { s.comb comb with chain := { c with run := some r } :: rest }
/-- The bytes of row `j` of plane `p` that an engine writes: the pattern of a fill, else the row it has read (R196). -/
abbrev rowData (c : EngCmd) (r : EngRun) : List Byte :=
  if c.kind = 1 then (List.range c.rowBytes).map fun i => BitVec.ofNat 8 (c.wd 7 / 256 ^ (i % 8))
  else if c.kind = 2 then r.buf.drop 4 else r.buf
/-- The destination granule that the next piece of a run lies in, as the engine numbers it (R197). -/
abbrev pieceGranule (c : EngCmd) (r : EngRun) : Nat := (c.granuleBase + wrapInt 64 ((c.dstRow r.plane r.row : Int) + r.pos)) / 16
/-- The next piece is the last of its granule, and no earlier one was put aside. -/
abbrev Alone (c : EngCmd) (r : EngRun) : Prop :=
  c.laterMeets r.plane r.row (pieceGranule c r) = false ∧ spGet ([], 0) r.pend (pieceGranule c r) = ([], 0)
/-- The command left its comb's chain and is the last completed; its granules have no producer, and its flags and its error
reached the warp that issued it (R122, R198, R199, R200). -/
structure Retired (s t : State) (comb : Nat) (c : EngCmd) (rest : List EngCmd) (flags : Nat) (err : Option Nat) : Prop where
  comb_ : t.comb comb = { s.comb comb with chain := rest, ecdone := c.seq }
  prod : ∀ core g, spGet none (t.core core).prod g = if spGet none (s.core core).prod g = some (c.id comb) then none
    else spGet none (s.core core).prod g
  warp : ∀ p k w, s.findWarp c.ctxid c.wtag = some (p, k, w) → (t.warp p k).map (fun x => (x.r, x.stg)) =
    some ({ w.r with flags := w.r.flags ||| BitVec.ofNat 14 flags },
      { w.stg with err := match err with
        | some cause => some (w.stg.err.getD (cause, c.seq))
        | none => w.stg.err })
  mem : ∀ a, t.byte a = s.byte a

end Sys2Proof.Claims

/-- R181, R196 to R200, R204: a copy engine takes the head of its comb's chain; a malformed command, one whose record GO could
not read and one whose barrier address fails its check are in error, one of no bytes is done. It reads rows and writes them a granule at a
time, a granule that later rows meet when the last of them has reached it; what it writes in a scratchpad becomes full. Completion and error completion take the command off the chain and make
its step on its barrier; a cancelled command leaves without one. (Model's readings: logs 30, 82) -/
def Obligations.EngineSteps : Prop :=
  (∀ s comb c rest, Head s comb c rest → c.run = none → (∀ ln ∈ ringLines s comb c, s.readHeld ln = false) →
    (List.range 8).map (fun i => BitVec.ofNat 64 (s.num ((s.comb comb).ecbase.toNat + 64 * c.ringSlot + 8 * i) 8)) = c.words →
    ∃ t r, exec (.engineCommandStart comb) s = .next t ∧ HeadRun s t comb c rest r ∧ (∀ a, t.byte a = s.byte a) ∧
      r.written = 0 ∧ r.row = 0 ∧ r.plane = 0 ∧ r.pos = 0 ∧ r.buf = [] ∧ r.pend = [] ∧
      (c.bad = true → r.failed = some 0x0D) ∧
      (c.bad = false → ∀ x, c.forkErr = some x → r.failed = some x) ∧
      (c.bad = false → c.forkErr = none → (c.cv = true → c.record.isSome = true) →
        (∀ x, c.bv = true → segCheck c.g1 c.bar 32 true = some x → r.failed = some x) ∧
        ((c.bv = true → segCheck c.g1 c.bar 32 true = none) → r.failed = none ∧
          (r.done = true ↔ c.n1 = 0 ∨ c.n2 = 0 ∨ c.rowBytes = 0)))) ∧
  (∀ s comb c rest r, Head s comb c rest → c.run = some r → r.done = false → r.failed = none → r.writing = true →
    c.dsp = 1 → (rowData c r).length = c.rowBytes → r.pos < c.rowBytes → c.core < s.cores.length → Alone c r →
    let off := wrapInt 64 ((c.dstRow r.plane r.row : Int) + r.pos)
    let a := c.g1.base.toNat + off
    let n := min (16 - a % 16) (c.rowBytes - r.pos)
    (segCheck c.g1 off n true = none → a + n ≤ 2 ^ 23 →
      ∃ t r', exec (.engineCommandStart comb) s = .next t ∧ HeadRun s t comb c rest r' ∧ (∀ x, t.byte x = s.byte x) ∧
        r'.written = r.written + n ∧ r'.failed = none ∧ spGet ([], 0) r'.pend (a / 16) = ([], 0) ∧
        (r.pos + n < c.rowBytes → r' = { r with pos := r.pos + n, written := r.written + n, pend := r'.pend }) ∧
        (r.pos + n = c.rowBytes → r'.pos = 0 ∧ r'.writing = decide (c.kind = 1) ∧
          (r'.done = true ↔ c.n1 ≤ r.row + 1 ∧ c.n2 ≤ r.plane + 1)) ∧
        (∀ x, spGet 0 (t.core c.core).scr x = if a ≤ x ∧ x < a + n then (rowData c r)[r.pos + (x - a)]?.getD 0
          else spGet 0 (s.core c.core).scr x) ∧
        (∀ g, g ∈ (t.core c.core).full ↔ g ∈ (s.core c.core).full ∨ g = a / 16) ∧
        spGet none (t.core c.core).prod (a / 16) = if spGet none (s.core c.core).prod (a / 16) = some (c.id (combOf c.core)) then none
          else spGet none (s.core c.core).prod (a / 16)) ∧
    (∀ x, segCheck c.g1 off n true = some x →
      ∃ t, exec (.engineCommandStart comb) s = .next t ∧ HeadRun s t comb c rest { r with failed := some x } ∧
        (∀ x, t.byte x = s.byte x) ∧ (t.core c.core).scr = (s.core c.core).scr)) ∧
  (∀ s comb c rest r, Head s comb c rest → c.run = some r → r.done = false → r.failed = none → r.writing = true →
    c.dsp = 1 → (rowData c r).length = c.rowBytes → r.pos < c.rowBytes → c.core < s.cores.length →
    let off := wrapInt 64 ((c.dstRow r.plane r.row : Int) + r.pos)
    let n := min (16 - (c.g1.base.toNat + off) % 16) (c.rowBytes - r.pos)
    let got := addBytes (spGet ([], 0) r.pend (pieceGranule c r)) off (((rowData c r).drop r.pos).take n)
    (c.laterMeets r.plane r.row (pieceGranule c r) = true →
      ∃ t r', exec (.engineCommandStart comb) s = .next t ∧ HeadRun s t comb c rest r' ∧ (∀ x, t.byte x = s.byte x) ∧
        t.cores = s.cores ∧ r'.written = r.written ∧ spGet ([], 0) r'.pend (pieceGranule c r) = got) ∧
    (c.laterMeets r.plane r.row (pieceGranule c r) = false →
      (∀ y ∈ runsOf got.1, segCheck c.g1 y.1 y.2.length true = none ∧ c.g1.base.toNat + y.1 + y.2.length ≤ 2 ^ 23) →
      ∃ t r', exec (.engineCommandStart comb) s = .next t ∧ HeadRun s t comb c rest r' ∧ (∀ x, t.byte x = s.byte x) ∧
        r'.written = r.written + got.2 ∧ spGet ([], 0) r'.pend (pieceGranule c r) = ([], 0) ∧
        (∀ x, spGet 0 (t.core c.core).scr x = (lastAt ((runsOf got.1).flatMap fun y => (List.range y.2.length).map fun i =>
          (.scr c.core, c.g1.base.toNat + y.1 + i, (y.2[i]?).getD 0)) (.scr c.core) x).getD (spGet 0 (s.core c.core).scr x)) ∧
        ∀ g, g ∈ (t.core c.core).full ↔ g ∈ (s.core c.core).full ∨
          ∃ y ∈ runsOf got.1, y.2 ≠ [] ∧ (c.g1.base.toNat + y.1) / 16 ≤ g ∧ g ≤ (c.g1.base.toNat + y.1 + y.2.length - 1) / 16)) ∧
  (∀ s comb c rest r u, Head s comb c rest → c.run = some r → r.done = false → r.failed = none → r.writing = true →
    c.dsp = 0 → Alone c r → (rowData c r).length = c.rowBytes → r.pos < c.rowBytes →
    let a := wrapInt 64 ((c.dstRow r.plane r.row : Int) + r.pos)
    let n := min (16 - a % 16) (c.rowBytes - r.pos)
    (∀ ps, devResolve s (c.ctx 310) .wr a n = (u, .ok ps) →
      ∃ t r', exec (.engineCommandStart comb) s = .next t ∧ HeadRun s t comb c rest r' ∧ r'.written = r.written + n ∧
        ∀ x, t.byte x = (lastAt (placed ps (((rowData c r).drop r.pos).take n)) .phys x).getD (s.byte x)) ∧
    (∀ x va, devResolve s (c.ctx 310) .wr a n = (u, .bad x va) →
      ∃ t, exec (.engineCommandStart comb) s = .next t ∧ HeadRun s t comb c rest { r with failed := some x } ∧
        ∀ x, t.byte x = s.byte x)) ∧
  (∀ s comb c rest r u ps, Head s comb c rest → c.run = some r → r.done = false → r.failed = none → r.writing = false →
    c.cv = false → c.kind = 0 → c.ssp = 0 → r.buf.length < c.n0 →
    let a := wrapInt 64 ((c.srcRow r.plane r.row : Int) + r.buf.length)
    let n := min (16 - a % 16) (c.n0 - r.buf.length)
    devResolve s (c.ctx 330) .rd a n = (u, .ok ps) →
    let z := touchLoads u (.l2 (towerOf c.core)) ps
    let buf := r.buf ++ ps.flatMap fun p => z.seen (towerOf c.core) p.addr p.len
    ∃ t, exec (.engineCommandStart comb) s = .next t ∧ (∀ x, t.byte x = s.byte x) ∧
      HeadRun s t comb c rest (if c.n0 ≤ buf.length then { r with buf := buf, writing := true, pos := 0 } else { r with buf := buf })) ∧
  (∀ s comb c rest r, Head s comb c rest → c.run = some r → r.done = true → r.failed = none → c.core < s.cores.length →
    ∃ t, exec (.engineCommandComplete comb) s = .next t ∧ Retired s t comb c rest r.flags none ∧
      (c.bv = true → c.bar % 32 = 0 → segCheck c.g1 c.bar 32 true = none →
        let at_ := c.g1.base.toNat + c.bar
        let b := leNat (s.scrBytes c.core at_ 32)
        Settled b (leNat (t.scrBytes c.core at_ 32)) (barExp b) (barArr b) ((barBytes b + (2 ^ 64 - r.written % 2 ^ 64)) % 2 ^ 64)
          (barRdr b) (barAccf b)) ∧
      (c.bv = false → ∀ p, (t.core p).scr = (s.core p).scr)) ∧
  (∀ s comb c rest r cause, Head s comb c rest → c.run = some r → r.failed = some cause → c.core < s.cores.length →
    ∃ t, exec (.engineErrorCompletion comb) s = .next t ∧ Retired s t comb c rest r.flags (some cause) ∧
      (∀ p g, spGet none (s.core p).prod g = some (c.id comb) → g ∈ (t.core p).orphan) ∧
      (c.bv = true → c.bar % 32 = 0 → segCheck c.g1 c.bar 32 true = none →
        let at_ := c.g1.base.toNat + c.bar
        let b := leNat (s.scrBytes c.core at_ 32)
        let b' := leNat (t.scrBytes c.core at_ 32)
        barPz b' = true ∧ barPhase b' = barPhase b ∧ barArr b' = barArr b ∧
          barBytes b' = (barBytes b + (2 ^ 64 - r.written % 2 ^ 64)) % 2 ^ 64) ∧
      (c.bv = false → ∀ p, (t.core p).scr = (s.core p).scr)) ∧
  ∀ s comb c rest, s.pkg.powered = true → comb < s.combs.length → (s.comb comb).chain = c :: rest → c.cancel = true →
    ∃ t, exec (.engineCommandCancel comb) s = .next t ∧ t.comb comb = { s.comb comb with chain := rest, ecdone := c.seq } ∧
      (∀ p g, spGet none (s.core p).prod g = some (c.id comb) → spGet none (t.core p).prod g = none ∧ g ∈ (t.core p).orphan) ∧
      (∀ p, (t.core p).scr = (s.core p).scr) ∧ ∀ a, t.byte a = s.byte a

/-! ### From launch to core -/

namespace Sys2Proof.Claims
open Sys2Proof.Machine

/-- Every resident warp stays as it was, but for the times since when its fragments are ready and whether they have aged since,
which a line that is fetched may change (R369, R370). -/
abbrev WarpsStay (s t : State) : Prop := ∀ c k w, s.warp c k = some w → ∃ w', t.warp c k = some w' ∧
  w' = { w with frags := w'.frags } ∧ ∀ j, w'.frag j = { w.frag j with since := (w'.frag j).since, aged := (w'.frag j).aged }
/-- A workgroup of a launch started on a core (R345, R178, R374): its record, its zeroed area, and in slots that were free its
warps, each at the entry with its registers as R345 says; the core's tower has reached the logical time that its accesses
follow; every resident warp and every byte of memory stays. -/
structure Started (s t : State) (l : Launch) (x : Start) (core : Nat) : Prop where
  group : ∃ base, findArea s core l.area = some base ∧
    t.groups = s.groups ++ [⟨s.seq, l.id, l.cslot, x.kind, x.pri, core, base, l.area, x.nw, s.seq, 0, false, [], [], []⟩] ∧
    (∀ a, base ≤ a → a < base + l.area → spGet 0 (t.core core).scr a = 0) ∧
    ∀ i, i < x.nw → ∃ slot w, s.warp core slot = none ∧ t.warp core slot = some w ∧ w.wg = s.seq ∧ w.idx = i ∧
      w.width = l.width ∧ w.launch = l.id ∧ w.cslot = l.cslot ∧ w.ctxid.toNat = s.ctxId l.cslot % 2 ^ 16 ∧ w.ended = 0 ∧
      (w.frag 0).pc = x.entry ∧ (w.frag 0).mem = fullMask l.width ∧ (w.frag 0).exm = fullMask l.width ∧
      (∀ j, 0 < j → j < 8 → (w.frag j).st = .free) ∧
      w.r.v = [] ∧ w.r.k = [] ∧ w.r.flags = 0 ∧ w.r.hwm = l.hwm ∧ w.r.xgrant = l.regs ∧ w.r.iter = x.iter ∧
      w.r.g = x.segs.set 1 ⟨BitVec.ofNat 64 base, BitVec.ofNat 48 (l.area / 256), 0, false, true, decide (l.area ≠ 0)⟩ ∧
      ∀ n, spGet 0 w.r.s n = ((x.sregs.reverse.find? fun y => y.1 == n).map fun y => y.2).getD 0
  time : core / 128 < s.towers.length → max l.time x.time ≤ (t.tower (core / 128)).pts
  others : WarpsStay s t
  mem : ∀ a, t.byte a = s.byte a
/-- A core has its 128 warp slots. -/
abbrev Slots (s : State) (core : Nat) : Prop := core < s.cores.length ∧ (s.core core).slots.length = 128
/-- Every workgroup still to be placed of a persistent launch finds its core, one after another (R367). -/
def RoomForAll (id : Nat) : Nat → State → Prop
  | 0, _ => True
  | n + 1, s => ∃ l core, s.launch id = some l ∧ coreFor s l l.next = some core ∧ RoomForAll id n (placeNext s l core)
/-- The launch record of a queue's head, word by word (R365). -/
abbrev recordWord (s : State) (cslot queue n : Nat) : Nat :=
  let q := (s.ctx cslot).queue queue
  leNat (((s.bytes (q.base.toNat * 4096 + 64 * (q.head.toNat % (16 * 2 ^ q.size.toNat))) 64).drop (8 * n)).take 8)
/-- A queue from which the scheduler may take a record now (R364). -/
structure Takes (s : State) (cslot queue : Nat) : Prop where
  placing : s.placing cslot = true
  slot : cslot < s.ctxs.length ∧ queue < 16 ∧ queue < (s.ctx cslot).queues.length
  queue_ : let q := (s.ctx cslot).queue queue
    q.en = true ∧ q.current = none ∧ q.fill ≠ 0 ∧ q.fill ≤ q.capacity
  free : let q := (s.ctx cslot).queue queue
    ∀ ln ∈ linesOf (q.base.toNat * 4096 + 64 * (q.head.toNat % q.capacity)) 64, s.readHeld ln = false
  serial : (recordWord s cslot queue 4).testBit 39 = true →
    ∀ id, ((s.ctx cslot).queue queue).last = some id → s.launch id = none
/-- A record that R365 accepts. -/
abbrev RecordOk (s : State) (cslot queue : Nat) : Prop :=
  let w := recordWord s cslot queue
  bits (w 4) 63 41 = 0 ∧ bits (w 5) 63 32 = 0 ∧ bits (w 6) 63 40 = 0 ∧ w 7 = 0 ∧ bits (w 4) 31 0 ≠ 0 ∧ bits (w 4) 38 37 ≠ 3 ∧
    (bits (w 5) 31 0 = 0 → bits (w 6) 39 0 = 0)
/-- The state in which the record at a queue's head has been read at the L2 (R162). -/
abbrev headRead (s : State) (cslot queue : Nat) : State :=
  let q := (s.ctx cslot).queue queue
  (linesOf (q.base.toNat * 4096 + 64 * (q.head.toNat % q.capacity)) 64).foldl (fun s ln => s.touch (.l2 0) 0 ln) s
/-- A record refused (R365, R425): skipped, with its event. -/
abbrev Refused (s t : State) (cslot queue reason : Nat) : Prop :=
  exec (.launchTake cslot queue) s = .next t ∧
    (t.ctx cslot).queue queue = { (s.ctx cslot).queue queue with head := ((s.ctx cslot).queue queue).head + 1, err := true } ∧
    t.launches = s.launches ∧ Recorded s t 7 0xFF (s.ctxId cslot) (cslot + 64 * queue + 1024 * reason)

end Sys2Proof.Claims

/-- R345, R360, R364 to R368, R374, R379, R381, R402, R404: LAUNCH_TAKE takes or refuses the record at a queue's head;
WORKGROUP_PLACEMENT and TASK_START start a workgroup where R367 puts it; CONSUMER_DISPATCH hands over a batch; EVICTION_SAVE and
RESTORE move work to an image and back; WARP_END, WORKGROUP_END and LAUNCH_END release what ended.
(Model's readings: logs 18, 20, 50, 51) -/
def Obligations.WorkPlacement : Prop :=
  (∀ s cslot queue u u' head blk b, Takes s cslot queue → RecordOk s cslot queue →
    let w := recordWord s cslot queue
    devRead (headRead s cslot queue) (blockCtx s cslot) (w 1) 160 = (u, .ok head) → devRead u (blockCtx s cslot) (w 1) (blockLen head) = (u', .ok blk) →
    parseBlock blk (16 * 2 ^ bits (w 4) 38 37) = some b →
    blockRefused (groupTable b (bits (w 4) 31 0) (bits (w 4) 36 32 + 1)) (launchFrom u' cslot queue w b) = false →
    ∃ t l, exec (.launchTake cslot queue) s = .next t ∧ t.launches = s.launches ++ [l] ∧ (∀ a, t.byte a = s.byte a) ∧
      (t.ctx cslot).queue queue = { (s.ctx cslot).queue queue with
        head := ((s.ctx cslot).queue queue).head + 1, current := some l.id, last := some l.id } ∧
      l.id = s.seq ∧ l.time = u'.latestWrite ∧ l.cslot = cslot ∧ l.queue = queue ∧ l.entry = BitVec.ofNat 64 (w 0) ∧ l.home = BitVec.ofNat 64 (w 2) ∧
      l.hstr = BitVec.ofNat 64 (w 3) ∧ l.grid = bits (w 4) 31 0 ∧ l.nw = bits (w 4) 36 32 + 1 ∧
      l.width = 16 * 2 ^ bits (w 4) 38 37 ∧ l.pers = (w 4).testBit 40 ∧ l.pri = ((s.ctx cslot).queue queue).pri.toNat ∧
      l.kk = bits (w 5) 31 0 ∧ l.tiles = bits (w 6) 39 0 ∧ l.segs = b.segs ∧ l.sregs = b.sregs ∧ l.scr = b.scr ∧
      l.regs = b.regs ∧ l.cells = b.cells ∧ l.places = b.places ∧ l.next = 0) ∧
  (∀ s cslot queue, Takes s cslot queue →
    (¬ RecordOk s cslot queue → ∃ t, Refused s t cslot queue 0) ∧
    (RecordOk s cslot queue → ∀ u c va, devRead (headRead s cslot queue) (blockCtx s cslot) (recordWord s cslot queue 1) 160 = (u, .bad c va) →
      ∃ t, Refused s t cslot queue 2) ∧
    (RecordOk s cslot queue → ∀ u u' head blk,
      devRead (headRead s cslot queue) (blockCtx s cslot) (recordWord s cslot queue 1) 160 = (u, .ok head) →
      devRead u (blockCtx s cslot) (recordWord s cslot queue 1) (blockLen head) = (u', .ok blk) →
      (parseBlock blk (16 * 2 ^ bits (recordWord s cslot queue 4) 38 37) = none ∨
        ∃ b, parseBlock blk (16 * 2 ^ bits (recordWord s cslot queue 4) 38 37) = some b ∧
          blockRefused (groupTable b (bits (recordWord s cslot queue 4) 31 0) (bits (recordWord s cslot queue 4) 36 32 + 1))
            (launchFrom u' cslot queue (recordWord s cslot queue) b) = true) → ∃ t, Refused s t cslot queue 1)) ∧
  (∀ s cslot queue pri l core, nextWork s = some (pri, cslot * 17 + queue) → queue < 16 → queueLaunch s cslot queue = some l →
    l.pers = false → coreFor s l l.next = some core → Slots s core → 16 ≤ l.width →
    ∃ t, exec (.workgroupPlacement cslot queue) s = .next t ∧
      Started s t l ⟨.grid l.next, l.pri, l.nw, l.entry, l.segs, l.sregs, l.next * (l.tiles * l.kk) / l.grid, 0, []⟩ core ∧
      t.launch l.id = some { l with next := l.next + 1 } ∧ t.turns = s.turns.set pri (cslot * 17 + queue + 1)) ∧
  (∀ s cslot queue pri l, nextWork s = some (pri, cslot * 17 + queue) → queue < 16 → queueLaunch s cslot queue = some l →
    l.pers = true → l.next ≤ l.grid → RoomForAll l.id (l.grid - l.next) (s.giveTurn pri (cslot * 17 + queue)) →
    ∃ t, exec (.workgroupPlacement cslot queue) s = .next t ∧ t.launch l.id = some { l with next := l.grid } ∧
      t.groups.length = s.groups.length + (l.grid - l.next) ∧ (∀ g ∈ s.groups, g ∈ t.groups) ∧
      WarpsStay s t ∧ ∀ a, t.byte a = s.byte a) ∧
  (∀ s cslot idx pri e l x core, nextWork s = some (pri, cslot * 17 + 16) → poolNext s cslot pri = some idx →
    (poolOf s cslot)[idx]? = some e → entryStart s e = some (l, x, core) → Slots s core → 16 ≤ l.width → cslot < s.ctxs.length →
    ∃ t, exec (.taskStart cslot idx) s = .next t ∧ Started s t l x core ∧ t.turns = s.turns.set pri (cslot * 17 + 17) ∧
      (∀ p, e = .task p → x.kind = .task p.serial p.work ∧ x.entry = p.work.entry ∧ x.nw = p.work.nw ∧ x.segs = p.segs ∧ p.time ≤ x.time ∧
        x.sregs = [(0, p.work.arg), (1, BitVec.ofNat 64 p.serial)] ∧
        ((s.ctx cslot).pushes = [] →
          (t.ctx cslot).tasks = (s.ctx cslot).tasks.filter fun y => y.serial != p.serial)) ∧
      ∀ p, e = .batch p → x.kind = .batch ∧ x.time = p.time ∧ x.entry = p.entry ∧ x.nw = p.nw ∧
        x.sregs = [(0, p.carg), (1, p.queue), (2, p.first.setWidth 64), (3, BitVec.ofNat 64 p.count)] ∧
        (t.ctx cslot).batches = (s.ctx cslot).batches.filter fun y => y.order != p.order) ∧
  (∀ s idx b l, s.pkg.powered = true → s.binds[idx]? = some b → b.armed = true → s.launch b.launch = some l → b.cslot < s.ctxs.length →
    let h := queueHdr (s.num b.pa 64)
    let avail := (h.tail + 2 ^ 32 - h.disp) % 2 ^ 32
    let n := min h.batch avail
    h.cpc ≠ 0 → h.malformed l = false → s.poisoned b.pa 64 = false → (h.batch ≤ avail ∨ (h.opened = 0 ∧ 0 < avail)) →
    (s.ctx b.cslot).batches.length < 4096 → s.storeHeld (b.pa + 32) 4 = false → s.readHeld (lineOf b.pa) = false →
    ∃ t, exec (.consumerDispatch idx) s = .next t ∧
      (t.ctx b.cslot).batches = (s.ctx b.cslot).batches ++
        [⟨b.cslot, b.launch, h.cpc, h.carg, b.queue, BitVec.ofNat 32 h.disp, n, h.nw, h.pri, s.seq, t.writtenAt b.pa 64⟩] ∧
      ∀ a, t.byte a = (lastAt (bytesAt (b.pa + 32) (leBytes 4 ((h.disp + n) % 2 ^ 32))) .phys a).getD (s.byte a)) ∧
  (∀ s g, s.pkg.powered = true → s.wgroup g.id = some g → g.saved = false → commandsHold s g = false →
    (∀ x ∈ s.warps, x.2.2.wg = g.id → (∀ fr ∈ x.2.2.frags, fr.st ≠ .stopped) ∧ x.2.2.stnt = [] ∧ x.2.2.trv = [] ∧
      x.2.2.cfgs = [] ∧ x.2.2.fbs = []) → (∀ x ∈ s.warps, x.2.2.maps = []) →
    (∀ ln ∈ linesOf (s.ctx g.cslot).svbase.toNat ((s.ctx g.cslot).svsize.toNat * 65536), s.writeHeld ln = false) →
    (nextVictim s = some (g.core, (g.id, none)) → roomFor s g = true →
      ∃ t i, exec (.evictionSave g.id none) s = .next t ∧ (∀ x ∈ t.warps, x.2.2.wg ≠ g.id) ∧ i ∈ t.images ∧ i.wg = g.id ∧
        i.whole = true ∧ t.wgroup g.id = some { g with saved := true }) ∧
    (∀ slot w, nextVictim s = some (g.core, (g.id, some slot)) → s.warp g.core slot = some w → w.wg = g.id → g.core < s.cores.length →
      (findUnits s g.cslot (imageUnits 0 false [w])).isSome = true → (∀ fr ∈ w.frags, fr.loads = []) →
      (∀ c ∈ s.combs, ∀ x ∈ c.chain, ¬ (x.wtag = w.tag ∧ x.ctxid = w.ctxid)) →
      ∃ t i w', exec (.evictionSave g.id (some slot)) s = .next t ∧ t.warp g.core slot = none ∧ i ∈ t.images ∧ i.wg = g.id ∧
        i.whole = false ∧ i.core = g.core ∧ i.warps = [(slot, w')] ∧ w'.r = w.r ∧ w'.tag = w.tag)) ∧
  (∀ s i core x, s.images.find? (fun y => y.id == i.id) = some i → canRestore s i core = true → restoreTurn s i = true →
    i.whole = false → i.damaged = false → i.warps = [x] → Slots s core → 16 ≤ x.2.width →
    ∃ t slot, exec (.restore i.id core) s = .next t ∧ s.warp core slot = none ∧
      t.warp core slot = some { x.2.returning (s.tower (core / 128)).clock with resting := false } ∧ (∀ y ∈ t.images, y.id ≠ i.id) ∧
      (∀ c k w, s.warp c k = some w → t.warp c k = some w) ∧ ∀ a, t.byte a = s.byte a) ∧
  (∀ s i g core base, s.images.find? (fun y => y.id == i.id) = some i → canRestore s i core = true → restoreTurn s i = true →
    i.whole = true → i.damaged = false → s.wgroup i.wg = some g → findArea s core g.size = some base → Slots s core →
    (∀ x ∈ i.warps, 16 ≤ x.2.width) → (i.area.map fun x => x.1).Nodup →
    ∃ t, exec (.restore i.id core) s = .next t ∧ (∀ y ∈ t.images, y.id ≠ i.id) ∧
      t.wgroup i.wg = some { g with core := core, base := base, saved := false } ∧
      (∀ x ∈ i.warps, ∃ slot w, s.warp core slot = none ∧ t.warp core slot = some w ∧ w.tag = x.2.tag ∧ w.frags = x.2.frags ∧
        w.r.v = x.2.r.v ∧ w.r.s = x.2.r.s ∧ w.r.k = x.2.r.k ∧ w.r.flags = x.2.r.flags) ∧
      (∀ a, a < g.size → spGet 0 i.area a = spGet 0 (t.core core).scr (base + a)) ∧ ∀ a, t.byte a = s.byte a) ∧
  (∀ s core slot w, s.pkg.powered = true → s.warp core slot = some w → w.ended = fullMask w.width → w.m.queue = [] → w.trv = [] →
    w.fbs = [] →
    ∃ t, exec (.warpEnd core slot) s = .next t ∧ t.warp core slot = none ∧
      ∀ g, s.wgroup w.wg = some g →
        (g.ended + 1 ≠ g.nw → t.wgroup w.wg = some { g with ended := g.ended + 1, drops := [], cells := [] } ∧
          ∀ c, c ∈ (t.core core).used ↔ c ∈ (s.core core).used ∧ c ∉ w.cells) ∧
        (g.ended + 1 = g.nw → t.wgroup w.wg = some { g with ended := g.ended + 1, drops := w.objects, cells := w.cells } ∧
          (t.core core).used = (s.core core).used)) ∧
  (∀ s g, s.pkg.powered = true → s.wgroup g.id = some g → g.ended = g.nw → (∀ c ∈ s.combs, ∀ x ∈ c.chain, x.wg ≠ g.id) →
    ∃ t, exec (.workgroupEnd g.id) s = .next t ∧ (∀ x, x ∈ t.groups ↔ x ∈ s.groups ∧ x.id ≠ g.id) ∧
      (∀ c, c ∈ (t.core g.core).used ↔ c ∈ (s.core g.core).used ∧ c ∉ g.cells) ∧
      (∀ x, x ∈ t.tiles ↔ x ∈ s.tiles ∧ x.wg ≠ g.id) ∧ (∀ x ∈ t.locks, x.2 ≠ g.id) ∧ ∀ a, t.byte a = s.byte a) ∧
  ∀ s l, s.pkg.powered = true → s.launch l.id = some l → l.next = l.grid → (∀ g ∈ s.groups, g.launch ≠ l.id) →
    (∀ t ∈ (s.ctx l.cslot).tasks, t.launch ≠ l.id) → (∀ b ∈ (s.ctx l.cslot).batches, b.launch ≠ l.id) →
    (∀ w ∈ s.watches, w.launch ≠ l.id) → (∀ b ∈ s.binds, b.launch = l.id → b.armed = false) →
    ∃ t, exec (.launchEnd l.id) s = .next t ∧ (∀ x, x ∈ t.launches ↔ x ∈ s.launches ∧ x.id ≠ l.id) ∧
      (∀ x, x ∈ t.binds ↔ x ∈ s.binds ∧ x.launch ≠ l.id) ∧ ∀ a, t.byte a = s.byte a

/-! ### Memory controllers, fetched lines, feedback, soft errors and aging -/

namespace Sys2Proof.Claims
open Sys2Proof.Machine

/-- The stored bytes of every space read as before. -/
abbrev BytesKept (s t : State) : Prop := ∀ a, t.byte a = s.byte a
/-- A report that counts: the context's window is open, the page lies in it, no filter holds the report, and neither of its two
lines is poisoned (R82). -/
structure Counts (s : State) (cslot : Nat) (r : FbReport) (i bit nib : Nat) : Prop where
  pages : i < s.desc cslot 383 352
  page : s.desc cslot 447 384 + i * 65536 ≤ r.va ∧ r.va < s.desc cslot 447 384 + (i + 1) * 65536
  bit_ : bit = s.desc cslot 319 256 + i / 8
  nib_ : nib = s.desc cslot 319 256 + (s.desc cslot 383 352 / 8 + 63) / 64 * 64 + i / 2
  new : s.filterHolds (BitVec.ofNat 16 (s.ctxId cslot)) (r.va / 65536) r.level bit = false
  clean : s.poisoned bit 1 = false ∧ s.poisoned nib 1 = false
/-- The bytes of one line of a block as its pending entry encodes them (R92): merged into it, or as the block holds them, which
later stores have not reached. -/
def Encoded (s : State) (m : MergeSlot) (ln : Nat) : List Byte :=
  if spGet [] m.merged ln = [] then (s.line ln).backing.getD (s.bytes (ln * 128) 128) else spGet [] m.merged ln
/-- A place of a line whose loss loses the line (R94, R169): any of the device's own memory, and the package's caches of an outside
agent's line. -/
def Loses (place : ErrorPlace) (line : Nat) : Prop :=
  ((homeTower (line * 128)).isSome = true ∧ inMetadata (line * 128) = false) ∨
    (isRemote (line * 128) = true ∧ (place = .l2 ∨ ∃ core, place = .nearCache core))
/-- A present word of a core in one bit of error, or in none (R238). -/
abbrev Word? (s : State) (core : Nat) (word : RegWord) : Prop :=
  s.pkg.powered = true ∧ s.running core = true ∧ core < s.cores.length ∧ wordExists word = true

end Sys2Proof.Claims

/-- R25, R82, R87, R90 to R94, R176, R238, R239, R370: write-backs and the merge path store a block in the form R90 selects and
change no value; an uncorrectable error poisons its line, and both lines of a compressed block; LINE_FETCH fills a quarter's
cache, and a fragment that waited for the line is ready from then; a feedback report sets its bit and lowers its nibble; register errors are marked, corrected and reported; a ready
fragment, its next line present, gains one of priority at each multiple of 1,024 cycles that finds it ready again.
(Model's readings: logs 21, 26, 35, 55) -/
def Obligations.MemorySteps : Prop :=
  (∀ s line, s.pkg.powered = true → (s.line line).dirty = true → (homeTower (line * 128)).isSome = true →
    let b := blockOf line
    let held := ∃ m ∈ s.merges, m.block = b
    let path := (s.line line).attr = true ∨ b ∈ s.packed
    (¬ held → path → 64 ≤ (s.merges.filter fun m => m.ctrl == ctrlOf b).length → exec (.writeBack line) s = .next s) ∧
    (held ∨ ¬ path ∨ (s.merges.filter fun m => m.ctrl == ctrlOf b).length < 64 →
      ∃ t, exec (.writeBack line) s = .next t ∧ BytesKept s t ∧ (t.line line) = { s.line line with dirty := false, backing := none } ∧
        (∀ ln, ln ≠ line → t.line ln = s.line ln) ∧
        (held → t.merges = s.merges.map fun m => if m.block = b then
          { m with attr := (s.line line).attr, merged := spSet [] m.merged line (s.bytes (line * 128) 128) } else m) ∧
        (¬ held → path → t.merges = s.merges ++ [⟨ctrlOf b, b, (s.line line).attr, [(line, s.bytes (line * 128) 128)]⟩]) ∧
        (¬ held → ¬ path → t.merges = s.merges ∧ t.packed = s.packed))) ∧
  (∀ s block m, s.pkg.powered = true → s.merges.find? (fun m => m.block == block) = some m →
    ∃ t, exec (.mergePath block) s = .next t ∧ BytesKept s t ∧ (∀ x, x ∈ t.merges ↔ x ∈ s.merges ∧ x.block ≠ block) ∧
      (∀ b, b ≠ block → (b ∈ t.packed ↔ b ∈ s.packed)) ∧ (m.attr = false → block ∉ t.packed) ∧
      (m.attr = true → (block ∈ t.packed ↔ Config.compresses block (leNat ([block * 2, block * 2 + 1].flatMap (Encoded s m))) = true))) ∧
  (∀ s place line, s.pkg.powered = true → Loses place line →
    (∀ core, place = .nearCache core → ∃ h, ((s.line line).bank (towerOf core)).held core = some h ∧ h.owner = true) →
    ∃ t, exec (.uncorrectableSoftError place line) s = .next t ∧
      Recorded s t 2 0xFF 0 (line * 128 % 2 ^ 52 + 2 ^ 52 * 0xFF + 2 ^ 60) ∧
      ∀ ln, ln ∈ t.poison ↔ ln ∈ s.poison ∨ ln = line ∨
        ((place = .blockData ∨ place = .metadata) ∧ blockOf line ∈ s.packed ∧ blockOf ln = blockOf line)) ∧
  (∀ s core line, (∀ h, ((s.line line).bank (towerOf core)).held core = some h → h.owner = false) →
    exec (.uncorrectableSoftError (.nearCache core) line) s = .next s) ∧
  (∀ s core quarter cslot va u pa line, s.pkg.powered = true → s.running core = true → core < s.cores.length → quarter < 4 →
    s.ctxValid cslot = true → va % 64 = 0 →
    readLine s core cslot (BitVec.ofNat 16 (s.ctxId cslot)) va = (u, pa, .ok line) →
    ∃ t, exec (.lineFetch core quarter cslot va) s = .next t ∧ BytesKept s t ∧
      (t.core core).cached quarter (BitVec.ofNat 16 (s.ctxId cslot)) va =
        some ⟨quarter, BitVec.ofNat 16 (s.ctxId cslot), va, pa, line⟩ ∧
      ∀ q c a, (q ≠ quarter ∨ c ≠ BitVec.ofNat 16 (s.ctxId cslot) ∨ a ≠ va) → (t.core core).cached q c a = (s.core core).cached q c a ∧
      ∀ slot w, s.warp core slot = some w → ∃ w', t.warp core slot = some w' ∧ w'.r = w.r ∧ ∀ j, j < w.frags.length →
        let woken : Prop := slot % 4 = quarter ∧ w.ctxid = BitVec.ofNat 16 (s.ctxId cslot) ∧
          (s.core core).cached quarter w.ctxid va = none ∧ (w.frag j).st = .ready ∧ pcLine (w.frag j).pc = va ∧
          ∀ x ∈ (w.frag j).ahead, x.1 ≠ va
        (woken → w'.frag j = { w.frag j with since := s.tick, aged := false }) ∧ (¬ woken → w'.frag j = w.frag j)) ∧
  (∀ s core slot idx w r, s.pkg.powered = true → s.warp core slot = some w → w.fbs[idx]? = some r →
    reportHeld s w.cslot r = false →
    ∃ t, exec (.feedbackUpdate core slot idx) s = .next t ∧
      t.warp core slot = some { w with fbs := w.fbs.eraseIdx idx } ∧
      (s.desc w.cslot 383 352 = 0 → BytesKept s t) ∧
      (∀ i, i = (r.va - s.desc w.cslot 447 384) / 65536 → s.desc w.cslot 447 384 ≤ r.va → i < s.desc w.cslot 383 352 →
        s.filterHolds (BitVec.ofNat 16 (s.ctxId w.cslot)) (r.va / 65536) r.level (s.desc w.cslot 319 256 + i / 8) = true →
        BytesKept s t) ∧
      ((0 < s.desc w.cslot 383 352 ∧ (r.va < s.desc w.cslot 447 384 ∨
          s.desc w.cslot 383 352 ≤ (r.va - s.desc w.cslot 447 384) / 65536)) →
        ∀ a, t.byte a = (lastAt (bytesAt (s.descAddr w.cslot + 40) (leBytes 4 (min 0xFFFFFFFF (s.desc w.cslot 351 320 + 1)))) .phys
          a).getD (s.byte a)) ∧
      ∀ i bit nib, Counts s w.cslot r i bit nib → bit ≠ nib →
        (∀ j, j < 8 → (t.byte bit).getLsbD j = ((s.byte bit).getLsbD j || decide (j = i % 8))) ∧
        ((t.byte nib).extractLsb' (4 * (i % 2)) 4).toNat = min ((s.byte nib).extractLsb' (4 * (i % 2)) 4).toNat r.level ∧
        (t.byte nib).extractLsb' (4 * (1 - i % 2)) 4 = (s.byte nib).extractLsb' (4 * (1 - i % 2)) 4 ∧
        (∀ a, a ≠ bit → a ≠ nib → t.byte a = s.byte a) ∧ ⟨BitVec.ofNat 16 (s.ctxId w.cslot), r.va / 65536, r.level, lineOf bit, lineOf nib⟩ ∈ t.filter) ∧
  (∀ s core word double, Word? s core word →
    ∃ t, exec (.registerSoftError core word double) s = .next t ∧ BytesKept s t ∧
      (∀ x, x ∈ (t.core core).bad ↔ x ∈ (s.core core).bad ∨ (x = word ∧ (double = true ∨ word ∈ (s.core core).weak))) ∧
      (∀ x, x ≠ word → (x ∈ (t.core core).weak ↔ x ∈ (s.core core).weak)) ∧
      (word ∉ (s.core core).bad → (word ∈ (t.core core).weak ↔ double = false ∧ word ∉ (s.core core).weak))) ∧
  (∀ s core word, Word? s core word →
    (word ∈ (s.core core).bad → ∃ t, exec (.scrub core word) s = .next t ∧
      Recorded s t 6 core 0 (wordUnit word + 256 * wordOffset core word)) ∧
    (word ∉ (s.core core).bad → ∃ t, exec (.scrub core word) s = .next t ∧ BytesKept s t ∧ (t.core core).bad = (s.core core).bad ∧
      ∀ x, x ∈ (t.core core).weak ↔ x ∈ (s.core core).weak ∧ x ≠ word)) ∧
  ∀ s tower, s.pkg.powered = true → tower < 2 → tower < s.towers.length → (s.tower tower).agingDue = true →
    ∃ t, exec (.priorityAging tower) s = .next t ∧ BytesKept s t ∧
      (t.tower tower) = { s.tower tower with aging := (s.tower tower).aging + 1 } ∧
      ∀ core slot w, core < 256 → towerOf core = tower → s.warp core slot = some w → ∃ w', t.warp core slot = some w' ∧ w'.r = w.r ∧
        ∀ j, j < w.frags.length →
          let va := pcLine (w.frag j).pc
          let ready : Prop := (w.frag j).st = .ready ∧
            (((s.core core).cached (slot % 4) w.ctxid va).isSome = true ∨ ∃ x ∈ (w.frag j).ahead, x.1 = va)
          (w'.frag j).pc = (w.frag j).pc ∧ (w'.frag j).st = (w.frag j).st ∧
          (ready → (w.frag j).aged = true → (w.frag j).pri ≤ 4 → (w'.frag j).pri = min 4 ((w.frag j).pri + 1)) ∧
          (ready → (w'.frag j).aged = true) ∧
          (¬ ready → (w.frag j).st = .ready → (w'.frag j).aged = false) ∧
          ((¬ ready ∨ (w.frag j).aged = false) → (w'.frag j).pri = (w.frag j).pri)

/-! ### The package: starts, life cycle, links, time, heat and the outside -/

namespace Sys2Proof.Claims
open Sys2Proof.Machine

/-- What every start leaves (R421): every register of the chip as after reset, nothing resident, no lease, no directory entry, the
counts of compute layers, the logical times at GTIME or, where the start's event was stored, one above it, and that event in
the black box. -/
structure AfterStart (s t : State) (warm fell : Bool) (k0 k1 time : Nat) : Prop where
  tower0 : t.tower 0 = { k := k0, pts := (t.tower 0).pts } ∧ startTime s time ≤ (t.tower 0).pts ∧ (t.tower 0).pts ≤ startTime s time + 1
  tower1 : t.tower 1 = { k := k1, pts := startTime s time } ∧ t.towers.length = 2
  cores : t.cores = State.reset.cores ∧ t.combs = State.reset.combs ∧ t.monitors = State.reset.monitors
  lines : ∀ ln, ln ≠ 32 + (if warm then s.pkg.bbseq.toNat else 0) % 4096 / 2 → t.line ln = {}
  empty : t.tlb = [] ∧ t.launches = [] ∧ t.groups = [] ∧ t.images = [] ∧ t.tiles = [] ∧ t.locks = [] ∧
    t.watches = [] ∧ t.agents = [] ∧ t.merges = []
  queues : ∀ i q, (t.ctx i).queue q = {} ∧ (t.ctx i).svbase = 0 ∧ (t.ctx i).svsize = 0 ∧ (t.ctx i).halted = false
  pkg : t.pkg.gtime = startTime s time ∧ t.pkg.cdtbase = 0 ∧ t.pkg.bootStep = 0xFF ∧ t.pkg.bootWarm = warm ∧ t.pkg.powered = true
  epoch : t.pkg.epoch = (if warm then s.pkg.epoch else 0)
  lcstate : t.pkg.lcstate = (if warm then s.pkg.lcstate else s.pkg.lcNext.getD s.pkg.lcstate)
  bbseq : t.pkg.bbseq = (if warm then s.pkg.bbseq else 0) + 1
  mem : ∀ a, t.byte a = (lastAt (bytesAt (0x1000 + 64 * ((if warm then s.pkg.bbseq.toNat else 0) % 4096))
    (leBytes 48 (b2n warm + 2 * t.pkg.lcstate.toNat + 16 * b2n fell) ++ leBytes 2 0 ++ leBytes 1 0xFF ++ leBytes 1 8 ++
      leBytes 4 (if warm then s.pkg.bbseq.toNat else 0) ++ leBytes 8 (startTime s time))) .phys a).getD
        (if isRemote a = true ∨ (warm = true ∧ a < 2 ^ 20) then s.byte a else 0)
/-- GTIME after a comparison with a reference that reads `time` (R418): a forward difference of more than 1 µs is a jump, a
backward one is waited for until the reference has caught up, and a smaller one is slewed. -/
structure Corrected (s t : State) (time : Nat) : Prop where
  gtime : t.pkg.gtime = if s.pkg.gtime + 1000 < time then time else s.pkg.gtime
  hold : t.pkg.hold = if time + 1000 < s.pkg.gtime ∨ (s.pkg.hold ≠ 0 ∧ time < s.pkg.gtime) then s.pkg.gtime - time else 0
  slew : t.pkg.slew = if s.pkg.gtime + 1000 < time ∨ time + 1000 < s.pkg.gtime ∨ (s.pkg.hold ≠ 0 ∧ time < s.pkg.gtime) then 0
    else (time : Int) - s.pkg.gtime
  pts : t.towers = s.towers.map fun (x : Tower) => { x with pts := x.pts + (t.pkg.gtime - s.pkg.gtime) }
  agents : t.agents = s.agents.map fun (x : AgentState) => { x with pts := x.pts + (t.pkg.gtime - s.pkg.gtime) }
  mem : ∀ a, t.byte a = s.byte a
/-- The reference has changed and GTIME has not been compared. -/
structure Uncorrected (s t : State) : Prop where
  gtime : t.pkg.gtime = s.pkg.gtime ∧ t.pkg.hold = s.pkg.hold ∧ t.pkg.slew = s.pkg.slew
  pts : t.towers = s.towers ∧ t.agents = s.agents
  mem : ∀ a, t.byte a = s.byte a
/-- A tower's ktarget: the count last accepted, also of a change in progress (R50). -/
def Ktarget (w : Tower) : Nat := match w.changing with
  | some (_, n) => n
  | none => w.k
/-- The peers with a live host link after a message that says whether its sender has one (R418). -/
def HostedAfter (s : State) (peer : Nat) (hosted : Bool) (n : Nat) : Prop :=
  (n = peer ∧ hosted = true) ∨ (n ≠ peer ∧ n ∈ s.pkg.hosted)

end Sys2Proof.Claims

/-- R60, R411, R415, R416, R418, R419, R421, R423, R424 and R316: cold and warm starts, changes of the life cycle, quotes, loss of
power, accesses of the host and of the management cluster, flits and ports, the messages that set GTIME, the two thermal
stages, and a cycle of a tower's clock with its refill. (Model's readings: logs 57, 60, 62, 63, 64, 65) -/
def Obligations.PackageEvents : Prop :=
  (∀ s k0 k1 time, k0 ≤ 3 → k1 ≤ 3 →
    ∃ t, exec (.coldStart k0 k1 time) s = .next t ∧ AfterStart s t false false k0 k1 time) ∧
  (∀ s time, s.pkg.powered = true →
    ∃ t, exec (.warmStart time false) s = .next t ∧ AfterStart s t true false (Ktarget (s.tower 0)) (Ktarget (s.tower 1)) time) ∧
  (∀ s time, s.pkg.powered = true →
    ∃ t k0 k1, exec (.warmStart time true) s = .next t ∧ k0 < 4 ∧ k1 < 4 ∧ AfterStart s t false true k0 k1 time) ∧
  (∀ s state, s.pkg.powered = true →
    ((s.pkg.lcstate.toNat, state) ∈ [(0, 1), (1, 2), (2, 3), (3, 1), (3, 4)] →
      exec (.lifecycleChange true state) s = .next { s with pkg := { s.pkg with lcNext := some (BitVec.ofNat 3 state) } }) ∧
    ((s.pkg.lcstate.toNat, state) ∉ [(0, 1), (1, 2), (2, 3), (3, 1), (3, 4)] →
      ∃ t, exec (.lifecycleChange true state) s = .next t ∧ Recorded s t 9 0xFF 0 0xF ∧ t.pkg.lcNext = s.pkg.lcNext)) ∧
  (∀ s nonce, s.pkg.powered = true → s.pkg.bootStep = 0xFF → s.pkg.lcstate.toNat ≠ 4 → nonce < 2 ^ 256 →
    ∃ t q, exec (.quote nonce) s = .next t ∧ t = { s with pkg := t.pkg } ∧ t.pkg.quotes = s.pkg.quotes ++ [q] ∧
      q.nonce = nonce ∧ q.lc = s.pkg.lcstate.toNat ∧ q.k0 = (s.tower 0).k ∧ q.k1 = (s.tower 1).k ∧ q.epoch = s.pkg.epoch.toNat ∧
      q.images = Config.firmwareMeasurements ∧
      q.sig = Config.quoteSignature (identityKey s.pkg.lcstate.toNat)
        ([nonce, s.pkg.lcstate.toNat, (s.tower 0).k, (s.tower 1).k, s.pkg.epoch.toNat] ++ Config.firmwareMeasurements)) ∧
  (∀ a b, a < 8 → b < 8 → a ≠ b → identityKey a ≠ identityKey b) ∧
  (∀ s nonce, s.pkg.lcstate.toNat = 4 → exec (.quote nonce) s = .next s) ∧
  (∀ s, exec .powerLoss s = .next { s with pkg := { s.pkg with powered := false, hostLink := false } }) ∧
  (∀ s addr len data, let n := (data.map List.length).getD len
    s.pkg.powered = true → s.pkg.hostLink = true → n ≠ 0 → addr + n ≤ 2 ^ 42 →
    (hostReaches s addr n = false → ∃ t, exec (.hostMemoryAccess ⟨4, addr⟩ len data) s = .next t ∧ (∀ a, t.byte a = s.byte a) ∧
      t.reply = (if data.isSome then [] else List.replicate n 0xFF)) ∧
    (hostReaches s addr n = true → s.granting .host = true → s.poisoned addr n = false →
      (data = none → (∀ ln ∈ linesOf addr n, s.readHeld ln = false) →
        ∃ t, exec (.hostMemoryAccess ⟨4, addr⟩ len data) s = .next t ∧ (∀ a, t.byte a = s.byte a) ∧ t.reply = s.bytes addr n) ∧
      ∀ bs, data = some bs → (∀ ln ∈ linesOf addr n, s.writeHeld ln = false) →
        ∃ t, exec (.hostMemoryAccess ⟨4, addr⟩ len data) s = .next t ∧
          ∀ a, t.byte a = (lastAt (bytesAt addr bs) .phys a).getD (s.byte a))) ∧
  (∀ s off, s.pkg.powered = true → s.pkg.hostLink = true → off % 4 = 0 → off < 0x1000 →
    exec (.hostMemoryAccess ⟨0, off⟩ 4 none) s =
      .next { s with reply := leBytes 4 ((s.ctx (off / 64)).queue (off % 64 / 4)).tail.toNat } ∧
    ∀ len bs, bs.length = 4 → s.tableHeld = false →
      (s.ctxSup (off / 64) = true → exec (.hostMemoryAccess ⟨0, off⟩ len (some bs)) s = .next { s with reply := [] }) ∧
      (s.ctxSup (off / 64) = false → ∃ t u, exec (.hostMemoryAccess ⟨0, off⟩ len (some bs)) s = .next t ∧
        exec (.qtailWrite true (off / 64) (off % 64 / 4) (BitVec.ofNat 32 (leNat bs))) s = .next u ∧ t = { u with reply := [] })) ∧
  (∀ s off len data, s.pkg.powered = true → s.pkg.hostLink = true → 0x1000 ≤ off → (data.isSome = true → s.tableHeld = false) →
    exec (.hostMemoryAccess ⟨0, off⟩ len data) s =
      .next { s with reply := if data.isSome then [] else List.replicate len 0 }) ∧
  (∀ s off len data r p, let n := (data.map List.length).getD len
    s.pkg.powered = true → s.pkg.hostLink = true → off + n ≤ 0x40000 → mmioPart (0x10000 + off) n = some (r, p) →
    (data = none → exec (.hostMemoryAccess ⟨2, off⟩ len data) s = .next { s with reply := leBytes n (mmioRead s r p) }) ∧
    ∀ bs, data = some bs → s.tableHeld = false →
      (s.ctxSup (off / 0x1000) = true → exec (.hostMemoryAccess ⟨2, off⟩ len data) s = .next { s with reply := [] }) ∧
      (s.ctxSup (off / 0x1000) = false → exec (.hostMemoryAccess ⟨2, off⟩ len data) s =
        .next { mmioWrite s false r p (leNat bs) with reply := [] })) ∧
  (∀ s addr len data, let n := (data.map List.length).getD len
    s.pkg.powered = true → n ≠ 0 →
    (plainMemory addr n = true → s.poisoned addr n = false →
      (data = none → (∀ ln ∈ linesOf addr n, s.readHeld ln = false) →
        ∃ t, exec (.managementClusterAccess addr len data) s = .next t ∧ (∀ a, t.byte a = s.byte a) ∧ t.reply = s.bytes addr n) ∧
      ∀ bs, data = some bs → (∀ ln ∈ linesOf addr n, s.writeHeld ln = false) →
        ∃ t, exec (.managementClusterAccess addr len data) s = .next t ∧
          ∀ a, t.byte a = (lastAt (bytesAt addr bs) .phys a).getD (s.byte a)) ∧
    (∀ x r p, addr = 0xE010000000000 + x → x + n ≤ 2 ^ 32 → mmioPart x n = some (r, p) →
      (data = none → ∃ t, exec (.managementClusterAccess addr len data) s = .next t ∧ t.reply = leBytes n (mmioRead s r p)) ∧
      ∀ bs, data = some bs → ∃ t u, exec (.managementClusterAccess addr len data) s = .next t ∧
        exec (.registerWrite .management x n (BitVec.ofNat 64 (leNat bs))) s = .next u ∧ t = { u with reply := [] }) ∧
    (∀ x, addr = 0xE000000000000 + x → x < 2 ^ 32 → data = none → mapCause s (x / 2 ^ 24) x n false = none →
      (mapBad s (x / 2 ^ 24) (x % 2 ^ 24) n = none →
        ∃ t, exec (.managementClusterAccess addr len data) s = .next t ∧ (∀ a, t.byte a = s.byte a) ∧
          t.reply = mapBytes s (x / 2 ^ 24) (x % 2 ^ 24) n) ∧
      ∀ word, mapBad s (x / 2 ^ 24) (x % 2 ^ 24) n = some word →
        ∃ t, exec (.managementClusterAccess addr len data) s = .next t ∧ t.reply = [] ∧
          Recorded s t 6 (x / 2 ^ 24) 0 (wordUnit word + 256 * wordOffset (x / 2 ^ 24) word))) ∧
  (∀ s port p peer seq crcOk, s.pkg.powered = true → s.pkg.ports[port]? = some p → p.up = true →
    (crcOk = true → seq = p.next → ∃ t, exec (.flitReceive port ⟨peer, seq⟩ crcOk) s = .next t ∧ t = { s with pkg := t.pkg } ∧
      (let q : Port := { p with next := p.next + 1, peers := if peer < 64 then setInsert peer p.peers else p.peers }
       t.pkg = { s.pkg with ports := s.pkg.ports.set port q }) ∧
      (peer < 64 → t.pkg.reaches (.peer peer) = true)) ∧
    ((crcOk = false ∨ seq ≠ p.next) → exec (.flitReceive port ⟨peer, seq⟩ crcOk) s = .next s)) ∧
  (∀ s port p, s.pkg.powered = true → s.pkg.ports[port]? = some p → p.up = true →
    ∃ t, exec (.portDown port) s = .next t ∧ t.pkg.ports = s.pkg.ports.set port { p with up := false } ∧
      (p.peers = [] → Recorded s t 9 0xFF 0 port) ∧
      ∀ n, n < 64 → s.pkg.reaches (.peer n) = true →
        (∀ i q, i ≠ port → s.pkg.ports[i]? = some q → q.up = true → n ∉ q.peers) →
        t.pkg.reaches (.peer n) = false ∧ (t.agent (.peer n)).lost.isSome = true) ∧
  (∀ s peer time hosted, s.pkg.powered = true → s.pkg.hostLink = false → s.pkg.reaches (.peer peer) = true → peer < 64 →
    peer ≠ s.pkg.linkid.toNat →
    ∃ t, exec (.linkTimeMessage peer ⟨time, hosted⟩) s = .next t ∧ (∀ n, n ∈ t.pkg.hosted ↔ HostedAfter s peer hosted n) ∧
      (hosted = true → (∀ n, n < peer → s.pkg.reaches (.peer n) = true → n ∉ s.pkg.hosted) →
        Corrected s t time ∧ t.pkg.timeRef = .peer peer) ∧
      (∀ n, n < 64 → n ≠ peer → s.pkg.reaches (.peer n) = true → n ∈ s.pkg.hosted → (hosted = false ∨ n < peer) →
        (∀ m, m < n → s.pkg.reaches (.peer m) = true → ¬ HostedAfter s peer hosted m) →
        Uncorrected s t ∧ t.pkg.timeRef = .peer n) ∧
      ((∀ n, s.pkg.reaches (.peer n) = true → ¬ HostedAfter s peer hosted n) →
        (peer < s.pkg.linkid.toNat → (∀ n, n < peer → s.pkg.reaches (.peer n) = false) →
          Corrected s t time ∧ t.pkg.timeRef = .peer peer) ∧
        ((∀ n, n < s.pkg.linkid.toNat → s.pkg.reaches (.peer n) = false) → Uncorrected s t ∧ t.pkg.timeRef = .own))) ∧
  (∀ s time, s.pkg.powered = true → s.pkg.hostLink = true →
    ∃ t, exec (.ptmSync time) s = .next t ∧ Corrected s t time ∧ t.pkg.timeRef = .host) ∧
  (∀ s, s.pkg.powered = true → s.pkg.hostLink = true → ∃ t, exec .hostLinkLoss s = .next t ∧ t.pkg.hostLink = false ∧
    t.pkg.gtime = s.pkg.gtime ∧ t.pkg.reaches .host = false ∧ t.pkg.timeRef ≠ .host ∧
    t.pkg.bbseq = s.pkg.bbseq + BitVec.ofNat 32 (s.lines.filter fun x => x.2.owner == some .host).length ∧
    ((∀ x ∈ s.lines, x.2.owner ≠ some .host) → ∀ a, t.byte a = s.byte a) ∧
    (∀ ln, (s.line ln).owner = some .host → ln ∈ t.poison ∧ (t.line ln).owner = none) ∧
    ∀ ln, .host ∉ (t.line ln).wanted) ∧
  (∀ s time, s.pkg.powered = true → s.pkg.hostLink = false →
    ∃ t, exec (.hostLinkReturn time) s = .next t ∧ Corrected s t time ∧ t.pkg.hostLink = true ∧ t.pkg.timeRef = .host ∧
      t.pkg.reaches .host = true) ∧
  (∀ s tower temps (hot : Int), s.pkg.powered = true → tower < 2 → tower < s.towers.length → temps.length = 5 → hot ∈ temps →
    (∀ x ∈ temps, x ≤ hot) →
    let old := (s.tower tower).thermal
    let stopped : Prop := 110 ≤ hot ∨ (old = .issueStopped ∧ 100 ≤ hot)
    let clockHeld : Prop := 100 ≤ hot ∨ (old ≠ .normal ∧ 95 ≤ hot)
    ∃ t, exec (.thermalSample tower temps) s = .next t ∧
      ((t.tower tower).thermal = .issueStopped ↔ stopped) ∧ ((t.tower tower).thermal = .clockHeld ↔ ¬ stopped ∧ clockHeld) ∧
      (t.tower tower).k = (s.tower tower).k ∧
      t.pkg.bbseq = s.pkg.bbseq + (if old = .normal ∧ (stopped ∨ clockHeld) then 1 else 0) +
        if old ≠ .issueStopped ∧ stopped then 1 else 0) ∧
  (∀ s tower, s.pkg.powered = true → tower < 2 → tower < s.towers.length → 100 ≤ (s.tower tower).due →
    ((s.tower tower).agingDue = true → exec (.purseRefill tower) s = .next s) ∧ ((s.tower tower).agingDue = false →
    let w := s.tower tower
    (w.thermal = .normal ∨ w.skip = false → ∃ t, exec (.purseRefill tower) s = .next t ∧
      (t.tower tower).clock = w.clock + 1 ∧ (t.tower tower).skip = decide (w.thermal ≠ .normal) ∧ (∀ a, t.byte a = s.byte a) ∧
      ∀ core, core < 256 → core < s.cores.length → (t.core core).purse =
        if towerOf core = tower then min 65536 ((s.core core).purse + w.mcoinr.toNat) else (s.core core).purse) ∧
    (w.thermal ≠ .normal → w.skip = true → ∃ t, exec (.purseRefill tower) s = .next t ∧
      (t.tower tower).clock = w.clock ∧ (t.tower tower).skip = false ∧ t.cores = s.cores))) ∧
  ∀ s addr len data, s.pkg.powered = false →
    (∀ bar, exec (.hostMemoryAccess ⟨bar, addr⟩ len data) s = .next s) ∧ exec (.managementClusterAccess addr len data) s = .next s

/-! ### Reset, and the form of memory -/

/-- The machine right after a start in the default configuration (R3, R50, R163, R233, R316, R364, R403, R411, R421, R426): two
compute layers in each tower, CLOCK 0, the reset lease table, the reset rate of coins, full purses, every extended block, the
registers of the window, and nothing resident. Memory lists no byte, in the canonical form: that it reads zero where nothing was written is
the model's reading of the wipe (log 4). -/
def Obligations.ResetState : Prop :=
  State.reset.towers.length = 2 ∧ State.reset.cores.length = 256 ∧ State.reset.ctxs.length = 64 ∧ State.reset.combs.length = 32 ∧
  State.reset.monitors.length = 64 ∧
  (∀ t, t < 2 → (State.reset.tower t).k = 2 ∧ (State.reset.tower t).clock = 0 ∧ (State.reset.tower t).mcoinr = 416 ∧
    (State.reset.tower t).llen = [0, 16, 64, 256, 1024, 4096, 16384, 65536] ∧ (State.reset.tower t).dmask = 0 ∧
    mmioValue State.reset (.trole t) = 2 + 2 ^ 18 + 2 ^ 19) ∧
  (∀ c, c < 256 → (State.reset.core c).purse = 65536 ∧ (State.reset.core c).xplim = 768 ∧ (State.reset.core c).scr = [] ∧
    (State.reset.core c).full = [] ∧ (State.reset.core c).cells = [] ∧ ∀ slot, State.reset.warp c slot = none) ∧
  (∀ i q, i < 64 → q < 16 → mmioValue State.reset (.qctl i q) = 0 ∧ mmioValue State.reset (.qtail i q) = 0 ∧
    mmioValue State.reset (.qhead i q) = 0 ∧ mmioValue State.reset (.svbase i) = 0 ∧ mmioValue State.reset (.svsize i) = 0) ∧
  (∀ c, c < 32 → mmioValue State.reset (.ecbase c) = 0 ∧ mmioValue State.reset (.ecsize c) = 0 ∧ mmioValue State.reset (.ecdone c) = 0) ∧
  (∀ m, m < 64 → mmioValue State.reset (.monCtl m) = 0 ∧ mmioValue State.reset (.monMin m) = 0xFFFFFFFF ∧
    mmioValue State.reset (.monMax m) = 0 ∧ ∀ b, b < 16 → mmioValue State.reset (.monBin m b) = 0) ∧
  mmioValue State.reset .cdtbase = 0 ∧ State.reset.pkg.epoch = 0 ∧ State.reset.pkg.bootStep = 0xFF ∧
  Memory.wf State.reset.mem = true ∧ ∀ a, State.reset.byte a = 0

/-- Every step keeps the canonical form of memory: addresses rise strictly and no listed byte is zero. -/
def Obligations.StepKeepsMemory : Prop :=
  ∀ s t, Memory.wf s.mem = true → step s = .next t → Memory.wf t.mem = true
end

