-- ==== Sys2Proof/Laws/Store.lean ====
section
/-!
SUPPORT. The laws of sparse stores: reading after writing, and the canonical form, which every operation keeps.
-/
namespace Sys2Proof.Machine

variable {α : Type}

/-! ### Reading after an operation -/

@[simp] theorem spGet_nil (d : α) (a : Nat) : spGet d [] a = d := rfl

theorem spGet_cons (d : α) (k : Nat) (v : α) (m : Sp α) (a : Nat) :
    spGet d ((k, v) :: m) a = if a = k then v else spGet d m a := rfl

/-- A key erased reads as unlisted, every other key as before. -/
theorem spGet_spErase (d : α) (m : Sp α) (a b : Nat) :
    spGet d (spErase a m) b = if b = a then d else spGet d m b := by
  induction m with
  | nil => simp [spErase]
  | cons x m ih =>
    obtain ⟨k, v⟩ := x
    by_cases h : a = k
    · subst h
      simp only [spErase, if_true, ih, spGet_cons]
      split <;> simp_all
    · simp only [spErase, if_neg h, spGet_cons, ih]
      split
      · next e => subst e; rw [if_neg (fun e => h e.symm)]
      · rfl

/-- A key inserted where it is not listed reads as its value, every other key as before. -/
theorem spGet_spInsert (d : α) (m : Sp α) (a b : Nat) (x : α) (h : ∀ y ∈ m, y.1 ≠ a) :
    spGet d (spInsert a x m) b = if b = a then x else spGet d m b := by
  induction m with
  | nil => simp [spInsert, spGet_cons]
  | cons y m ih =>
    obtain ⟨k, v⟩ := y
    have hk : k ≠ a := h (k, v) (by simp)
    simp only [spInsert]
    split
    · rfl
    · rw [spGet_cons, spGet_cons, ih (fun y hy => h y (by simp [hy]))]
      split
      · next e => subst e; rw [if_neg hk]
      · rfl

theorem spErase_keys (m : Sp α) (a : Nat) : ∀ y ∈ spErase a m, y.1 ≠ a := by
  induction m with
  | nil => simp [spErase]
  | cons x m ih =>
    obtain ⟨k, v⟩ := x
    simp only [spErase]
    split
    · exact ih
    · next h =>
      intro y hy
      rcases List.mem_cons.1 hy with e | e
      · subst e; exact fun e => h e.symm
      · exact ih y e

/-- A write changes its key alone. -/
theorem spGet_spSet [DecidableEq α] (d : α) (m : Sp α) (a b : Nat) (x : α) :
    spGet d (spSet d m a x) b = if b = a then x else spGet d m b := by
  unfold spSet
  split
  · next h => subst h; exact spGet_spErase _ m a b
  · rw [spGet_spInsert d _ a b x (spErase_keys m a), spGet_spErase]
    split <;> rfl

@[simp] theorem spGet_spSet_same [DecidableEq α] (d : α) (m : Sp α) (a : Nat) (x : α) :
    spGet d (spSet d m a x) a = x := by rw [spGet_spSet, if_pos rfl]

theorem spGet_spSet_ne [DecidableEq α] (d : α) (m : Sp α) {a b : Nat} (x : α) (h : b ≠ a) :
    spGet d (spSet d m a x) b = spGet d m b := by rw [spGet_spSet, if_neg h]

/-- Consecutive writes: the keys written read as the values, in order, every other key as before. -/
theorem spGet_spWrite [DecidableEq α] (d : α) (xs : List α) (m : Sp α) (a b : Nat) :
    spGet d (spWrite d m a xs) b =
      if a ≤ b ∧ b < a + xs.length then (xs[b - a]?).getD d else spGet d m b := by
  induction xs generalizing m a with
  | nil => exact (if_neg (by simp only [List.length_nil]; omega)).symm
  | cons x xs ih =>
    rw [spWrite, ih, spGet_spSet, List.length_cons]
    by_cases e : b = a
    · subst e
      rw [if_neg (by omega), if_pos rfl, if_pos (by omega)]
      simp
    · rw [if_neg e]
      by_cases h : a + 1 ≤ b ∧ b < a + 1 + xs.length
      · rw [if_pos h, if_pos (by omega)]
        have : b - a = (b - (a + 1)) + 1 := by omega
        rw [this, List.getElem?_cons_succ]
      · rw [if_neg h, if_neg (by omega)]

@[simp] theorem spRead_length (d : α) (m : Sp α) (a n : Nat) : (spRead d m a n).length = n := by
  induction n generalizing a with
  | zero => rfl
  | succ n ih => simp [spRead, ih]

theorem spRead_get (d : α) (m : Sp α) (a n i : Nat) (h : i < n) : (spRead d m a n)[i]? = some (spGet d m (a + i)) := by
  induction n generalizing a i with
  | zero => omega
  | succ n ih =>
    cases i with
    | zero => rfl
    | succ i =>
      rw [spRead, List.getElem?_cons_succ, ih (a + 1) i (by omega)]
      congr 2
      omega

/-- What was written at consecutive keys is read back. -/
theorem spRead_spWrite_same [DecidableEq α] (d : α) (m : Sp α) (a : Nat) (xs : List α) :
    spRead d (spWrite d m a xs) a xs.length = xs := by
  apply List.ext_getElem?
  intro i
  by_cases h : i < xs.length
  · rw [spRead_get _ _ _ _ _ h, spGet_spWrite, if_pos (by omega)]
    simp [h]
  · rw [List.getElem?_eq_none (by simpa using h), List.getElem?_eq_none (by simpa using h)]

/-- Clearing a range of keys makes them read as unlisted, every other key as before. -/
theorem spGet_spClear (d : α) (lo hi : Nat) (m : Sp α) (b : Nat) :
    spGet d (spClear lo hi m) b = if lo ≤ b ∧ b < hi then d else spGet d m b := by
  induction m with
  | nil => simp [spClear]
  | cons x m ih =>
    obtain ⟨k, v⟩ := x
    simp only [spClear]
    split
    · next h =>
      rw [ih, spGet_cons]
      split
      · rfl
      · next n => rw [if_neg (fun (e : b = k) => n (e ▸ h))]
    · next h =>
      rw [spGet_cons, ih, spGet_cons]
      by_cases e : b = k
      · subst e; rw [if_pos rfl, if_neg h, if_pos rfl]
      · rw [if_neg e, if_neg e]

/-! ### The canonical form -/

theorem spErase_filter (a : Nat) (m : Sp α) : spErase a m = m.filter fun x => decide (a ≠ x.1) := by
  induction m with
  | nil => rfl
  | cons y m ih =>
    obtain ⟨k, v⟩ := y
    by_cases h : a = k
    · subst h; simp [spErase, ih]
    · simp [spErase, ih, h]

theorem spClear_filter (lo hi : Nat) (m : Sp α) : spClear lo hi m = m.filter fun x => !decide (lo ≤ x.1 ∧ x.1 < hi) := by
  induction m with
  | nil => rfl
  | cons y m ih =>
    obtain ⟨k, v⟩ := y
    by_cases h : lo ≤ k ∧ k < hi
    · simp only [spClear, if_pos h, List.filter, decide_eq_true h, Bool.not_true, ih]
    · simp only [spClear, if_neg h, List.filter, decide_eq_false h, Bool.not_false, ih]

section Canonical
variable [DecidableEq α]

theorem spWfFrom_cons (d : α) (lo k : Nat) (v : α) (m : Sp α) :
    spWfFrom d lo ((k, v) :: m) = true ↔ lo ≤ k ∧ v ≠ d ∧ spWfFrom d (k + 1) m = true := by
  simp [spWfFrom, and_assoc]

theorem spWfFrom_mono (d : α) (m : Sp α) {lo lo' : Nat} (h : lo' ≤ lo) (w : spWfFrom d lo m = true) :
    spWfFrom d lo' m = true := by
  cases m with
  | nil => rfl
  | cons x m =>
    obtain ⟨k, v⟩ := x
    rw [spWfFrom_cons] at *
    exact ⟨by omega, w.2⟩

/-- Every key of a store in canonical form is at least its bound. -/
theorem spWfFrom_keys (d : α) (m : Sp α) (lo : Nat) (w : spWfFrom d lo m = true) : ∀ x ∈ m, lo ≤ x.1 ∧ x.2 ≠ d := by
  induction m generalizing lo with
  | nil => simp
  | cons y m ih =>
    obtain ⟨k, v⟩ := y
    rw [spWfFrom_cons] at w
    intro x hx
    rcases List.mem_cons.1 hx with e | e
    · subst e; exact ⟨w.1, w.2.1⟩
    · have := ih (k + 1) w.2.2 x e
      exact ⟨by omega, this.2⟩

theorem spWfFrom_filter (d : α) (p : Nat × α → Bool) (m : Sp α) (lo : Nat) (w : spWfFrom d lo m = true) :
    spWfFrom d lo (m.filter p) = true := by
  induction m generalizing lo with
  | nil => rfl
  | cons y m ih =>
    obtain ⟨k, v⟩ := y
    rw [spWfFrom_cons] at w
    by_cases h : p (k, v) = true
    · rw [List.filter_cons_of_pos h, spWfFrom_cons]
      exact ⟨w.1, w.2.1, ih _ w.2.2⟩
    · rw [List.filter_cons_of_neg h]
      exact spWfFrom_mono d _ (by omega) (ih _ w.2.2)

theorem spWfFrom_spInsert (d : α) (m : Sp α) (lo a : Nat) (x : α) (w : spWfFrom d lo m = true) (h : lo ≤ a) (hx : x ≠ d)
    (n : ∀ y ∈ m, y.1 ≠ a) : spWfFrom d lo (spInsert a x m) = true := by
  induction m generalizing lo with
  | nil => simp [spInsert, spWfFrom, h, hx]
  | cons y m ih =>
    obtain ⟨k, v⟩ := y
    have hk : k ≠ a := n (k, v) (by simp)
    have w' := (spWfFrom_cons d lo k v m).1 w
    simp only [spInsert]
    split
    · rw [spWfFrom_cons, spWfFrom_cons]
      exact ⟨h, hx, by omega, w'.2⟩
    · rw [spWfFrom_cons]
      exact ⟨w'.1, w'.2.1, ih _ w'.2.2 (by omega) (fun y hy => n y (by simp [hy]))⟩

/-- A write keeps the canonical form. -/
theorem spWf_spSet (d : α) (m : Sp α) (a : Nat) (x : α) (w : spWf d m = true) : spWf d (spSet d m a x) = true := by
  unfold spWf spSet at *
  split
  · rw [spErase_filter]; exact spWfFrom_filter d _ m 0 w
  · next h =>
    refine spWfFrom_spInsert d _ 0 a x ?_ (Nat.zero_le a) h (spErase_keys m a)
    rw [spErase_filter]; exact spWfFrom_filter d _ m 0 w

/-- Consecutive writes keep the canonical form. -/
theorem spWf_spWrite (d : α) (xs : List α) (m : Sp α) (a : Nat) (w : spWf d m = true) : spWf d (spWrite d m a xs) = true := by
  induction xs generalizing m a with
  | nil => exact w
  | cons x xs ih => exact ih _ _ (spWf_spSet d m a x w)

theorem spWf_filter (d : α) (p : Nat × α → Bool) (m : Sp α) (w : spWf d m = true) : spWf d (m.filter p) = true :=
  spWfFrom_filter d p m 0 w

theorem spWf_spErase (d : α) (m : Sp α) (a : Nat) (w : spWf d m = true) : spWf d (spErase a m) = true := by
  rw [spErase_filter]; exact spWf_filter d _ m w

theorem spWf_spClear (d : α) (lo hi : Nat) (m : Sp α) (w : spWf d m = true) : spWf d (spClear lo hi m) = true := by
  rw [spClear_filter]; exact spWf_filter d _ m w

/-- Two stores in canonical form that read alike at every key are equal. -/
theorem spExt_from (d : α) (m n : Sp α) (lo : Nat) (hm : spWfFrom d lo m = true) (hn : spWfFrom d lo n = true)
    (h : ∀ a, spGet d m a = spGet d n a) : m = n := by
  induction m generalizing n lo with
  | nil =>
    cases n with
    | nil => rfl
    | cons y n =>
      obtain ⟨k, v⟩ := y
      have := h k
      rw [spGet_cons, if_pos rfl, spGet_nil] at this
      exact absurd this.symm ((spWfFrom_cons d lo k v n).1 hn).2.1
  | cons x m ih =>
    obtain ⟨k, v⟩ := x
    have wm := (spWfFrom_cons d lo k v m).1 hm
    have miss : ∀ (r : Sp α) (l b : Nat), spWfFrom d l r = true → b < l → spGet d r b = d := by
      intro r
      induction r with
      | nil => intros; rfl
      | cons z r ihr =>
        intro l b w hb
        obtain ⟨c, u⟩ := z
        have wz := (spWfFrom_cons d l c u r).1 w
        rw [spGet_cons, if_neg (by omega)]
        exact ihr _ b wz.2.2 (by omega)
    cases n with
    | nil =>
      have := h k
      rw [spGet_cons, if_pos rfl, spGet_nil] at this
      exact absurd this wm.2.1
    | cons y n =>
      obtain ⟨j, u⟩ := y
      have wn := (spWfFrom_cons d lo j u n).1 hn
      have hk := h k
      have hj := h j
      rw [spGet_cons, if_pos rfl, spGet_cons] at hk
      rw [spGet_cons, spGet_cons, if_pos rfl] at hj
      have e : k = j := by
        refine Decidable.byContradiction fun ne => ?_
        rcases Nat.lt_or_gt_of_ne ne with lt | gt
        · rw [if_neg ne, miss n _ k wn.2.2 (by omega)] at hk; exact wm.2.1 hk
        · rw [if_neg (fun e => ne e.symm), miss m _ j wm.2.2 (by omega)] at hj; exact wn.2.1 hj.symm
      subst e
      rw [if_pos rfl] at hk
      subst hk
      rw [ih n (k + 1) wm.2.2 wn.2.2 (fun a => ?_)]
      by_cases e : a = k
      · subst e; rw [miss m _ a wm.2.2 (by omega), miss n _ a wn.2.2 (by omega)]
      · have := h a; rwa [spGet_cons, spGet_cons, if_neg e, if_neg e] at this

end Canonical

/-- Memory after any write of bytes is in canonical form (log 4). -/
theorem Memory.wf_write (m : List Host.Cell) (a : Nat) (bs : List Byte) (w : Memory.wf m = true) :
    Memory.wf (spWrite 0 m a bs) = true := spWf_spWrite 0 bs m a w

theorem Memory.wf_set (m : List Host.Cell) (a : Nat) (b : Byte) (w : Memory.wf m = true) :
    Memory.wf (spSet 0 m a b) = true := spWf_spSet 0 m a b w

theorem Memory.wf_filter (m : List Host.Cell) (p : Host.Cell → Bool) (w : Memory.wf m = true) :
    Memory.wf (m.filter p) = true := spWf_filter 0 p m w

/-! ### Lists -/

@[simp] theorem modAt_length (f : α → α) (n : Nat) (xs : List α) : (modAt f n xs).length = xs.length := by
  induction xs generalizing n with
  | nil => cases n <;> rfl
  | cons x xs ih => cases n with
    | zero => rfl
    | succ n => simp [modAt, ih]

/-- One element changes, every other stays. -/
theorem modAt_get (f : α → α) (n i : Nat) (xs : List α) :
    (modAt f n xs)[i]? = if i = n then (xs[i]?).map f else xs[i]? := by
  induction xs generalizing n i with
  | nil => cases n <;> simp [modAt]
  | cons x xs ih =>
    cases n with
    | zero => cases i <;> simp [modAt]
    | succ n =>
      cases i with
      | zero => simp [modAt]
      | succ i => simp [modAt, ih]

theorem mem_setInsert (a x : Nat) (m : List Nat) : x ∈ setInsert a m ↔ x = a ∨ x ∈ m := by
  induction m with
  | nil => simp [setInsert]
  | cons k m ih =>
    simp only [setInsert]
    split
    · next h => subst h; simp
    · split
      · simp
      · rw [List.mem_cons, ih, List.mem_cons, or_left_comm]

theorem mem_setErase (a x : Nat) (m : List Nat) : x ∈ setErase a m ↔ x ∈ m ∧ x ≠ a := by
  induction m with
  | nil => simp [setErase]
  | cons k m ih =>
    simp only [setErase]
    split
    · next h =>
      subst h
      rw [ih, List.mem_cons]
      exact ⟨fun e => ⟨.inr e.1, e.2⟩, fun e => ⟨e.1.resolve_left e.2, e.2⟩⟩
    · next h =>
      rw [List.mem_cons, ih, List.mem_cons]
      constructor
      · rintro (e | ⟨e, n⟩)
        · exact ⟨.inl e, fun n => h (by omega)⟩
        · exact ⟨.inr e, n⟩
      · rintro ⟨e | e, n⟩
        · exact .inl e
        · exact .inr ⟨e, n⟩

end Sys2Proof.Machine
end

