-- ==== Sys2Proof/Laws/State.lean ====
section
/-!
SUPPORT. What an update of the state leaves as it was, field by field and reading by reading, and what the updated part reads as.
-/
namespace Sys2Proof.Machine

/-! ### Fields and readings that an update leaves alone -/

@[simp] theorem State.modTower_pkg (s : State) (t : Nat) (f : Tower → Tower) : (s.modTower t f).pkg = s.pkg := rfl
@[simp] theorem State.modTower_ctxs (s : State) (t : Nat) (f : Tower → Tower) : (s.modTower t f).ctxs = s.ctxs := rfl
@[simp] theorem State.modTower_combs (s : State) (t : Nat) (f : Tower → Tower) : (s.modTower t f).combs = s.combs := rfl
@[simp] theorem State.modTower_cores (s : State) (t : Nat) (f : Tower → Tower) : (s.modTower t f).cores = s.cores := rfl
@[simp] theorem State.modTower_mem (s : State) (t : Nat) (f : Tower → Tower) : (s.modTower t f).mem = s.mem := rfl
@[simp] theorem State.modTower_poison (s : State) (t : Nat) (f : Tower → Tower) : (s.modTower t f).poison = s.poison := rfl
@[simp] theorem State.modTower_packed (s : State) (t : Nat) (f : Tower → Tower) : (s.modTower t f).packed = s.packed := rfl
@[simp] theorem State.modTower_lines (s : State) (t : Nat) (f : Tower → Tower) : (s.modTower t f).lines = s.lines := rfl
@[simp] theorem State.modTower_bases (s : State) (t : Nat) (f : Tower → Tower) : (s.modTower t f).bases = s.bases := rfl
@[simp] theorem State.modTower_pers (s : State) (t : Nat) (f : Tower → Tower) : (s.modTower t f).pers = s.pers := rfl
@[simp] theorem State.modTower_merges (s : State) (t : Nat) (f : Tower → Tower) : (s.modTower t f).merges = s.merges := rfl
@[simp] theorem State.modTower_agents (s : State) (t : Nat) (f : Tower → Tower) : (s.modTower t f).agents = s.agents := rfl
@[simp] theorem State.modTower_tlb (s : State) (t : Nat) (f : Tower → Tower) : (s.modTower t f).tlb = s.tlb := rfl
@[simp] theorem State.modTower_filter (s : State) (t : Nat) (f : Tower → Tower) : (s.modTower t f).filter = s.filter := rfl
@[simp] theorem State.modTower_lag (s : State) (t : Nat) (f : Tower → Tower) : (s.modTower t f).lag = s.lag := rfl
@[simp] theorem State.modTower_past (s : State) (t : Nat) (f : Tower → Tower) : (s.modTower t f).past = s.past := rfl
@[simp] theorem State.modTower_fields (s : State) (t : Nat) (f : Tower → Tower) : (s.modTower t f).fields = s.fields := rfl
@[simp] theorem State.modTower_seals (s : State) (t : Nat) (f : Tower → Tower) : (s.modTower t f).seals = s.seals := rfl
@[simp] theorem State.modTower_sealPast (s : State) (t : Nat) (f : Tower → Tower) : (s.modTower t f).sealPast = s.sealPast := rfl
@[simp] theorem State.modTower_launches (s : State) (t : Nat) (f : Tower → Tower) : (s.modTower t f).launches = s.launches := rfl
@[simp] theorem State.modTower_groups (s : State) (t : Nat) (f : Tower → Tower) : (s.modTower t f).groups = s.groups := rfl
@[simp] theorem State.modTower_images (s : State) (t : Nat) (f : Tower → Tower) : (s.modTower t f).images = s.images := rfl
@[simp] theorem State.modTower_tiles (s : State) (t : Nat) (f : Tower → Tower) : (s.modTower t f).tiles = s.tiles := rfl
@[simp] theorem State.modTower_tileWait (s : State) (t : Nat) (f : Tower → Tower) : (s.modTower t f).tileWait = s.tileWait := rfl
@[simp] theorem State.modTower_released (s : State) (t : Nat) (f : Tower → Tower) : (s.modTower t f).released = s.released := rfl
@[simp] theorem State.modTower_locks (s : State) (t : Nat) (f : Tower → Tower) : (s.modTower t f).locks = s.locks := rfl
@[simp] theorem State.modTower_lockWait (s : State) (t : Nat) (f : Tower → Tower) : (s.modTower t f).lockWait = s.lockWait := rfl
@[simp] theorem State.modTower_watches (s : State) (t : Nat) (f : Tower → Tower) : (s.modTower t f).watches = s.watches := rfl
@[simp] theorem State.modTower_binds (s : State) (t : Nat) (f : Tower → Tower) : (s.modTower t f).binds = s.binds := rfl
@[simp] theorem State.modTower_monitors (s : State) (t : Nat) (f : Tower → Tower) : (s.modTower t f).monitors = s.monitors := rfl
@[simp] theorem State.modTower_turns (s : State) (t : Nat) (f : Tower → Tower) : (s.modTower t f).turns = s.turns := rfl
@[simp] theorem State.modTower_agenda (s : State) (t : Nat) (f : Tower → Tower) : (s.modTower t f).agenda = s.agenda := rfl
@[simp] theorem State.modTower_tick (s : State) (t : Nat) (f : Tower → Tower) : (s.modTower t f).tick = s.tick := rfl
@[simp] theorem State.modTower_rounds (s : State) (t : Nat) (f : Tower → Tower) : (s.modTower t f).rounds = s.rounds := rfl
@[simp] theorem State.modTower_cur (s : State) (t : Nat) (f : Tower → Tower) : (s.modTower t f).cur = s.cur := rfl
@[simp] theorem State.modTower_seq (s : State) (t : Nat) (f : Tower → Tower) : (s.modTower t f).seq = s.seq := rfl
@[simp] theorem State.modTower_reply (s : State) (t : Nat) (f : Tower → Tower) : (s.modTower t f).reply = s.reply := rfl
@[simp] theorem State.modTower_byte (s : State) (t : Nat) (f : Tower → Tower) (x1 : Nat) : (s.modTower t f).byte x1 = s.byte x1 := rfl
@[simp] theorem State.modTower_bytes (s : State) (t : Nat) (f : Tower → Tower) (x1 x2 : Nat) : (s.modTower t f).bytes x1 x2 = s.bytes x1 x2 := rfl
@[simp] theorem State.modTower_num (s : State) (t : Nat) (f : Tower → Tower) (x1 x2 : Nat) : (s.modTower t f).num x1 x2 = s.num x1 x2 := rfl
@[simp] theorem State.modTower_desc (s : State) (t : Nat) (f : Tower → Tower) (x1 x2 x3 : Nat) : (s.modTower t f).desc x1 x2 x3 = s.desc x1 x2 x3 := rfl
@[simp] theorem State.modTower_ctxValid (s : State) (t : Nat) (f : Tower → Tower) (x1 : Nat) : (s.modTower t f).ctxValid x1 = s.ctxValid x1 := rfl
@[simp] theorem State.modTower_ctxSup (s : State) (t : Nat) (f : Tower → Tower) (x1 : Nat) : (s.modTower t f).ctxSup x1 = s.ctxSup x1 := rfl
@[simp] theorem State.modTower_ctxId (s : State) (t : Nat) (f : Tower → Tower) (x1 : Nat) : (s.modTower t f).ctxId x1 = s.ctxId x1 := rfl
@[simp] theorem State.modTower_ctxSlot (s : State) (t : Nat) (f : Tower → Tower) (x1 : Nat) : (s.modTower t f).ctxSlot x1 = s.ctxSlot x1 := rfl
@[simp] theorem State.modTower_core (s : State) (t : Nat) (f : Tower → Tower) (x1 : Nat) : (s.modTower t f).core x1 = s.core x1 := rfl
@[simp] theorem State.modTower_warp (s : State) (t : Nat) (f : Tower → Tower) (x1 x2 : Nat) : (s.modTower t f).warp x1 x2 = s.warp x1 x2 := rfl
@[simp] theorem State.modTower_comb (s : State) (t : Nat) (f : Tower → Tower) (x1 : Nat) : (s.modTower t f).comb x1 = s.comb x1 := rfl
@[simp] theorem State.modTower_ctx (s : State) (t : Nat) (f : Tower → Tower) (x1 : Nat) : (s.modTower t f).ctx x1 = s.ctx x1 := rfl
@[simp] theorem State.modTower_wgroup (s : State) (t : Nat) (f : Tower → Tower) (x1 : Nat) : (s.modTower t f).wgroup x1 = s.wgroup x1 := rfl
@[simp] theorem State.modTower_launch (s : State) (t : Nat) (f : Tower → Tower) (x1 : Nat) : (s.modTower t f).launch x1 = s.launch x1 := rfl
@[simp] theorem State.modTower_line (s : State) (t : Nat) (f : Tower → Tower) (x1 : Nat) : (s.modTower t f).line x1 = s.line x1 := rfl
@[simp] theorem State.modTower_monitor (s : State) (t : Nat) (f : Tower → Tower) (x1 : Nat) : (s.modTower t f).monitor x1 = s.monitor x1 := rfl

@[simp] theorem State.modCore_pkg (s : State) (c : Nat) (f : Core → Core) : (s.modCore c f).pkg = s.pkg := rfl
@[simp] theorem State.modCore_towers (s : State) (c : Nat) (f : Core → Core) : (s.modCore c f).towers = s.towers := rfl
@[simp] theorem State.modCore_ctxs (s : State) (c : Nat) (f : Core → Core) : (s.modCore c f).ctxs = s.ctxs := rfl
@[simp] theorem State.modCore_combs (s : State) (c : Nat) (f : Core → Core) : (s.modCore c f).combs = s.combs := rfl
@[simp] theorem State.modCore_mem (s : State) (c : Nat) (f : Core → Core) : (s.modCore c f).mem = s.mem := rfl
@[simp] theorem State.modCore_poison (s : State) (c : Nat) (f : Core → Core) : (s.modCore c f).poison = s.poison := rfl
@[simp] theorem State.modCore_packed (s : State) (c : Nat) (f : Core → Core) : (s.modCore c f).packed = s.packed := rfl
@[simp] theorem State.modCore_lines (s : State) (c : Nat) (f : Core → Core) : (s.modCore c f).lines = s.lines := rfl
@[simp] theorem State.modCore_bases (s : State) (c : Nat) (f : Core → Core) : (s.modCore c f).bases = s.bases := rfl
@[simp] theorem State.modCore_pers (s : State) (c : Nat) (f : Core → Core) : (s.modCore c f).pers = s.pers := rfl
@[simp] theorem State.modCore_merges (s : State) (c : Nat) (f : Core → Core) : (s.modCore c f).merges = s.merges := rfl
@[simp] theorem State.modCore_agents (s : State) (c : Nat) (f : Core → Core) : (s.modCore c f).agents = s.agents := rfl
@[simp] theorem State.modCore_tlb (s : State) (c : Nat) (f : Core → Core) : (s.modCore c f).tlb = s.tlb := rfl
@[simp] theorem State.modCore_filter (s : State) (c : Nat) (f : Core → Core) : (s.modCore c f).filter = s.filter := rfl
@[simp] theorem State.modCore_lag (s : State) (c : Nat) (f : Core → Core) : (s.modCore c f).lag = s.lag := rfl
@[simp] theorem State.modCore_past (s : State) (c : Nat) (f : Core → Core) : (s.modCore c f).past = s.past := rfl
@[simp] theorem State.modCore_fields (s : State) (c : Nat) (f : Core → Core) : (s.modCore c f).fields = s.fields := rfl
@[simp] theorem State.modCore_seals (s : State) (c : Nat) (f : Core → Core) : (s.modCore c f).seals = s.seals := rfl
@[simp] theorem State.modCore_sealPast (s : State) (c : Nat) (f : Core → Core) : (s.modCore c f).sealPast = s.sealPast := rfl
@[simp] theorem State.modCore_launches (s : State) (c : Nat) (f : Core → Core) : (s.modCore c f).launches = s.launches := rfl
@[simp] theorem State.modCore_groups (s : State) (c : Nat) (f : Core → Core) : (s.modCore c f).groups = s.groups := rfl
@[simp] theorem State.modCore_images (s : State) (c : Nat) (f : Core → Core) : (s.modCore c f).images = s.images := rfl
@[simp] theorem State.modCore_tiles (s : State) (c : Nat) (f : Core → Core) : (s.modCore c f).tiles = s.tiles := rfl
@[simp] theorem State.modCore_tileWait (s : State) (c : Nat) (f : Core → Core) : (s.modCore c f).tileWait = s.tileWait := rfl
@[simp] theorem State.modCore_released (s : State) (c : Nat) (f : Core → Core) : (s.modCore c f).released = s.released := rfl
@[simp] theorem State.modCore_locks (s : State) (c : Nat) (f : Core → Core) : (s.modCore c f).locks = s.locks := rfl
@[simp] theorem State.modCore_lockWait (s : State) (c : Nat) (f : Core → Core) : (s.modCore c f).lockWait = s.lockWait := rfl
@[simp] theorem State.modCore_watches (s : State) (c : Nat) (f : Core → Core) : (s.modCore c f).watches = s.watches := rfl
@[simp] theorem State.modCore_binds (s : State) (c : Nat) (f : Core → Core) : (s.modCore c f).binds = s.binds := rfl
@[simp] theorem State.modCore_monitors (s : State) (c : Nat) (f : Core → Core) : (s.modCore c f).monitors = s.monitors := rfl
@[simp] theorem State.modCore_turns (s : State) (c : Nat) (f : Core → Core) : (s.modCore c f).turns = s.turns := rfl
@[simp] theorem State.modCore_agenda (s : State) (c : Nat) (f : Core → Core) : (s.modCore c f).agenda = s.agenda := rfl
@[simp] theorem State.modCore_tick (s : State) (c : Nat) (f : Core → Core) : (s.modCore c f).tick = s.tick := rfl
@[simp] theorem State.modCore_rounds (s : State) (c : Nat) (f : Core → Core) : (s.modCore c f).rounds = s.rounds := rfl
@[simp] theorem State.modCore_cur (s : State) (c : Nat) (f : Core → Core) : (s.modCore c f).cur = s.cur := rfl
@[simp] theorem State.modCore_seq (s : State) (c : Nat) (f : Core → Core) : (s.modCore c f).seq = s.seq := rfl
@[simp] theorem State.modCore_reply (s : State) (c : Nat) (f : Core → Core) : (s.modCore c f).reply = s.reply := rfl
@[simp] theorem State.modCore_byte (s : State) (c : Nat) (f : Core → Core) (x1 : Nat) : (s.modCore c f).byte x1 = s.byte x1 := rfl
@[simp] theorem State.modCore_bytes (s : State) (c : Nat) (f : Core → Core) (x1 x2 : Nat) : (s.modCore c f).bytes x1 x2 = s.bytes x1 x2 := rfl
@[simp] theorem State.modCore_num (s : State) (c : Nat) (f : Core → Core) (x1 x2 : Nat) : (s.modCore c f).num x1 x2 = s.num x1 x2 := rfl
@[simp] theorem State.modCore_desc (s : State) (c : Nat) (f : Core → Core) (x1 x2 x3 : Nat) : (s.modCore c f).desc x1 x2 x3 = s.desc x1 x2 x3 := rfl
@[simp] theorem State.modCore_ctxValid (s : State) (c : Nat) (f : Core → Core) (x1 : Nat) : (s.modCore c f).ctxValid x1 = s.ctxValid x1 := rfl
@[simp] theorem State.modCore_ctxSup (s : State) (c : Nat) (f : Core → Core) (x1 : Nat) : (s.modCore c f).ctxSup x1 = s.ctxSup x1 := rfl
@[simp] theorem State.modCore_ctxId (s : State) (c : Nat) (f : Core → Core) (x1 : Nat) : (s.modCore c f).ctxId x1 = s.ctxId x1 := rfl
@[simp] theorem State.modCore_ctxSlot (s : State) (c : Nat) (f : Core → Core) (x1 : Nat) : (s.modCore c f).ctxSlot x1 = s.ctxSlot x1 := rfl
@[simp] theorem State.modCore_tower (s : State) (c : Nat) (f : Core → Core) (x1 : Nat) : (s.modCore c f).tower x1 = s.tower x1 := rfl
@[simp] theorem State.modCore_running (s : State) (c : Nat) (f : Core → Core) (x1 : Nat) : (s.modCore c f).running x1 = s.running x1 := rfl
@[simp] theorem State.modCore_coreNumber (s : State) (c : Nat) (f : Core → Core) (x1 : Nat) : (s.modCore c f).coreNumber x1 = s.coreNumber x1 := rfl
@[simp] theorem State.modCore_comb (s : State) (c : Nat) (f : Core → Core) (x1 : Nat) : (s.modCore c f).comb x1 = s.comb x1 := rfl
@[simp] theorem State.modCore_ctx (s : State) (c : Nat) (f : Core → Core) (x1 : Nat) : (s.modCore c f).ctx x1 = s.ctx x1 := rfl
@[simp] theorem State.modCore_wgroup (s : State) (c : Nat) (f : Core → Core) (x1 : Nat) : (s.modCore c f).wgroup x1 = s.wgroup x1 := rfl
@[simp] theorem State.modCore_launch (s : State) (c : Nat) (f : Core → Core) (x1 : Nat) : (s.modCore c f).launch x1 = s.launch x1 := rfl
@[simp] theorem State.modCore_line (s : State) (c : Nat) (f : Core → Core) (x1 : Nat) : (s.modCore c f).line x1 = s.line x1 := rfl
@[simp] theorem State.modCore_monitor (s : State) (c : Nat) (f : Core → Core) (x1 : Nat) : (s.modCore c f).monitor x1 = s.monitor x1 := rfl

@[simp] theorem State.setWarp_pkg (s : State) (c k : Nat) (x : Option Warp) : (s.setWarp c k x).pkg = s.pkg := rfl
@[simp] theorem State.setWarp_towers (s : State) (c k : Nat) (x : Option Warp) : (s.setWarp c k x).towers = s.towers := rfl
@[simp] theorem State.setWarp_ctxs (s : State) (c k : Nat) (x : Option Warp) : (s.setWarp c k x).ctxs = s.ctxs := rfl
@[simp] theorem State.setWarp_combs (s : State) (c k : Nat) (x : Option Warp) : (s.setWarp c k x).combs = s.combs := rfl
@[simp] theorem State.setWarp_mem (s : State) (c k : Nat) (x : Option Warp) : (s.setWarp c k x).mem = s.mem := rfl
@[simp] theorem State.setWarp_poison (s : State) (c k : Nat) (x : Option Warp) : (s.setWarp c k x).poison = s.poison := rfl
@[simp] theorem State.setWarp_packed (s : State) (c k : Nat) (x : Option Warp) : (s.setWarp c k x).packed = s.packed := rfl
@[simp] theorem State.setWarp_lines (s : State) (c k : Nat) (x : Option Warp) : (s.setWarp c k x).lines = s.lines := rfl
@[simp] theorem State.setWarp_bases (s : State) (c k : Nat) (x : Option Warp) : (s.setWarp c k x).bases = s.bases := rfl
@[simp] theorem State.setWarp_pers (s : State) (c k : Nat) (x : Option Warp) : (s.setWarp c k x).pers = s.pers := rfl
@[simp] theorem State.setWarp_merges (s : State) (c k : Nat) (x : Option Warp) : (s.setWarp c k x).merges = s.merges := rfl
@[simp] theorem State.setWarp_agents (s : State) (c k : Nat) (x : Option Warp) : (s.setWarp c k x).agents = s.agents := rfl
@[simp] theorem State.setWarp_tlb (s : State) (c k : Nat) (x : Option Warp) : (s.setWarp c k x).tlb = s.tlb := rfl
@[simp] theorem State.setWarp_filter (s : State) (c k : Nat) (x : Option Warp) : (s.setWarp c k x).filter = s.filter := rfl
@[simp] theorem State.setWarp_lag (s : State) (c k : Nat) (x : Option Warp) : (s.setWarp c k x).lag = s.lag := rfl
@[simp] theorem State.setWarp_past (s : State) (c k : Nat) (x : Option Warp) : (s.setWarp c k x).past = s.past := rfl
@[simp] theorem State.setWarp_fields (s : State) (c k : Nat) (x : Option Warp) : (s.setWarp c k x).fields = s.fields := rfl
@[simp] theorem State.setWarp_seals (s : State) (c k : Nat) (x : Option Warp) : (s.setWarp c k x).seals = s.seals := rfl
@[simp] theorem State.setWarp_sealPast (s : State) (c k : Nat) (x : Option Warp) : (s.setWarp c k x).sealPast = s.sealPast := rfl
@[simp] theorem State.setWarp_launches (s : State) (c k : Nat) (x : Option Warp) : (s.setWarp c k x).launches = s.launches := rfl
@[simp] theorem State.setWarp_groups (s : State) (c k : Nat) (x : Option Warp) : (s.setWarp c k x).groups = s.groups := rfl
@[simp] theorem State.setWarp_images (s : State) (c k : Nat) (x : Option Warp) : (s.setWarp c k x).images = s.images := rfl
@[simp] theorem State.setWarp_tiles (s : State) (c k : Nat) (x : Option Warp) : (s.setWarp c k x).tiles = s.tiles := rfl
@[simp] theorem State.setWarp_tileWait (s : State) (c k : Nat) (x : Option Warp) : (s.setWarp c k x).tileWait = s.tileWait := rfl
@[simp] theorem State.setWarp_released (s : State) (c k : Nat) (x : Option Warp) : (s.setWarp c k x).released = s.released := rfl
@[simp] theorem State.setWarp_locks (s : State) (c k : Nat) (x : Option Warp) : (s.setWarp c k x).locks = s.locks := rfl
@[simp] theorem State.setWarp_lockWait (s : State) (c k : Nat) (x : Option Warp) : (s.setWarp c k x).lockWait = s.lockWait := rfl
@[simp] theorem State.setWarp_watches (s : State) (c k : Nat) (x : Option Warp) : (s.setWarp c k x).watches = s.watches := rfl
@[simp] theorem State.setWarp_binds (s : State) (c k : Nat) (x : Option Warp) : (s.setWarp c k x).binds = s.binds := rfl
@[simp] theorem State.setWarp_monitors (s : State) (c k : Nat) (x : Option Warp) : (s.setWarp c k x).monitors = s.monitors := rfl
@[simp] theorem State.setWarp_turns (s : State) (c k : Nat) (x : Option Warp) : (s.setWarp c k x).turns = s.turns := rfl
@[simp] theorem State.setWarp_agenda (s : State) (c k : Nat) (x : Option Warp) : (s.setWarp c k x).agenda = s.agenda := rfl
@[simp] theorem State.setWarp_tick (s : State) (c k : Nat) (x : Option Warp) : (s.setWarp c k x).tick = s.tick := rfl
@[simp] theorem State.setWarp_rounds (s : State) (c k : Nat) (x : Option Warp) : (s.setWarp c k x).rounds = s.rounds := rfl
@[simp] theorem State.setWarp_cur (s : State) (c k : Nat) (x : Option Warp) : (s.setWarp c k x).cur = s.cur := rfl
@[simp] theorem State.setWarp_seq (s : State) (c k : Nat) (x : Option Warp) : (s.setWarp c k x).seq = s.seq := rfl
@[simp] theorem State.setWarp_reply (s : State) (c k : Nat) (x : Option Warp) : (s.setWarp c k x).reply = s.reply := rfl
@[simp] theorem State.setWarp_byte (s : State) (c k : Nat) (x : Option Warp) (x1 : Nat) : (s.setWarp c k x).byte x1 = s.byte x1 := rfl
@[simp] theorem State.setWarp_bytes (s : State) (c k : Nat) (x : Option Warp) (x1 x2 : Nat) : (s.setWarp c k x).bytes x1 x2 = s.bytes x1 x2 := rfl
@[simp] theorem State.setWarp_num (s : State) (c k : Nat) (x : Option Warp) (x1 x2 : Nat) : (s.setWarp c k x).num x1 x2 = s.num x1 x2 := rfl
@[simp] theorem State.setWarp_desc (s : State) (c k : Nat) (x : Option Warp) (x1 x2 x3 : Nat) : (s.setWarp c k x).desc x1 x2 x3 = s.desc x1 x2 x3 := rfl
@[simp] theorem State.setWarp_ctxValid (s : State) (c k : Nat) (x : Option Warp) (x1 : Nat) : (s.setWarp c k x).ctxValid x1 = s.ctxValid x1 := rfl
@[simp] theorem State.setWarp_ctxSup (s : State) (c k : Nat) (x : Option Warp) (x1 : Nat) : (s.setWarp c k x).ctxSup x1 = s.ctxSup x1 := rfl
@[simp] theorem State.setWarp_ctxId (s : State) (c k : Nat) (x : Option Warp) (x1 : Nat) : (s.setWarp c k x).ctxId x1 = s.ctxId x1 := rfl
@[simp] theorem State.setWarp_ctxSlot (s : State) (c k : Nat) (x : Option Warp) (x1 : Nat) : (s.setWarp c k x).ctxSlot x1 = s.ctxSlot x1 := rfl
@[simp] theorem State.setWarp_tower (s : State) (c k : Nat) (x : Option Warp) (x1 : Nat) : (s.setWarp c k x).tower x1 = s.tower x1 := rfl
@[simp] theorem State.setWarp_running (s : State) (c k : Nat) (x : Option Warp) (x1 : Nat) : (s.setWarp c k x).running x1 = s.running x1 := rfl
@[simp] theorem State.setWarp_coreNumber (s : State) (c k : Nat) (x : Option Warp) (x1 : Nat) : (s.setWarp c k x).coreNumber x1 = s.coreNumber x1 := rfl
@[simp] theorem State.setWarp_comb (s : State) (c k : Nat) (x : Option Warp) (x1 : Nat) : (s.setWarp c k x).comb x1 = s.comb x1 := rfl
@[simp] theorem State.setWarp_ctx (s : State) (c k : Nat) (x : Option Warp) (x1 : Nat) : (s.setWarp c k x).ctx x1 = s.ctx x1 := rfl
@[simp] theorem State.setWarp_wgroup (s : State) (c k : Nat) (x : Option Warp) (x1 : Nat) : (s.setWarp c k x).wgroup x1 = s.wgroup x1 := rfl
@[simp] theorem State.setWarp_launch (s : State) (c k : Nat) (x : Option Warp) (x1 : Nat) : (s.setWarp c k x).launch x1 = s.launch x1 := rfl
@[simp] theorem State.setWarp_line (s : State) (c k : Nat) (x : Option Warp) (x1 : Nat) : (s.setWarp c k x).line x1 = s.line x1 := rfl
@[simp] theorem State.setWarp_monitor (s : State) (c k : Nat) (x : Option Warp) (x1 : Nat) : (s.setWarp c k x).monitor x1 = s.monitor x1 := rfl

@[simp] theorem State.modWarp_pkg (s : State) (c k : Nat) (f : Warp → Warp) : (s.modWarp c k f).pkg = s.pkg := rfl
@[simp] theorem State.modWarp_towers (s : State) (c k : Nat) (f : Warp → Warp) : (s.modWarp c k f).towers = s.towers := rfl
@[simp] theorem State.modWarp_ctxs (s : State) (c k : Nat) (f : Warp → Warp) : (s.modWarp c k f).ctxs = s.ctxs := rfl
@[simp] theorem State.modWarp_combs (s : State) (c k : Nat) (f : Warp → Warp) : (s.modWarp c k f).combs = s.combs := rfl
@[simp] theorem State.modWarp_mem (s : State) (c k : Nat) (f : Warp → Warp) : (s.modWarp c k f).mem = s.mem := rfl
@[simp] theorem State.modWarp_poison (s : State) (c k : Nat) (f : Warp → Warp) : (s.modWarp c k f).poison = s.poison := rfl
@[simp] theorem State.modWarp_packed (s : State) (c k : Nat) (f : Warp → Warp) : (s.modWarp c k f).packed = s.packed := rfl
@[simp] theorem State.modWarp_lines (s : State) (c k : Nat) (f : Warp → Warp) : (s.modWarp c k f).lines = s.lines := rfl
@[simp] theorem State.modWarp_bases (s : State) (c k : Nat) (f : Warp → Warp) : (s.modWarp c k f).bases = s.bases := rfl
@[simp] theorem State.modWarp_pers (s : State) (c k : Nat) (f : Warp → Warp) : (s.modWarp c k f).pers = s.pers := rfl
@[simp] theorem State.modWarp_merges (s : State) (c k : Nat) (f : Warp → Warp) : (s.modWarp c k f).merges = s.merges := rfl
@[simp] theorem State.modWarp_agents (s : State) (c k : Nat) (f : Warp → Warp) : (s.modWarp c k f).agents = s.agents := rfl
@[simp] theorem State.modWarp_tlb (s : State) (c k : Nat) (f : Warp → Warp) : (s.modWarp c k f).tlb = s.tlb := rfl
@[simp] theorem State.modWarp_filter (s : State) (c k : Nat) (f : Warp → Warp) : (s.modWarp c k f).filter = s.filter := rfl
@[simp] theorem State.modWarp_lag (s : State) (c k : Nat) (f : Warp → Warp) : (s.modWarp c k f).lag = s.lag := rfl
@[simp] theorem State.modWarp_past (s : State) (c k : Nat) (f : Warp → Warp) : (s.modWarp c k f).past = s.past := rfl
@[simp] theorem State.modWarp_fields (s : State) (c k : Nat) (f : Warp → Warp) : (s.modWarp c k f).fields = s.fields := rfl
@[simp] theorem State.modWarp_seals (s : State) (c k : Nat) (f : Warp → Warp) : (s.modWarp c k f).seals = s.seals := rfl
@[simp] theorem State.modWarp_sealPast (s : State) (c k : Nat) (f : Warp → Warp) : (s.modWarp c k f).sealPast = s.sealPast := rfl
@[simp] theorem State.modWarp_launches (s : State) (c k : Nat) (f : Warp → Warp) : (s.modWarp c k f).launches = s.launches := rfl
@[simp] theorem State.modWarp_groups (s : State) (c k : Nat) (f : Warp → Warp) : (s.modWarp c k f).groups = s.groups := rfl
@[simp] theorem State.modWarp_images (s : State) (c k : Nat) (f : Warp → Warp) : (s.modWarp c k f).images = s.images := rfl
@[simp] theorem State.modWarp_tiles (s : State) (c k : Nat) (f : Warp → Warp) : (s.modWarp c k f).tiles = s.tiles := rfl
@[simp] theorem State.modWarp_tileWait (s : State) (c k : Nat) (f : Warp → Warp) : (s.modWarp c k f).tileWait = s.tileWait := rfl
@[simp] theorem State.modWarp_released (s : State) (c k : Nat) (f : Warp → Warp) : (s.modWarp c k f).released = s.released := rfl
@[simp] theorem State.modWarp_locks (s : State) (c k : Nat) (f : Warp → Warp) : (s.modWarp c k f).locks = s.locks := rfl
@[simp] theorem State.modWarp_lockWait (s : State) (c k : Nat) (f : Warp → Warp) : (s.modWarp c k f).lockWait = s.lockWait := rfl
@[simp] theorem State.modWarp_watches (s : State) (c k : Nat) (f : Warp → Warp) : (s.modWarp c k f).watches = s.watches := rfl
@[simp] theorem State.modWarp_binds (s : State) (c k : Nat) (f : Warp → Warp) : (s.modWarp c k f).binds = s.binds := rfl
@[simp] theorem State.modWarp_monitors (s : State) (c k : Nat) (f : Warp → Warp) : (s.modWarp c k f).monitors = s.monitors := rfl
@[simp] theorem State.modWarp_turns (s : State) (c k : Nat) (f : Warp → Warp) : (s.modWarp c k f).turns = s.turns := rfl
@[simp] theorem State.modWarp_agenda (s : State) (c k : Nat) (f : Warp → Warp) : (s.modWarp c k f).agenda = s.agenda := rfl
@[simp] theorem State.modWarp_tick (s : State) (c k : Nat) (f : Warp → Warp) : (s.modWarp c k f).tick = s.tick := rfl
@[simp] theorem State.modWarp_rounds (s : State) (c k : Nat) (f : Warp → Warp) : (s.modWarp c k f).rounds = s.rounds := rfl
@[simp] theorem State.modWarp_cur (s : State) (c k : Nat) (f : Warp → Warp) : (s.modWarp c k f).cur = s.cur := rfl
@[simp] theorem State.modWarp_seq (s : State) (c k : Nat) (f : Warp → Warp) : (s.modWarp c k f).seq = s.seq := rfl
@[simp] theorem State.modWarp_reply (s : State) (c k : Nat) (f : Warp → Warp) : (s.modWarp c k f).reply = s.reply := rfl
@[simp] theorem State.modWarp_byte (s : State) (c k : Nat) (f : Warp → Warp) (x1 : Nat) : (s.modWarp c k f).byte x1 = s.byte x1 := rfl
@[simp] theorem State.modWarp_bytes (s : State) (c k : Nat) (f : Warp → Warp) (x1 x2 : Nat) : (s.modWarp c k f).bytes x1 x2 = s.bytes x1 x2 := rfl
@[simp] theorem State.modWarp_num (s : State) (c k : Nat) (f : Warp → Warp) (x1 x2 : Nat) : (s.modWarp c k f).num x1 x2 = s.num x1 x2 := rfl
@[simp] theorem State.modWarp_desc (s : State) (c k : Nat) (f : Warp → Warp) (x1 x2 x3 : Nat) : (s.modWarp c k f).desc x1 x2 x3 = s.desc x1 x2 x3 := rfl
@[simp] theorem State.modWarp_ctxValid (s : State) (c k : Nat) (f : Warp → Warp) (x1 : Nat) : (s.modWarp c k f).ctxValid x1 = s.ctxValid x1 := rfl
@[simp] theorem State.modWarp_ctxSup (s : State) (c k : Nat) (f : Warp → Warp) (x1 : Nat) : (s.modWarp c k f).ctxSup x1 = s.ctxSup x1 := rfl
@[simp] theorem State.modWarp_ctxId (s : State) (c k : Nat) (f : Warp → Warp) (x1 : Nat) : (s.modWarp c k f).ctxId x1 = s.ctxId x1 := rfl
@[simp] theorem State.modWarp_ctxSlot (s : State) (c k : Nat) (f : Warp → Warp) (x1 : Nat) : (s.modWarp c k f).ctxSlot x1 = s.ctxSlot x1 := rfl
@[simp] theorem State.modWarp_tower (s : State) (c k : Nat) (f : Warp → Warp) (x1 : Nat) : (s.modWarp c k f).tower x1 = s.tower x1 := rfl
@[simp] theorem State.modWarp_running (s : State) (c k : Nat) (f : Warp → Warp) (x1 : Nat) : (s.modWarp c k f).running x1 = s.running x1 := rfl
@[simp] theorem State.modWarp_coreNumber (s : State) (c k : Nat) (f : Warp → Warp) (x1 : Nat) : (s.modWarp c k f).coreNumber x1 = s.coreNumber x1 := rfl
@[simp] theorem State.modWarp_comb (s : State) (c k : Nat) (f : Warp → Warp) (x1 : Nat) : (s.modWarp c k f).comb x1 = s.comb x1 := rfl
@[simp] theorem State.modWarp_ctx (s : State) (c k : Nat) (f : Warp → Warp) (x1 : Nat) : (s.modWarp c k f).ctx x1 = s.ctx x1 := rfl
@[simp] theorem State.modWarp_wgroup (s : State) (c k : Nat) (f : Warp → Warp) (x1 : Nat) : (s.modWarp c k f).wgroup x1 = s.wgroup x1 := rfl
@[simp] theorem State.modWarp_launch (s : State) (c k : Nat) (f : Warp → Warp) (x1 : Nat) : (s.modWarp c k f).launch x1 = s.launch x1 := rfl
@[simp] theorem State.modWarp_line (s : State) (c k : Nat) (f : Warp → Warp) (x1 : Nat) : (s.modWarp c k f).line x1 = s.line x1 := rfl
@[simp] theorem State.modWarp_monitor (s : State) (c k : Nat) (f : Warp → Warp) (x1 : Nat) : (s.modWarp c k f).monitor x1 = s.monitor x1 := rfl

@[simp] theorem State.modFrag_pkg (s : State) (r : FragRef) (f : Frag → Frag) : (s.modFrag r f).pkg = s.pkg := rfl
@[simp] theorem State.modFrag_towers (s : State) (r : FragRef) (f : Frag → Frag) : (s.modFrag r f).towers = s.towers := rfl
@[simp] theorem State.modFrag_ctxs (s : State) (r : FragRef) (f : Frag → Frag) : (s.modFrag r f).ctxs = s.ctxs := rfl
@[simp] theorem State.modFrag_combs (s : State) (r : FragRef) (f : Frag → Frag) : (s.modFrag r f).combs = s.combs := rfl
@[simp] theorem State.modFrag_mem (s : State) (r : FragRef) (f : Frag → Frag) : (s.modFrag r f).mem = s.mem := rfl
@[simp] theorem State.modFrag_poison (s : State) (r : FragRef) (f : Frag → Frag) : (s.modFrag r f).poison = s.poison := rfl
@[simp] theorem State.modFrag_packed (s : State) (r : FragRef) (f : Frag → Frag) : (s.modFrag r f).packed = s.packed := rfl
@[simp] theorem State.modFrag_lines (s : State) (r : FragRef) (f : Frag → Frag) : (s.modFrag r f).lines = s.lines := rfl
@[simp] theorem State.modFrag_bases (s : State) (r : FragRef) (f : Frag → Frag) : (s.modFrag r f).bases = s.bases := rfl
@[simp] theorem State.modFrag_pers (s : State) (r : FragRef) (f : Frag → Frag) : (s.modFrag r f).pers = s.pers := rfl
@[simp] theorem State.modFrag_merges (s : State) (r : FragRef) (f : Frag → Frag) : (s.modFrag r f).merges = s.merges := rfl
@[simp] theorem State.modFrag_agents (s : State) (r : FragRef) (f : Frag → Frag) : (s.modFrag r f).agents = s.agents := rfl
@[simp] theorem State.modFrag_tlb (s : State) (r : FragRef) (f : Frag → Frag) : (s.modFrag r f).tlb = s.tlb := rfl
@[simp] theorem State.modFrag_filter (s : State) (r : FragRef) (f : Frag → Frag) : (s.modFrag r f).filter = s.filter := rfl
@[simp] theorem State.modFrag_lag (s : State) (r : FragRef) (f : Frag → Frag) : (s.modFrag r f).lag = s.lag := rfl
@[simp] theorem State.modFrag_past (s : State) (r : FragRef) (f : Frag → Frag) : (s.modFrag r f).past = s.past := rfl
@[simp] theorem State.modFrag_fields (s : State) (r : FragRef) (f : Frag → Frag) : (s.modFrag r f).fields = s.fields := rfl
@[simp] theorem State.modFrag_seals (s : State) (r : FragRef) (f : Frag → Frag) : (s.modFrag r f).seals = s.seals := rfl
@[simp] theorem State.modFrag_sealPast (s : State) (r : FragRef) (f : Frag → Frag) : (s.modFrag r f).sealPast = s.sealPast := rfl
@[simp] theorem State.modFrag_launches (s : State) (r : FragRef) (f : Frag → Frag) : (s.modFrag r f).launches = s.launches := rfl
@[simp] theorem State.modFrag_groups (s : State) (r : FragRef) (f : Frag → Frag) : (s.modFrag r f).groups = s.groups := rfl
@[simp] theorem State.modFrag_images (s : State) (r : FragRef) (f : Frag → Frag) : (s.modFrag r f).images = s.images := rfl
@[simp] theorem State.modFrag_tiles (s : State) (r : FragRef) (f : Frag → Frag) : (s.modFrag r f).tiles = s.tiles := rfl
@[simp] theorem State.modFrag_tileWait (s : State) (r : FragRef) (f : Frag → Frag) : (s.modFrag r f).tileWait = s.tileWait := rfl
@[simp] theorem State.modFrag_released (s : State) (r : FragRef) (f : Frag → Frag) : (s.modFrag r f).released = s.released := rfl
@[simp] theorem State.modFrag_locks (s : State) (r : FragRef) (f : Frag → Frag) : (s.modFrag r f).locks = s.locks := rfl
@[simp] theorem State.modFrag_lockWait (s : State) (r : FragRef) (f : Frag → Frag) : (s.modFrag r f).lockWait = s.lockWait := rfl
@[simp] theorem State.modFrag_watches (s : State) (r : FragRef) (f : Frag → Frag) : (s.modFrag r f).watches = s.watches := rfl
@[simp] theorem State.modFrag_binds (s : State) (r : FragRef) (f : Frag → Frag) : (s.modFrag r f).binds = s.binds := rfl
@[simp] theorem State.modFrag_monitors (s : State) (r : FragRef) (f : Frag → Frag) : (s.modFrag r f).monitors = s.monitors := rfl
@[simp] theorem State.modFrag_turns (s : State) (r : FragRef) (f : Frag → Frag) : (s.modFrag r f).turns = s.turns := rfl
@[simp] theorem State.modFrag_agenda (s : State) (r : FragRef) (f : Frag → Frag) : (s.modFrag r f).agenda = s.agenda := rfl
@[simp] theorem State.modFrag_tick (s : State) (r : FragRef) (f : Frag → Frag) : (s.modFrag r f).tick = s.tick := rfl
@[simp] theorem State.modFrag_rounds (s : State) (r : FragRef) (f : Frag → Frag) : (s.modFrag r f).rounds = s.rounds := rfl
@[simp] theorem State.modFrag_cur (s : State) (r : FragRef) (f : Frag → Frag) : (s.modFrag r f).cur = s.cur := rfl
@[simp] theorem State.modFrag_seq (s : State) (r : FragRef) (f : Frag → Frag) : (s.modFrag r f).seq = s.seq := rfl
@[simp] theorem State.modFrag_reply (s : State) (r : FragRef) (f : Frag → Frag) : (s.modFrag r f).reply = s.reply := rfl
@[simp] theorem State.modFrag_byte (s : State) (r : FragRef) (f : Frag → Frag) (x1 : Nat) : (s.modFrag r f).byte x1 = s.byte x1 := rfl
@[simp] theorem State.modFrag_bytes (s : State) (r : FragRef) (f : Frag → Frag) (x1 x2 : Nat) : (s.modFrag r f).bytes x1 x2 = s.bytes x1 x2 := rfl
@[simp] theorem State.modFrag_num (s : State) (r : FragRef) (f : Frag → Frag) (x1 x2 : Nat) : (s.modFrag r f).num x1 x2 = s.num x1 x2 := rfl
@[simp] theorem State.modFrag_desc (s : State) (r : FragRef) (f : Frag → Frag) (x1 x2 x3 : Nat) : (s.modFrag r f).desc x1 x2 x3 = s.desc x1 x2 x3 := rfl
@[simp] theorem State.modFrag_ctxValid (s : State) (r : FragRef) (f : Frag → Frag) (x1 : Nat) : (s.modFrag r f).ctxValid x1 = s.ctxValid x1 := rfl
@[simp] theorem State.modFrag_ctxSup (s : State) (r : FragRef) (f : Frag → Frag) (x1 : Nat) : (s.modFrag r f).ctxSup x1 = s.ctxSup x1 := rfl
@[simp] theorem State.modFrag_ctxId (s : State) (r : FragRef) (f : Frag → Frag) (x1 : Nat) : (s.modFrag r f).ctxId x1 = s.ctxId x1 := rfl
@[simp] theorem State.modFrag_ctxSlot (s : State) (r : FragRef) (f : Frag → Frag) (x1 : Nat) : (s.modFrag r f).ctxSlot x1 = s.ctxSlot x1 := rfl
@[simp] theorem State.modFrag_tower (s : State) (r : FragRef) (f : Frag → Frag) (x1 : Nat) : (s.modFrag r f).tower x1 = s.tower x1 := rfl
@[simp] theorem State.modFrag_running (s : State) (r : FragRef) (f : Frag → Frag) (x1 : Nat) : (s.modFrag r f).running x1 = s.running x1 := rfl
@[simp] theorem State.modFrag_coreNumber (s : State) (r : FragRef) (f : Frag → Frag) (x1 : Nat) : (s.modFrag r f).coreNumber x1 = s.coreNumber x1 := rfl
@[simp] theorem State.modFrag_comb (s : State) (r : FragRef) (f : Frag → Frag) (x1 : Nat) : (s.modFrag r f).comb x1 = s.comb x1 := rfl
@[simp] theorem State.modFrag_ctx (s : State) (r : FragRef) (f : Frag → Frag) (x1 : Nat) : (s.modFrag r f).ctx x1 = s.ctx x1 := rfl
@[simp] theorem State.modFrag_wgroup (s : State) (r : FragRef) (f : Frag → Frag) (x1 : Nat) : (s.modFrag r f).wgroup x1 = s.wgroup x1 := rfl
@[simp] theorem State.modFrag_launch (s : State) (r : FragRef) (f : Frag → Frag) (x1 : Nat) : (s.modFrag r f).launch x1 = s.launch x1 := rfl
@[simp] theorem State.modFrag_line (s : State) (r : FragRef) (f : Frag → Frag) (x1 : Nat) : (s.modFrag r f).line x1 = s.line x1 := rfl
@[simp] theorem State.modFrag_monitor (s : State) (r : FragRef) (f : Frag → Frag) (x1 : Nat) : (s.modFrag r f).monitor x1 = s.monitor x1 := rfl

@[simp] theorem State.modComb_pkg (s : State) (c : Nat) (f : Comb → Comb) : (s.modComb c f).pkg = s.pkg := rfl
@[simp] theorem State.modComb_towers (s : State) (c : Nat) (f : Comb → Comb) : (s.modComb c f).towers = s.towers := rfl
@[simp] theorem State.modComb_ctxs (s : State) (c : Nat) (f : Comb → Comb) : (s.modComb c f).ctxs = s.ctxs := rfl
@[simp] theorem State.modComb_cores (s : State) (c : Nat) (f : Comb → Comb) : (s.modComb c f).cores = s.cores := rfl
@[simp] theorem State.modComb_mem (s : State) (c : Nat) (f : Comb → Comb) : (s.modComb c f).mem = s.mem := rfl
@[simp] theorem State.modComb_poison (s : State) (c : Nat) (f : Comb → Comb) : (s.modComb c f).poison = s.poison := rfl
@[simp] theorem State.modComb_packed (s : State) (c : Nat) (f : Comb → Comb) : (s.modComb c f).packed = s.packed := rfl
@[simp] theorem State.modComb_lines (s : State) (c : Nat) (f : Comb → Comb) : (s.modComb c f).lines = s.lines := rfl
@[simp] theorem State.modComb_bases (s : State) (c : Nat) (f : Comb → Comb) : (s.modComb c f).bases = s.bases := rfl
@[simp] theorem State.modComb_pers (s : State) (c : Nat) (f : Comb → Comb) : (s.modComb c f).pers = s.pers := rfl
@[simp] theorem State.modComb_merges (s : State) (c : Nat) (f : Comb → Comb) : (s.modComb c f).merges = s.merges := rfl
@[simp] theorem State.modComb_agents (s : State) (c : Nat) (f : Comb → Comb) : (s.modComb c f).agents = s.agents := rfl
@[simp] theorem State.modComb_tlb (s : State) (c : Nat) (f : Comb → Comb) : (s.modComb c f).tlb = s.tlb := rfl
@[simp] theorem State.modComb_filter (s : State) (c : Nat) (f : Comb → Comb) : (s.modComb c f).filter = s.filter := rfl
@[simp] theorem State.modComb_lag (s : State) (c : Nat) (f : Comb → Comb) : (s.modComb c f).lag = s.lag := rfl
@[simp] theorem State.modComb_past (s : State) (c : Nat) (f : Comb → Comb) : (s.modComb c f).past = s.past := rfl
@[simp] theorem State.modComb_fields (s : State) (c : Nat) (f : Comb → Comb) : (s.modComb c f).fields = s.fields := rfl
@[simp] theorem State.modComb_seals (s : State) (c : Nat) (f : Comb → Comb) : (s.modComb c f).seals = s.seals := rfl
@[simp] theorem State.modComb_sealPast (s : State) (c : Nat) (f : Comb → Comb) : (s.modComb c f).sealPast = s.sealPast := rfl
@[simp] theorem State.modComb_launches (s : State) (c : Nat) (f : Comb → Comb) : (s.modComb c f).launches = s.launches := rfl
@[simp] theorem State.modComb_groups (s : State) (c : Nat) (f : Comb → Comb) : (s.modComb c f).groups = s.groups := rfl
@[simp] theorem State.modComb_images (s : State) (c : Nat) (f : Comb → Comb) : (s.modComb c f).images = s.images := rfl
@[simp] theorem State.modComb_tiles (s : State) (c : Nat) (f : Comb → Comb) : (s.modComb c f).tiles = s.tiles := rfl
@[simp] theorem State.modComb_tileWait (s : State) (c : Nat) (f : Comb → Comb) : (s.modComb c f).tileWait = s.tileWait := rfl
@[simp] theorem State.modComb_released (s : State) (c : Nat) (f : Comb → Comb) : (s.modComb c f).released = s.released := rfl
@[simp] theorem State.modComb_locks (s : State) (c : Nat) (f : Comb → Comb) : (s.modComb c f).locks = s.locks := rfl
@[simp] theorem State.modComb_lockWait (s : State) (c : Nat) (f : Comb → Comb) : (s.modComb c f).lockWait = s.lockWait := rfl
@[simp] theorem State.modComb_watches (s : State) (c : Nat) (f : Comb → Comb) : (s.modComb c f).watches = s.watches := rfl
@[simp] theorem State.modComb_binds (s : State) (c : Nat) (f : Comb → Comb) : (s.modComb c f).binds = s.binds := rfl
@[simp] theorem State.modComb_monitors (s : State) (c : Nat) (f : Comb → Comb) : (s.modComb c f).monitors = s.monitors := rfl
@[simp] theorem State.modComb_turns (s : State) (c : Nat) (f : Comb → Comb) : (s.modComb c f).turns = s.turns := rfl
@[simp] theorem State.modComb_agenda (s : State) (c : Nat) (f : Comb → Comb) : (s.modComb c f).agenda = s.agenda := rfl
@[simp] theorem State.modComb_tick (s : State) (c : Nat) (f : Comb → Comb) : (s.modComb c f).tick = s.tick := rfl
@[simp] theorem State.modComb_rounds (s : State) (c : Nat) (f : Comb → Comb) : (s.modComb c f).rounds = s.rounds := rfl
@[simp] theorem State.modComb_cur (s : State) (c : Nat) (f : Comb → Comb) : (s.modComb c f).cur = s.cur := rfl
@[simp] theorem State.modComb_seq (s : State) (c : Nat) (f : Comb → Comb) : (s.modComb c f).seq = s.seq := rfl
@[simp] theorem State.modComb_reply (s : State) (c : Nat) (f : Comb → Comb) : (s.modComb c f).reply = s.reply := rfl
@[simp] theorem State.modComb_byte (s : State) (c : Nat) (f : Comb → Comb) (x1 : Nat) : (s.modComb c f).byte x1 = s.byte x1 := rfl
@[simp] theorem State.modComb_bytes (s : State) (c : Nat) (f : Comb → Comb) (x1 x2 : Nat) : (s.modComb c f).bytes x1 x2 = s.bytes x1 x2 := rfl
@[simp] theorem State.modComb_num (s : State) (c : Nat) (f : Comb → Comb) (x1 x2 : Nat) : (s.modComb c f).num x1 x2 = s.num x1 x2 := rfl
@[simp] theorem State.modComb_desc (s : State) (c : Nat) (f : Comb → Comb) (x1 x2 x3 : Nat) : (s.modComb c f).desc x1 x2 x3 = s.desc x1 x2 x3 := rfl
@[simp] theorem State.modComb_ctxValid (s : State) (c : Nat) (f : Comb → Comb) (x1 : Nat) : (s.modComb c f).ctxValid x1 = s.ctxValid x1 := rfl
@[simp] theorem State.modComb_ctxSup (s : State) (c : Nat) (f : Comb → Comb) (x1 : Nat) : (s.modComb c f).ctxSup x1 = s.ctxSup x1 := rfl
@[simp] theorem State.modComb_ctxId (s : State) (c : Nat) (f : Comb → Comb) (x1 : Nat) : (s.modComb c f).ctxId x1 = s.ctxId x1 := rfl
@[simp] theorem State.modComb_ctxSlot (s : State) (c : Nat) (f : Comb → Comb) (x1 : Nat) : (s.modComb c f).ctxSlot x1 = s.ctxSlot x1 := rfl
@[simp] theorem State.modComb_tower (s : State) (c : Nat) (f : Comb → Comb) (x1 : Nat) : (s.modComb c f).tower x1 = s.tower x1 := rfl
@[simp] theorem State.modComb_running (s : State) (c : Nat) (f : Comb → Comb) (x1 : Nat) : (s.modComb c f).running x1 = s.running x1 := rfl
@[simp] theorem State.modComb_coreNumber (s : State) (c : Nat) (f : Comb → Comb) (x1 : Nat) : (s.modComb c f).coreNumber x1 = s.coreNumber x1 := rfl
@[simp] theorem State.modComb_core (s : State) (c : Nat) (f : Comb → Comb) (x1 : Nat) : (s.modComb c f).core x1 = s.core x1 := rfl
@[simp] theorem State.modComb_warp (s : State) (c : Nat) (f : Comb → Comb) (x1 x2 : Nat) : (s.modComb c f).warp x1 x2 = s.warp x1 x2 := rfl
@[simp] theorem State.modComb_ctx (s : State) (c : Nat) (f : Comb → Comb) (x1 : Nat) : (s.modComb c f).ctx x1 = s.ctx x1 := rfl
@[simp] theorem State.modComb_wgroup (s : State) (c : Nat) (f : Comb → Comb) (x1 : Nat) : (s.modComb c f).wgroup x1 = s.wgroup x1 := rfl
@[simp] theorem State.modComb_launch (s : State) (c : Nat) (f : Comb → Comb) (x1 : Nat) : (s.modComb c f).launch x1 = s.launch x1 := rfl
@[simp] theorem State.modComb_line (s : State) (c : Nat) (f : Comb → Comb) (x1 : Nat) : (s.modComb c f).line x1 = s.line x1 := rfl
@[simp] theorem State.modComb_monitor (s : State) (c : Nat) (f : Comb → Comb) (x1 : Nat) : (s.modComb c f).monitor x1 = s.monitor x1 := rfl

@[simp] theorem State.modCtx_pkg (s : State) (i : Nat) (f : Ctx → Ctx) : (s.modCtx i f).pkg = s.pkg := rfl
@[simp] theorem State.modCtx_towers (s : State) (i : Nat) (f : Ctx → Ctx) : (s.modCtx i f).towers = s.towers := rfl
@[simp] theorem State.modCtx_combs (s : State) (i : Nat) (f : Ctx → Ctx) : (s.modCtx i f).combs = s.combs := rfl
@[simp] theorem State.modCtx_cores (s : State) (i : Nat) (f : Ctx → Ctx) : (s.modCtx i f).cores = s.cores := rfl
@[simp] theorem State.modCtx_mem (s : State) (i : Nat) (f : Ctx → Ctx) : (s.modCtx i f).mem = s.mem := rfl
@[simp] theorem State.modCtx_poison (s : State) (i : Nat) (f : Ctx → Ctx) : (s.modCtx i f).poison = s.poison := rfl
@[simp] theorem State.modCtx_packed (s : State) (i : Nat) (f : Ctx → Ctx) : (s.modCtx i f).packed = s.packed := rfl
@[simp] theorem State.modCtx_lines (s : State) (i : Nat) (f : Ctx → Ctx) : (s.modCtx i f).lines = s.lines := rfl
@[simp] theorem State.modCtx_bases (s : State) (i : Nat) (f : Ctx → Ctx) : (s.modCtx i f).bases = s.bases := rfl
@[simp] theorem State.modCtx_pers (s : State) (i : Nat) (f : Ctx → Ctx) : (s.modCtx i f).pers = s.pers := rfl
@[simp] theorem State.modCtx_merges (s : State) (i : Nat) (f : Ctx → Ctx) : (s.modCtx i f).merges = s.merges := rfl
@[simp] theorem State.modCtx_agents (s : State) (i : Nat) (f : Ctx → Ctx) : (s.modCtx i f).agents = s.agents := rfl
@[simp] theorem State.modCtx_tlb (s : State) (i : Nat) (f : Ctx → Ctx) : (s.modCtx i f).tlb = s.tlb := rfl
@[simp] theorem State.modCtx_filter (s : State) (i : Nat) (f : Ctx → Ctx) : (s.modCtx i f).filter = s.filter := rfl
@[simp] theorem State.modCtx_lag (s : State) (i : Nat) (f : Ctx → Ctx) : (s.modCtx i f).lag = s.lag := rfl
@[simp] theorem State.modCtx_past (s : State) (i : Nat) (f : Ctx → Ctx) : (s.modCtx i f).past = s.past := rfl
@[simp] theorem State.modCtx_fields (s : State) (i : Nat) (f : Ctx → Ctx) : (s.modCtx i f).fields = s.fields := rfl
@[simp] theorem State.modCtx_seals (s : State) (i : Nat) (f : Ctx → Ctx) : (s.modCtx i f).seals = s.seals := rfl
@[simp] theorem State.modCtx_sealPast (s : State) (i : Nat) (f : Ctx → Ctx) : (s.modCtx i f).sealPast = s.sealPast := rfl
@[simp] theorem State.modCtx_launches (s : State) (i : Nat) (f : Ctx → Ctx) : (s.modCtx i f).launches = s.launches := rfl
@[simp] theorem State.modCtx_groups (s : State) (i : Nat) (f : Ctx → Ctx) : (s.modCtx i f).groups = s.groups := rfl
@[simp] theorem State.modCtx_images (s : State) (i : Nat) (f : Ctx → Ctx) : (s.modCtx i f).images = s.images := rfl
@[simp] theorem State.modCtx_tiles (s : State) (i : Nat) (f : Ctx → Ctx) : (s.modCtx i f).tiles = s.tiles := rfl
@[simp] theorem State.modCtx_tileWait (s : State) (i : Nat) (f : Ctx → Ctx) : (s.modCtx i f).tileWait = s.tileWait := rfl
@[simp] theorem State.modCtx_released (s : State) (i : Nat) (f : Ctx → Ctx) : (s.modCtx i f).released = s.released := rfl
@[simp] theorem State.modCtx_locks (s : State) (i : Nat) (f : Ctx → Ctx) : (s.modCtx i f).locks = s.locks := rfl
@[simp] theorem State.modCtx_lockWait (s : State) (i : Nat) (f : Ctx → Ctx) : (s.modCtx i f).lockWait = s.lockWait := rfl
@[simp] theorem State.modCtx_watches (s : State) (i : Nat) (f : Ctx → Ctx) : (s.modCtx i f).watches = s.watches := rfl
@[simp] theorem State.modCtx_binds (s : State) (i : Nat) (f : Ctx → Ctx) : (s.modCtx i f).binds = s.binds := rfl
@[simp] theorem State.modCtx_monitors (s : State) (i : Nat) (f : Ctx → Ctx) : (s.modCtx i f).monitors = s.monitors := rfl
@[simp] theorem State.modCtx_turns (s : State) (i : Nat) (f : Ctx → Ctx) : (s.modCtx i f).turns = s.turns := rfl
@[simp] theorem State.modCtx_agenda (s : State) (i : Nat) (f : Ctx → Ctx) : (s.modCtx i f).agenda = s.agenda := rfl
@[simp] theorem State.modCtx_tick (s : State) (i : Nat) (f : Ctx → Ctx) : (s.modCtx i f).tick = s.tick := rfl
@[simp] theorem State.modCtx_rounds (s : State) (i : Nat) (f : Ctx → Ctx) : (s.modCtx i f).rounds = s.rounds := rfl
@[simp] theorem State.modCtx_cur (s : State) (i : Nat) (f : Ctx → Ctx) : (s.modCtx i f).cur = s.cur := rfl
@[simp] theorem State.modCtx_seq (s : State) (i : Nat) (f : Ctx → Ctx) : (s.modCtx i f).seq = s.seq := rfl
@[simp] theorem State.modCtx_reply (s : State) (i : Nat) (f : Ctx → Ctx) : (s.modCtx i f).reply = s.reply := rfl
@[simp] theorem State.modCtx_byte (s : State) (i : Nat) (f : Ctx → Ctx) (x1 : Nat) : (s.modCtx i f).byte x1 = s.byte x1 := rfl
@[simp] theorem State.modCtx_bytes (s : State) (i : Nat) (f : Ctx → Ctx) (x1 x2 : Nat) : (s.modCtx i f).bytes x1 x2 = s.bytes x1 x2 := rfl
@[simp] theorem State.modCtx_num (s : State) (i : Nat) (f : Ctx → Ctx) (x1 x2 : Nat) : (s.modCtx i f).num x1 x2 = s.num x1 x2 := rfl
@[simp] theorem State.modCtx_desc (s : State) (i : Nat) (f : Ctx → Ctx) (x1 x2 x3 : Nat) : (s.modCtx i f).desc x1 x2 x3 = s.desc x1 x2 x3 := rfl
@[simp] theorem State.modCtx_ctxValid (s : State) (i : Nat) (f : Ctx → Ctx) (x1 : Nat) : (s.modCtx i f).ctxValid x1 = s.ctxValid x1 := rfl
@[simp] theorem State.modCtx_ctxSup (s : State) (i : Nat) (f : Ctx → Ctx) (x1 : Nat) : (s.modCtx i f).ctxSup x1 = s.ctxSup x1 := rfl
@[simp] theorem State.modCtx_ctxId (s : State) (i : Nat) (f : Ctx → Ctx) (x1 : Nat) : (s.modCtx i f).ctxId x1 = s.ctxId x1 := rfl
@[simp] theorem State.modCtx_ctxSlot (s : State) (i : Nat) (f : Ctx → Ctx) (x1 : Nat) : (s.modCtx i f).ctxSlot x1 = s.ctxSlot x1 := rfl
@[simp] theorem State.modCtx_tower (s : State) (i : Nat) (f : Ctx → Ctx) (x1 : Nat) : (s.modCtx i f).tower x1 = s.tower x1 := rfl
@[simp] theorem State.modCtx_running (s : State) (i : Nat) (f : Ctx → Ctx) (x1 : Nat) : (s.modCtx i f).running x1 = s.running x1 := rfl
@[simp] theorem State.modCtx_coreNumber (s : State) (i : Nat) (f : Ctx → Ctx) (x1 : Nat) : (s.modCtx i f).coreNumber x1 = s.coreNumber x1 := rfl
@[simp] theorem State.modCtx_core (s : State) (i : Nat) (f : Ctx → Ctx) (x1 : Nat) : (s.modCtx i f).core x1 = s.core x1 := rfl
@[simp] theorem State.modCtx_warp (s : State) (i : Nat) (f : Ctx → Ctx) (x1 x2 : Nat) : (s.modCtx i f).warp x1 x2 = s.warp x1 x2 := rfl
@[simp] theorem State.modCtx_comb (s : State) (i : Nat) (f : Ctx → Ctx) (x1 : Nat) : (s.modCtx i f).comb x1 = s.comb x1 := rfl
@[simp] theorem State.modCtx_wgroup (s : State) (i : Nat) (f : Ctx → Ctx) (x1 : Nat) : (s.modCtx i f).wgroup x1 = s.wgroup x1 := rfl
@[simp] theorem State.modCtx_launch (s : State) (i : Nat) (f : Ctx → Ctx) (x1 : Nat) : (s.modCtx i f).launch x1 = s.launch x1 := rfl
@[simp] theorem State.modCtx_line (s : State) (i : Nat) (f : Ctx → Ctx) (x1 : Nat) : (s.modCtx i f).line x1 = s.line x1 := rfl
@[simp] theorem State.modCtx_monitor (s : State) (i : Nat) (f : Ctx → Ctx) (x1 : Nat) : (s.modCtx i f).monitor x1 = s.monitor x1 := rfl

@[simp] theorem State.modQueue_pkg (s : State) (i q : Nat) (f : Queue → Queue) : (s.modQueue i q f).pkg = s.pkg := rfl
@[simp] theorem State.modQueue_towers (s : State) (i q : Nat) (f : Queue → Queue) : (s.modQueue i q f).towers = s.towers := rfl
@[simp] theorem State.modQueue_combs (s : State) (i q : Nat) (f : Queue → Queue) : (s.modQueue i q f).combs = s.combs := rfl
@[simp] theorem State.modQueue_cores (s : State) (i q : Nat) (f : Queue → Queue) : (s.modQueue i q f).cores = s.cores := rfl
@[simp] theorem State.modQueue_mem (s : State) (i q : Nat) (f : Queue → Queue) : (s.modQueue i q f).mem = s.mem := rfl
@[simp] theorem State.modQueue_poison (s : State) (i q : Nat) (f : Queue → Queue) : (s.modQueue i q f).poison = s.poison := rfl
@[simp] theorem State.modQueue_packed (s : State) (i q : Nat) (f : Queue → Queue) : (s.modQueue i q f).packed = s.packed := rfl
@[simp] theorem State.modQueue_lines (s : State) (i q : Nat) (f : Queue → Queue) : (s.modQueue i q f).lines = s.lines := rfl
@[simp] theorem State.modQueue_bases (s : State) (i q : Nat) (f : Queue → Queue) : (s.modQueue i q f).bases = s.bases := rfl
@[simp] theorem State.modQueue_pers (s : State) (i q : Nat) (f : Queue → Queue) : (s.modQueue i q f).pers = s.pers := rfl
@[simp] theorem State.modQueue_merges (s : State) (i q : Nat) (f : Queue → Queue) : (s.modQueue i q f).merges = s.merges := rfl
@[simp] theorem State.modQueue_agents (s : State) (i q : Nat) (f : Queue → Queue) : (s.modQueue i q f).agents = s.agents := rfl
@[simp] theorem State.modQueue_tlb (s : State) (i q : Nat) (f : Queue → Queue) : (s.modQueue i q f).tlb = s.tlb := rfl
@[simp] theorem State.modQueue_filter (s : State) (i q : Nat) (f : Queue → Queue) : (s.modQueue i q f).filter = s.filter := rfl
@[simp] theorem State.modQueue_lag (s : State) (i q : Nat) (f : Queue → Queue) : (s.modQueue i q f).lag = s.lag := rfl
@[simp] theorem State.modQueue_past (s : State) (i q : Nat) (f : Queue → Queue) : (s.modQueue i q f).past = s.past := rfl
@[simp] theorem State.modQueue_fields (s : State) (i q : Nat) (f : Queue → Queue) : (s.modQueue i q f).fields = s.fields := rfl
@[simp] theorem State.modQueue_seals (s : State) (i q : Nat) (f : Queue → Queue) : (s.modQueue i q f).seals = s.seals := rfl
@[simp] theorem State.modQueue_sealPast (s : State) (i q : Nat) (f : Queue → Queue) : (s.modQueue i q f).sealPast = s.sealPast := rfl
@[simp] theorem State.modQueue_launches (s : State) (i q : Nat) (f : Queue → Queue) : (s.modQueue i q f).launches = s.launches := rfl
@[simp] theorem State.modQueue_groups (s : State) (i q : Nat) (f : Queue → Queue) : (s.modQueue i q f).groups = s.groups := rfl
@[simp] theorem State.modQueue_images (s : State) (i q : Nat) (f : Queue → Queue) : (s.modQueue i q f).images = s.images := rfl
@[simp] theorem State.modQueue_tiles (s : State) (i q : Nat) (f : Queue → Queue) : (s.modQueue i q f).tiles = s.tiles := rfl
@[simp] theorem State.modQueue_tileWait (s : State) (i q : Nat) (f : Queue → Queue) : (s.modQueue i q f).tileWait = s.tileWait := rfl
@[simp] theorem State.modQueue_released (s : State) (i q : Nat) (f : Queue → Queue) : (s.modQueue i q f).released = s.released := rfl
@[simp] theorem State.modQueue_locks (s : State) (i q : Nat) (f : Queue → Queue) : (s.modQueue i q f).locks = s.locks := rfl
@[simp] theorem State.modQueue_lockWait (s : State) (i q : Nat) (f : Queue → Queue) : (s.modQueue i q f).lockWait = s.lockWait := rfl
@[simp] theorem State.modQueue_watches (s : State) (i q : Nat) (f : Queue → Queue) : (s.modQueue i q f).watches = s.watches := rfl
@[simp] theorem State.modQueue_binds (s : State) (i q : Nat) (f : Queue → Queue) : (s.modQueue i q f).binds = s.binds := rfl
@[simp] theorem State.modQueue_monitors (s : State) (i q : Nat) (f : Queue → Queue) : (s.modQueue i q f).monitors = s.monitors := rfl
@[simp] theorem State.modQueue_turns (s : State) (i q : Nat) (f : Queue → Queue) : (s.modQueue i q f).turns = s.turns := rfl
@[simp] theorem State.modQueue_agenda (s : State) (i q : Nat) (f : Queue → Queue) : (s.modQueue i q f).agenda = s.agenda := rfl
@[simp] theorem State.modQueue_tick (s : State) (i q : Nat) (f : Queue → Queue) : (s.modQueue i q f).tick = s.tick := rfl
@[simp] theorem State.modQueue_rounds (s : State) (i q : Nat) (f : Queue → Queue) : (s.modQueue i q f).rounds = s.rounds := rfl
@[simp] theorem State.modQueue_cur (s : State) (i q : Nat) (f : Queue → Queue) : (s.modQueue i q f).cur = s.cur := rfl
@[simp] theorem State.modQueue_seq (s : State) (i q : Nat) (f : Queue → Queue) : (s.modQueue i q f).seq = s.seq := rfl
@[simp] theorem State.modQueue_reply (s : State) (i q : Nat) (f : Queue → Queue) : (s.modQueue i q f).reply = s.reply := rfl
@[simp] theorem State.modQueue_byte (s : State) (i q : Nat) (f : Queue → Queue) (x1 : Nat) : (s.modQueue i q f).byte x1 = s.byte x1 := rfl
@[simp] theorem State.modQueue_bytes (s : State) (i q : Nat) (f : Queue → Queue) (x1 x2 : Nat) : (s.modQueue i q f).bytes x1 x2 = s.bytes x1 x2 := rfl
@[simp] theorem State.modQueue_num (s : State) (i q : Nat) (f : Queue → Queue) (x1 x2 : Nat) : (s.modQueue i q f).num x1 x2 = s.num x1 x2 := rfl
@[simp] theorem State.modQueue_desc (s : State) (i q : Nat) (f : Queue → Queue) (x1 x2 x3 : Nat) : (s.modQueue i q f).desc x1 x2 x3 = s.desc x1 x2 x3 := rfl
@[simp] theorem State.modQueue_ctxValid (s : State) (i q : Nat) (f : Queue → Queue) (x1 : Nat) : (s.modQueue i q f).ctxValid x1 = s.ctxValid x1 := rfl
@[simp] theorem State.modQueue_ctxSup (s : State) (i q : Nat) (f : Queue → Queue) (x1 : Nat) : (s.modQueue i q f).ctxSup x1 = s.ctxSup x1 := rfl
@[simp] theorem State.modQueue_ctxId (s : State) (i q : Nat) (f : Queue → Queue) (x1 : Nat) : (s.modQueue i q f).ctxId x1 = s.ctxId x1 := rfl
@[simp] theorem State.modQueue_ctxSlot (s : State) (i q : Nat) (f : Queue → Queue) (x1 : Nat) : (s.modQueue i q f).ctxSlot x1 = s.ctxSlot x1 := rfl
@[simp] theorem State.modQueue_tower (s : State) (i q : Nat) (f : Queue → Queue) (x1 : Nat) : (s.modQueue i q f).tower x1 = s.tower x1 := rfl
@[simp] theorem State.modQueue_running (s : State) (i q : Nat) (f : Queue → Queue) (x1 : Nat) : (s.modQueue i q f).running x1 = s.running x1 := rfl
@[simp] theorem State.modQueue_coreNumber (s : State) (i q : Nat) (f : Queue → Queue) (x1 : Nat) : (s.modQueue i q f).coreNumber x1 = s.coreNumber x1 := rfl
@[simp] theorem State.modQueue_core (s : State) (i q : Nat) (f : Queue → Queue) (x1 : Nat) : (s.modQueue i q f).core x1 = s.core x1 := rfl
@[simp] theorem State.modQueue_warp (s : State) (i q : Nat) (f : Queue → Queue) (x1 x2 : Nat) : (s.modQueue i q f).warp x1 x2 = s.warp x1 x2 := rfl
@[simp] theorem State.modQueue_comb (s : State) (i q : Nat) (f : Queue → Queue) (x1 : Nat) : (s.modQueue i q f).comb x1 = s.comb x1 := rfl
@[simp] theorem State.modQueue_wgroup (s : State) (i q : Nat) (f : Queue → Queue) (x1 : Nat) : (s.modQueue i q f).wgroup x1 = s.wgroup x1 := rfl
@[simp] theorem State.modQueue_launch (s : State) (i q : Nat) (f : Queue → Queue) (x1 : Nat) : (s.modQueue i q f).launch x1 = s.launch x1 := rfl
@[simp] theorem State.modQueue_line (s : State) (i q : Nat) (f : Queue → Queue) (x1 : Nat) : (s.modQueue i q f).line x1 = s.line x1 := rfl
@[simp] theorem State.modQueue_monitor (s : State) (i q : Nat) (f : Queue → Queue) (x1 : Nat) : (s.modQueue i q f).monitor x1 = s.monitor x1 := rfl

@[simp] theorem State.modWgroup_pkg (s : State) (i : Nat) (f : Workgroup → Workgroup) : (s.modWgroup i f).pkg = s.pkg := rfl
@[simp] theorem State.modWgroup_towers (s : State) (i : Nat) (f : Workgroup → Workgroup) : (s.modWgroup i f).towers = s.towers := rfl
@[simp] theorem State.modWgroup_ctxs (s : State) (i : Nat) (f : Workgroup → Workgroup) : (s.modWgroup i f).ctxs = s.ctxs := rfl
@[simp] theorem State.modWgroup_combs (s : State) (i : Nat) (f : Workgroup → Workgroup) : (s.modWgroup i f).combs = s.combs := rfl
@[simp] theorem State.modWgroup_cores (s : State) (i : Nat) (f : Workgroup → Workgroup) : (s.modWgroup i f).cores = s.cores := rfl
@[simp] theorem State.modWgroup_mem (s : State) (i : Nat) (f : Workgroup → Workgroup) : (s.modWgroup i f).mem = s.mem := rfl
@[simp] theorem State.modWgroup_poison (s : State) (i : Nat) (f : Workgroup → Workgroup) : (s.modWgroup i f).poison = s.poison := rfl
@[simp] theorem State.modWgroup_packed (s : State) (i : Nat) (f : Workgroup → Workgroup) : (s.modWgroup i f).packed = s.packed := rfl
@[simp] theorem State.modWgroup_lines (s : State) (i : Nat) (f : Workgroup → Workgroup) : (s.modWgroup i f).lines = s.lines := rfl
@[simp] theorem State.modWgroup_bases (s : State) (i : Nat) (f : Workgroup → Workgroup) : (s.modWgroup i f).bases = s.bases := rfl
@[simp] theorem State.modWgroup_pers (s : State) (i : Nat) (f : Workgroup → Workgroup) : (s.modWgroup i f).pers = s.pers := rfl
@[simp] theorem State.modWgroup_merges (s : State) (i : Nat) (f : Workgroup → Workgroup) : (s.modWgroup i f).merges = s.merges := rfl
@[simp] theorem State.modWgroup_agents (s : State) (i : Nat) (f : Workgroup → Workgroup) : (s.modWgroup i f).agents = s.agents := rfl
@[simp] theorem State.modWgroup_tlb (s : State) (i : Nat) (f : Workgroup → Workgroup) : (s.modWgroup i f).tlb = s.tlb := rfl
@[simp] theorem State.modWgroup_filter (s : State) (i : Nat) (f : Workgroup → Workgroup) : (s.modWgroup i f).filter = s.filter := rfl
@[simp] theorem State.modWgroup_lag (s : State) (i : Nat) (f : Workgroup → Workgroup) : (s.modWgroup i f).lag = s.lag := rfl
@[simp] theorem State.modWgroup_past (s : State) (i : Nat) (f : Workgroup → Workgroup) : (s.modWgroup i f).past = s.past := rfl
@[simp] theorem State.modWgroup_fields (s : State) (i : Nat) (f : Workgroup → Workgroup) : (s.modWgroup i f).fields = s.fields := rfl
@[simp] theorem State.modWgroup_seals (s : State) (i : Nat) (f : Workgroup → Workgroup) : (s.modWgroup i f).seals = s.seals := rfl
@[simp] theorem State.modWgroup_sealPast (s : State) (i : Nat) (f : Workgroup → Workgroup) : (s.modWgroup i f).sealPast = s.sealPast := rfl
@[simp] theorem State.modWgroup_launches (s : State) (i : Nat) (f : Workgroup → Workgroup) : (s.modWgroup i f).launches = s.launches := rfl
@[simp] theorem State.modWgroup_images (s : State) (i : Nat) (f : Workgroup → Workgroup) : (s.modWgroup i f).images = s.images := rfl
@[simp] theorem State.modWgroup_tiles (s : State) (i : Nat) (f : Workgroup → Workgroup) : (s.modWgroup i f).tiles = s.tiles := rfl
@[simp] theorem State.modWgroup_tileWait (s : State) (i : Nat) (f : Workgroup → Workgroup) : (s.modWgroup i f).tileWait = s.tileWait := rfl
@[simp] theorem State.modWgroup_released (s : State) (i : Nat) (f : Workgroup → Workgroup) : (s.modWgroup i f).released = s.released := rfl
@[simp] theorem State.modWgroup_locks (s : State) (i : Nat) (f : Workgroup → Workgroup) : (s.modWgroup i f).locks = s.locks := rfl
@[simp] theorem State.modWgroup_lockWait (s : State) (i : Nat) (f : Workgroup → Workgroup) : (s.modWgroup i f).lockWait = s.lockWait := rfl
@[simp] theorem State.modWgroup_watches (s : State) (i : Nat) (f : Workgroup → Workgroup) : (s.modWgroup i f).watches = s.watches := rfl
@[simp] theorem State.modWgroup_binds (s : State) (i : Nat) (f : Workgroup → Workgroup) : (s.modWgroup i f).binds = s.binds := rfl
@[simp] theorem State.modWgroup_monitors (s : State) (i : Nat) (f : Workgroup → Workgroup) : (s.modWgroup i f).monitors = s.monitors := rfl
@[simp] theorem State.modWgroup_turns (s : State) (i : Nat) (f : Workgroup → Workgroup) : (s.modWgroup i f).turns = s.turns := rfl
@[simp] theorem State.modWgroup_agenda (s : State) (i : Nat) (f : Workgroup → Workgroup) : (s.modWgroup i f).agenda = s.agenda := rfl
@[simp] theorem State.modWgroup_tick (s : State) (i : Nat) (f : Workgroup → Workgroup) : (s.modWgroup i f).tick = s.tick := rfl
@[simp] theorem State.modWgroup_rounds (s : State) (i : Nat) (f : Workgroup → Workgroup) : (s.modWgroup i f).rounds = s.rounds := rfl
@[simp] theorem State.modWgroup_cur (s : State) (i : Nat) (f : Workgroup → Workgroup) : (s.modWgroup i f).cur = s.cur := rfl
@[simp] theorem State.modWgroup_seq (s : State) (i : Nat) (f : Workgroup → Workgroup) : (s.modWgroup i f).seq = s.seq := rfl
@[simp] theorem State.modWgroup_reply (s : State) (i : Nat) (f : Workgroup → Workgroup) : (s.modWgroup i f).reply = s.reply := rfl
@[simp] theorem State.modWgroup_byte (s : State) (i : Nat) (f : Workgroup → Workgroup) (x1 : Nat) : (s.modWgroup i f).byte x1 = s.byte x1 := rfl
@[simp] theorem State.modWgroup_bytes (s : State) (i : Nat) (f : Workgroup → Workgroup) (x1 x2 : Nat) : (s.modWgroup i f).bytes x1 x2 = s.bytes x1 x2 := rfl
@[simp] theorem State.modWgroup_num (s : State) (i : Nat) (f : Workgroup → Workgroup) (x1 x2 : Nat) : (s.modWgroup i f).num x1 x2 = s.num x1 x2 := rfl
@[simp] theorem State.modWgroup_desc (s : State) (i : Nat) (f : Workgroup → Workgroup) (x1 x2 x3 : Nat) : (s.modWgroup i f).desc x1 x2 x3 = s.desc x1 x2 x3 := rfl
@[simp] theorem State.modWgroup_ctxValid (s : State) (i : Nat) (f : Workgroup → Workgroup) (x1 : Nat) : (s.modWgroup i f).ctxValid x1 = s.ctxValid x1 := rfl
@[simp] theorem State.modWgroup_ctxSup (s : State) (i : Nat) (f : Workgroup → Workgroup) (x1 : Nat) : (s.modWgroup i f).ctxSup x1 = s.ctxSup x1 := rfl
@[simp] theorem State.modWgroup_ctxId (s : State) (i : Nat) (f : Workgroup → Workgroup) (x1 : Nat) : (s.modWgroup i f).ctxId x1 = s.ctxId x1 := rfl
@[simp] theorem State.modWgroup_ctxSlot (s : State) (i : Nat) (f : Workgroup → Workgroup) (x1 : Nat) : (s.modWgroup i f).ctxSlot x1 = s.ctxSlot x1 := rfl
@[simp] theorem State.modWgroup_tower (s : State) (i : Nat) (f : Workgroup → Workgroup) (x1 : Nat) : (s.modWgroup i f).tower x1 = s.tower x1 := rfl
@[simp] theorem State.modWgroup_running (s : State) (i : Nat) (f : Workgroup → Workgroup) (x1 : Nat) : (s.modWgroup i f).running x1 = s.running x1 := rfl
@[simp] theorem State.modWgroup_coreNumber (s : State) (i : Nat) (f : Workgroup → Workgroup) (x1 : Nat) : (s.modWgroup i f).coreNumber x1 = s.coreNumber x1 := rfl
@[simp] theorem State.modWgroup_core (s : State) (i : Nat) (f : Workgroup → Workgroup) (x1 : Nat) : (s.modWgroup i f).core x1 = s.core x1 := rfl
@[simp] theorem State.modWgroup_warp (s : State) (i : Nat) (f : Workgroup → Workgroup) (x1 x2 : Nat) : (s.modWgroup i f).warp x1 x2 = s.warp x1 x2 := rfl
@[simp] theorem State.modWgroup_comb (s : State) (i : Nat) (f : Workgroup → Workgroup) (x1 : Nat) : (s.modWgroup i f).comb x1 = s.comb x1 := rfl
@[simp] theorem State.modWgroup_ctx (s : State) (i : Nat) (f : Workgroup → Workgroup) (x1 : Nat) : (s.modWgroup i f).ctx x1 = s.ctx x1 := rfl
@[simp] theorem State.modWgroup_launch (s : State) (i : Nat) (f : Workgroup → Workgroup) (x1 : Nat) : (s.modWgroup i f).launch x1 = s.launch x1 := rfl
@[simp] theorem State.modWgroup_line (s : State) (i : Nat) (f : Workgroup → Workgroup) (x1 : Nat) : (s.modWgroup i f).line x1 = s.line x1 := rfl
@[simp] theorem State.modWgroup_monitor (s : State) (i : Nat) (f : Workgroup → Workgroup) (x1 : Nat) : (s.modWgroup i f).monitor x1 = s.monitor x1 := rfl

@[simp] theorem State.modLaunch_pkg (s : State) (i : Nat) (f : Launch → Launch) : (s.modLaunch i f).pkg = s.pkg := rfl
@[simp] theorem State.modLaunch_towers (s : State) (i : Nat) (f : Launch → Launch) : (s.modLaunch i f).towers = s.towers := rfl
@[simp] theorem State.modLaunch_ctxs (s : State) (i : Nat) (f : Launch → Launch) : (s.modLaunch i f).ctxs = s.ctxs := rfl
@[simp] theorem State.modLaunch_combs (s : State) (i : Nat) (f : Launch → Launch) : (s.modLaunch i f).combs = s.combs := rfl
@[simp] theorem State.modLaunch_cores (s : State) (i : Nat) (f : Launch → Launch) : (s.modLaunch i f).cores = s.cores := rfl
@[simp] theorem State.modLaunch_mem (s : State) (i : Nat) (f : Launch → Launch) : (s.modLaunch i f).mem = s.mem := rfl
@[simp] theorem State.modLaunch_poison (s : State) (i : Nat) (f : Launch → Launch) : (s.modLaunch i f).poison = s.poison := rfl
@[simp] theorem State.modLaunch_packed (s : State) (i : Nat) (f : Launch → Launch) : (s.modLaunch i f).packed = s.packed := rfl
@[simp] theorem State.modLaunch_lines (s : State) (i : Nat) (f : Launch → Launch) : (s.modLaunch i f).lines = s.lines := rfl
@[simp] theorem State.modLaunch_bases (s : State) (i : Nat) (f : Launch → Launch) : (s.modLaunch i f).bases = s.bases := rfl
@[simp] theorem State.modLaunch_pers (s : State) (i : Nat) (f : Launch → Launch) : (s.modLaunch i f).pers = s.pers := rfl
@[simp] theorem State.modLaunch_merges (s : State) (i : Nat) (f : Launch → Launch) : (s.modLaunch i f).merges = s.merges := rfl
@[simp] theorem State.modLaunch_agents (s : State) (i : Nat) (f : Launch → Launch) : (s.modLaunch i f).agents = s.agents := rfl
@[simp] theorem State.modLaunch_tlb (s : State) (i : Nat) (f : Launch → Launch) : (s.modLaunch i f).tlb = s.tlb := rfl
@[simp] theorem State.modLaunch_filter (s : State) (i : Nat) (f : Launch → Launch) : (s.modLaunch i f).filter = s.filter := rfl
@[simp] theorem State.modLaunch_lag (s : State) (i : Nat) (f : Launch → Launch) : (s.modLaunch i f).lag = s.lag := rfl
@[simp] theorem State.modLaunch_past (s : State) (i : Nat) (f : Launch → Launch) : (s.modLaunch i f).past = s.past := rfl
@[simp] theorem State.modLaunch_fields (s : State) (i : Nat) (f : Launch → Launch) : (s.modLaunch i f).fields = s.fields := rfl
@[simp] theorem State.modLaunch_seals (s : State) (i : Nat) (f : Launch → Launch) : (s.modLaunch i f).seals = s.seals := rfl
@[simp] theorem State.modLaunch_sealPast (s : State) (i : Nat) (f : Launch → Launch) : (s.modLaunch i f).sealPast = s.sealPast := rfl
@[simp] theorem State.modLaunch_groups (s : State) (i : Nat) (f : Launch → Launch) : (s.modLaunch i f).groups = s.groups := rfl
@[simp] theorem State.modLaunch_images (s : State) (i : Nat) (f : Launch → Launch) : (s.modLaunch i f).images = s.images := rfl
@[simp] theorem State.modLaunch_tiles (s : State) (i : Nat) (f : Launch → Launch) : (s.modLaunch i f).tiles = s.tiles := rfl
@[simp] theorem State.modLaunch_tileWait (s : State) (i : Nat) (f : Launch → Launch) : (s.modLaunch i f).tileWait = s.tileWait := rfl
@[simp] theorem State.modLaunch_released (s : State) (i : Nat) (f : Launch → Launch) : (s.modLaunch i f).released = s.released := rfl
@[simp] theorem State.modLaunch_locks (s : State) (i : Nat) (f : Launch → Launch) : (s.modLaunch i f).locks = s.locks := rfl
@[simp] theorem State.modLaunch_lockWait (s : State) (i : Nat) (f : Launch → Launch) : (s.modLaunch i f).lockWait = s.lockWait := rfl
@[simp] theorem State.modLaunch_watches (s : State) (i : Nat) (f : Launch → Launch) : (s.modLaunch i f).watches = s.watches := rfl
@[simp] theorem State.modLaunch_binds (s : State) (i : Nat) (f : Launch → Launch) : (s.modLaunch i f).binds = s.binds := rfl
@[simp] theorem State.modLaunch_monitors (s : State) (i : Nat) (f : Launch → Launch) : (s.modLaunch i f).monitors = s.monitors := rfl
@[simp] theorem State.modLaunch_turns (s : State) (i : Nat) (f : Launch → Launch) : (s.modLaunch i f).turns = s.turns := rfl
@[simp] theorem State.modLaunch_agenda (s : State) (i : Nat) (f : Launch → Launch) : (s.modLaunch i f).agenda = s.agenda := rfl
@[simp] theorem State.modLaunch_tick (s : State) (i : Nat) (f : Launch → Launch) : (s.modLaunch i f).tick = s.tick := rfl
@[simp] theorem State.modLaunch_rounds (s : State) (i : Nat) (f : Launch → Launch) : (s.modLaunch i f).rounds = s.rounds := rfl
@[simp] theorem State.modLaunch_cur (s : State) (i : Nat) (f : Launch → Launch) : (s.modLaunch i f).cur = s.cur := rfl
@[simp] theorem State.modLaunch_seq (s : State) (i : Nat) (f : Launch → Launch) : (s.modLaunch i f).seq = s.seq := rfl
@[simp] theorem State.modLaunch_reply (s : State) (i : Nat) (f : Launch → Launch) : (s.modLaunch i f).reply = s.reply := rfl
@[simp] theorem State.modLaunch_byte (s : State) (i : Nat) (f : Launch → Launch) (x1 : Nat) : (s.modLaunch i f).byte x1 = s.byte x1 := rfl
@[simp] theorem State.modLaunch_bytes (s : State) (i : Nat) (f : Launch → Launch) (x1 x2 : Nat) : (s.modLaunch i f).bytes x1 x2 = s.bytes x1 x2 := rfl
@[simp] theorem State.modLaunch_num (s : State) (i : Nat) (f : Launch → Launch) (x1 x2 : Nat) : (s.modLaunch i f).num x1 x2 = s.num x1 x2 := rfl
@[simp] theorem State.modLaunch_desc (s : State) (i : Nat) (f : Launch → Launch) (x1 x2 x3 : Nat) : (s.modLaunch i f).desc x1 x2 x3 = s.desc x1 x2 x3 := rfl
@[simp] theorem State.modLaunch_ctxValid (s : State) (i : Nat) (f : Launch → Launch) (x1 : Nat) : (s.modLaunch i f).ctxValid x1 = s.ctxValid x1 := rfl
@[simp] theorem State.modLaunch_ctxSup (s : State) (i : Nat) (f : Launch → Launch) (x1 : Nat) : (s.modLaunch i f).ctxSup x1 = s.ctxSup x1 := rfl
@[simp] theorem State.modLaunch_ctxId (s : State) (i : Nat) (f : Launch → Launch) (x1 : Nat) : (s.modLaunch i f).ctxId x1 = s.ctxId x1 := rfl
@[simp] theorem State.modLaunch_ctxSlot (s : State) (i : Nat) (f : Launch → Launch) (x1 : Nat) : (s.modLaunch i f).ctxSlot x1 = s.ctxSlot x1 := rfl
@[simp] theorem State.modLaunch_tower (s : State) (i : Nat) (f : Launch → Launch) (x1 : Nat) : (s.modLaunch i f).tower x1 = s.tower x1 := rfl
@[simp] theorem State.modLaunch_running (s : State) (i : Nat) (f : Launch → Launch) (x1 : Nat) : (s.modLaunch i f).running x1 = s.running x1 := rfl
@[simp] theorem State.modLaunch_coreNumber (s : State) (i : Nat) (f : Launch → Launch) (x1 : Nat) : (s.modLaunch i f).coreNumber x1 = s.coreNumber x1 := rfl
@[simp] theorem State.modLaunch_core (s : State) (i : Nat) (f : Launch → Launch) (x1 : Nat) : (s.modLaunch i f).core x1 = s.core x1 := rfl
@[simp] theorem State.modLaunch_warp (s : State) (i : Nat) (f : Launch → Launch) (x1 x2 : Nat) : (s.modLaunch i f).warp x1 x2 = s.warp x1 x2 := rfl
@[simp] theorem State.modLaunch_comb (s : State) (i : Nat) (f : Launch → Launch) (x1 : Nat) : (s.modLaunch i f).comb x1 = s.comb x1 := rfl
@[simp] theorem State.modLaunch_ctx (s : State) (i : Nat) (f : Launch → Launch) (x1 : Nat) : (s.modLaunch i f).ctx x1 = s.ctx x1 := rfl
@[simp] theorem State.modLaunch_wgroup (s : State) (i : Nat) (f : Launch → Launch) (x1 : Nat) : (s.modLaunch i f).wgroup x1 = s.wgroup x1 := rfl
@[simp] theorem State.modLaunch_line (s : State) (i : Nat) (f : Launch → Launch) (x1 : Nat) : (s.modLaunch i f).line x1 = s.line x1 := rfl
@[simp] theorem State.modLaunch_monitor (s : State) (i : Nat) (f : Launch → Launch) (x1 : Nat) : (s.modLaunch i f).monitor x1 = s.monitor x1 := rfl

@[simp] theorem State.setLine_pkg (s : State) (ln : Nat) (x : LineState) : (s.setLine ln x).pkg = s.pkg := rfl
@[simp] theorem State.setLine_towers (s : State) (ln : Nat) (x : LineState) : (s.setLine ln x).towers = s.towers := rfl
@[simp] theorem State.setLine_ctxs (s : State) (ln : Nat) (x : LineState) : (s.setLine ln x).ctxs = s.ctxs := rfl
@[simp] theorem State.setLine_combs (s : State) (ln : Nat) (x : LineState) : (s.setLine ln x).combs = s.combs := rfl
@[simp] theorem State.setLine_cores (s : State) (ln : Nat) (x : LineState) : (s.setLine ln x).cores = s.cores := rfl
@[simp] theorem State.setLine_mem (s : State) (ln : Nat) (x : LineState) : (s.setLine ln x).mem = s.mem := rfl
@[simp] theorem State.setLine_poison (s : State) (ln : Nat) (x : LineState) : (s.setLine ln x).poison = s.poison := rfl
@[simp] theorem State.setLine_packed (s : State) (ln : Nat) (x : LineState) : (s.setLine ln x).packed = s.packed := rfl
@[simp] theorem State.setLine_bases (s : State) (ln : Nat) (x : LineState) : (s.setLine ln x).bases = s.bases := rfl
@[simp] theorem State.setLine_pers (s : State) (ln : Nat) (x : LineState) : (s.setLine ln x).pers = s.pers := rfl
@[simp] theorem State.setLine_merges (s : State) (ln : Nat) (x : LineState) : (s.setLine ln x).merges = s.merges := rfl
@[simp] theorem State.setLine_agents (s : State) (ln : Nat) (x : LineState) : (s.setLine ln x).agents = s.agents := rfl
@[simp] theorem State.setLine_tlb (s : State) (ln : Nat) (x : LineState) : (s.setLine ln x).tlb = s.tlb := rfl
@[simp] theorem State.setLine_filter (s : State) (ln : Nat) (x : LineState) : (s.setLine ln x).filter = s.filter := rfl
@[simp] theorem State.setLine_lag (s : State) (ln : Nat) (x : LineState) : (s.setLine ln x).lag = s.lag := rfl
@[simp] theorem State.setLine_past (s : State) (ln : Nat) (x : LineState) : (s.setLine ln x).past = s.past := rfl
@[simp] theorem State.setLine_fields (s : State) (ln : Nat) (x : LineState) : (s.setLine ln x).fields = s.fields := rfl
@[simp] theorem State.setLine_seals (s : State) (ln : Nat) (x : LineState) : (s.setLine ln x).seals = s.seals := rfl
@[simp] theorem State.setLine_sealPast (s : State) (ln : Nat) (x : LineState) : (s.setLine ln x).sealPast = s.sealPast := rfl
@[simp] theorem State.setLine_launches (s : State) (ln : Nat) (x : LineState) : (s.setLine ln x).launches = s.launches := rfl
@[simp] theorem State.setLine_groups (s : State) (ln : Nat) (x : LineState) : (s.setLine ln x).groups = s.groups := rfl
@[simp] theorem State.setLine_images (s : State) (ln : Nat) (x : LineState) : (s.setLine ln x).images = s.images := rfl
@[simp] theorem State.setLine_tiles (s : State) (ln : Nat) (x : LineState) : (s.setLine ln x).tiles = s.tiles := rfl
@[simp] theorem State.setLine_tileWait (s : State) (ln : Nat) (x : LineState) : (s.setLine ln x).tileWait = s.tileWait := rfl
@[simp] theorem State.setLine_released (s : State) (ln : Nat) (x : LineState) : (s.setLine ln x).released = s.released := rfl
@[simp] theorem State.setLine_locks (s : State) (ln : Nat) (x : LineState) : (s.setLine ln x).locks = s.locks := rfl
@[simp] theorem State.setLine_lockWait (s : State) (ln : Nat) (x : LineState) : (s.setLine ln x).lockWait = s.lockWait := rfl
@[simp] theorem State.setLine_watches (s : State) (ln : Nat) (x : LineState) : (s.setLine ln x).watches = s.watches := rfl
@[simp] theorem State.setLine_binds (s : State) (ln : Nat) (x : LineState) : (s.setLine ln x).binds = s.binds := rfl
@[simp] theorem State.setLine_monitors (s : State) (ln : Nat) (x : LineState) : (s.setLine ln x).monitors = s.monitors := rfl
@[simp] theorem State.setLine_turns (s : State) (ln : Nat) (x : LineState) : (s.setLine ln x).turns = s.turns := rfl
@[simp] theorem State.setLine_agenda (s : State) (ln : Nat) (x : LineState) : (s.setLine ln x).agenda = s.agenda := rfl
@[simp] theorem State.setLine_tick (s : State) (ln : Nat) (x : LineState) : (s.setLine ln x).tick = s.tick := rfl
@[simp] theorem State.setLine_rounds (s : State) (ln : Nat) (x : LineState) : (s.setLine ln x).rounds = s.rounds := rfl
@[simp] theorem State.setLine_cur (s : State) (ln : Nat) (x : LineState) : (s.setLine ln x).cur = s.cur := rfl
@[simp] theorem State.setLine_seq (s : State) (ln : Nat) (x : LineState) : (s.setLine ln x).seq = s.seq := rfl
@[simp] theorem State.setLine_reply (s : State) (ln : Nat) (x : LineState) : (s.setLine ln x).reply = s.reply := rfl
@[simp] theorem State.setLine_byte (s : State) (ln : Nat) (x : LineState) (x1 : Nat) : (s.setLine ln x).byte x1 = s.byte x1 := rfl
@[simp] theorem State.setLine_bytes (s : State) (ln : Nat) (x : LineState) (x1 x2 : Nat) : (s.setLine ln x).bytes x1 x2 = s.bytes x1 x2 := rfl
@[simp] theorem State.setLine_num (s : State) (ln : Nat) (x : LineState) (x1 x2 : Nat) : (s.setLine ln x).num x1 x2 = s.num x1 x2 := rfl
@[simp] theorem State.setLine_desc (s : State) (ln : Nat) (x : LineState) (x1 x2 x3 : Nat) : (s.setLine ln x).desc x1 x2 x3 = s.desc x1 x2 x3 := rfl
@[simp] theorem State.setLine_ctxValid (s : State) (ln : Nat) (x : LineState) (x1 : Nat) : (s.setLine ln x).ctxValid x1 = s.ctxValid x1 := rfl
@[simp] theorem State.setLine_ctxSup (s : State) (ln : Nat) (x : LineState) (x1 : Nat) : (s.setLine ln x).ctxSup x1 = s.ctxSup x1 := rfl
@[simp] theorem State.setLine_ctxId (s : State) (ln : Nat) (x : LineState) (x1 : Nat) : (s.setLine ln x).ctxId x1 = s.ctxId x1 := rfl
@[simp] theorem State.setLine_ctxSlot (s : State) (ln : Nat) (x : LineState) (x1 : Nat) : (s.setLine ln x).ctxSlot x1 = s.ctxSlot x1 := rfl
@[simp] theorem State.setLine_tower (s : State) (ln : Nat) (x : LineState) (x1 : Nat) : (s.setLine ln x).tower x1 = s.tower x1 := rfl
@[simp] theorem State.setLine_running (s : State) (ln : Nat) (x : LineState) (x1 : Nat) : (s.setLine ln x).running x1 = s.running x1 := rfl
@[simp] theorem State.setLine_coreNumber (s : State) (ln : Nat) (x : LineState) (x1 : Nat) : (s.setLine ln x).coreNumber x1 = s.coreNumber x1 := rfl
@[simp] theorem State.setLine_core (s : State) (ln : Nat) (x : LineState) (x1 : Nat) : (s.setLine ln x).core x1 = s.core x1 := rfl
@[simp] theorem State.setLine_warp (s : State) (ln : Nat) (x : LineState) (x1 x2 : Nat) : (s.setLine ln x).warp x1 x2 = s.warp x1 x2 := rfl
@[simp] theorem State.setLine_comb (s : State) (ln : Nat) (x : LineState) (x1 : Nat) : (s.setLine ln x).comb x1 = s.comb x1 := rfl
@[simp] theorem State.setLine_ctx (s : State) (ln : Nat) (x : LineState) (x1 : Nat) : (s.setLine ln x).ctx x1 = s.ctx x1 := rfl
@[simp] theorem State.setLine_wgroup (s : State) (ln : Nat) (x : LineState) (x1 : Nat) : (s.setLine ln x).wgroup x1 = s.wgroup x1 := rfl
@[simp] theorem State.setLine_launch (s : State) (ln : Nat) (x : LineState) (x1 : Nat) : (s.setLine ln x).launch x1 = s.launch x1 := rfl
@[simp] theorem State.setLine_monitor (s : State) (ln : Nat) (x : LineState) (x1 : Nat) : (s.setLine ln x).monitor x1 = s.monitor x1 := rfl

@[simp] theorem State.modMonitor_pkg (s : State) (m : Nat) (f : Monitor → Monitor) : (s.modMonitor m f).pkg = s.pkg := rfl
@[simp] theorem State.modMonitor_towers (s : State) (m : Nat) (f : Monitor → Monitor) : (s.modMonitor m f).towers = s.towers := rfl
@[simp] theorem State.modMonitor_ctxs (s : State) (m : Nat) (f : Monitor → Monitor) : (s.modMonitor m f).ctxs = s.ctxs := rfl
@[simp] theorem State.modMonitor_combs (s : State) (m : Nat) (f : Monitor → Monitor) : (s.modMonitor m f).combs = s.combs := rfl
@[simp] theorem State.modMonitor_cores (s : State) (m : Nat) (f : Monitor → Monitor) : (s.modMonitor m f).cores = s.cores := rfl
@[simp] theorem State.modMonitor_mem (s : State) (m : Nat) (f : Monitor → Monitor) : (s.modMonitor m f).mem = s.mem := rfl
@[simp] theorem State.modMonitor_poison (s : State) (m : Nat) (f : Monitor → Monitor) : (s.modMonitor m f).poison = s.poison := rfl
@[simp] theorem State.modMonitor_packed (s : State) (m : Nat) (f : Monitor → Monitor) : (s.modMonitor m f).packed = s.packed := rfl
@[simp] theorem State.modMonitor_lines (s : State) (m : Nat) (f : Monitor → Monitor) : (s.modMonitor m f).lines = s.lines := rfl
@[simp] theorem State.modMonitor_bases (s : State) (m : Nat) (f : Monitor → Monitor) : (s.modMonitor m f).bases = s.bases := rfl
@[simp] theorem State.modMonitor_pers (s : State) (m : Nat) (f : Monitor → Monitor) : (s.modMonitor m f).pers = s.pers := rfl
@[simp] theorem State.modMonitor_merges (s : State) (m : Nat) (f : Monitor → Monitor) : (s.modMonitor m f).merges = s.merges := rfl
@[simp] theorem State.modMonitor_agents (s : State) (m : Nat) (f : Monitor → Monitor) : (s.modMonitor m f).agents = s.agents := rfl
@[simp] theorem State.modMonitor_tlb (s : State) (m : Nat) (f : Monitor → Monitor) : (s.modMonitor m f).tlb = s.tlb := rfl
@[simp] theorem State.modMonitor_filter (s : State) (m : Nat) (f : Monitor → Monitor) : (s.modMonitor m f).filter = s.filter := rfl
@[simp] theorem State.modMonitor_lag (s : State) (m : Nat) (f : Monitor → Monitor) : (s.modMonitor m f).lag = s.lag := rfl
@[simp] theorem State.modMonitor_past (s : State) (m : Nat) (f : Monitor → Monitor) : (s.modMonitor m f).past = s.past := rfl
@[simp] theorem State.modMonitor_fields (s : State) (m : Nat) (f : Monitor → Monitor) : (s.modMonitor m f).fields = s.fields := rfl
@[simp] theorem State.modMonitor_seals (s : State) (m : Nat) (f : Monitor → Monitor) : (s.modMonitor m f).seals = s.seals := rfl
@[simp] theorem State.modMonitor_sealPast (s : State) (m : Nat) (f : Monitor → Monitor) : (s.modMonitor m f).sealPast = s.sealPast := rfl
@[simp] theorem State.modMonitor_launches (s : State) (m : Nat) (f : Monitor → Monitor) : (s.modMonitor m f).launches = s.launches := rfl
@[simp] theorem State.modMonitor_groups (s : State) (m : Nat) (f : Monitor → Monitor) : (s.modMonitor m f).groups = s.groups := rfl
@[simp] theorem State.modMonitor_images (s : State) (m : Nat) (f : Monitor → Monitor) : (s.modMonitor m f).images = s.images := rfl
@[simp] theorem State.modMonitor_tiles (s : State) (m : Nat) (f : Monitor → Monitor) : (s.modMonitor m f).tiles = s.tiles := rfl
@[simp] theorem State.modMonitor_tileWait (s : State) (m : Nat) (f : Monitor → Monitor) : (s.modMonitor m f).tileWait = s.tileWait := rfl
@[simp] theorem State.modMonitor_released (s : State) (m : Nat) (f : Monitor → Monitor) : (s.modMonitor m f).released = s.released := rfl
@[simp] theorem State.modMonitor_locks (s : State) (m : Nat) (f : Monitor → Monitor) : (s.modMonitor m f).locks = s.locks := rfl
@[simp] theorem State.modMonitor_lockWait (s : State) (m : Nat) (f : Monitor → Monitor) : (s.modMonitor m f).lockWait = s.lockWait := rfl
@[simp] theorem State.modMonitor_watches (s : State) (m : Nat) (f : Monitor → Monitor) : (s.modMonitor m f).watches = s.watches := rfl
@[simp] theorem State.modMonitor_binds (s : State) (m : Nat) (f : Monitor → Monitor) : (s.modMonitor m f).binds = s.binds := rfl
@[simp] theorem State.modMonitor_turns (s : State) (m : Nat) (f : Monitor → Monitor) : (s.modMonitor m f).turns = s.turns := rfl
@[simp] theorem State.modMonitor_agenda (s : State) (m : Nat) (f : Monitor → Monitor) : (s.modMonitor m f).agenda = s.agenda := rfl
@[simp] theorem State.modMonitor_tick (s : State) (m : Nat) (f : Monitor → Monitor) : (s.modMonitor m f).tick = s.tick := rfl
@[simp] theorem State.modMonitor_rounds (s : State) (m : Nat) (f : Monitor → Monitor) : (s.modMonitor m f).rounds = s.rounds := rfl
@[simp] theorem State.modMonitor_cur (s : State) (m : Nat) (f : Monitor → Monitor) : (s.modMonitor m f).cur = s.cur := rfl
@[simp] theorem State.modMonitor_seq (s : State) (m : Nat) (f : Monitor → Monitor) : (s.modMonitor m f).seq = s.seq := rfl
@[simp] theorem State.modMonitor_reply (s : State) (m : Nat) (f : Monitor → Monitor) : (s.modMonitor m f).reply = s.reply := rfl
@[simp] theorem State.modMonitor_byte (s : State) (m : Nat) (f : Monitor → Monitor) (x1 : Nat) : (s.modMonitor m f).byte x1 = s.byte x1 := rfl
@[simp] theorem State.modMonitor_bytes (s : State) (m : Nat) (f : Monitor → Monitor) (x1 x2 : Nat) : (s.modMonitor m f).bytes x1 x2 = s.bytes x1 x2 := rfl
@[simp] theorem State.modMonitor_num (s : State) (m : Nat) (f : Monitor → Monitor) (x1 x2 : Nat) : (s.modMonitor m f).num x1 x2 = s.num x1 x2 := rfl
@[simp] theorem State.modMonitor_desc (s : State) (m : Nat) (f : Monitor → Monitor) (x1 x2 x3 : Nat) : (s.modMonitor m f).desc x1 x2 x3 = s.desc x1 x2 x3 := rfl
@[simp] theorem State.modMonitor_ctxValid (s : State) (m : Nat) (f : Monitor → Monitor) (x1 : Nat) : (s.modMonitor m f).ctxValid x1 = s.ctxValid x1 := rfl
@[simp] theorem State.modMonitor_ctxSup (s : State) (m : Nat) (f : Monitor → Monitor) (x1 : Nat) : (s.modMonitor m f).ctxSup x1 = s.ctxSup x1 := rfl
@[simp] theorem State.modMonitor_ctxId (s : State) (m : Nat) (f : Monitor → Monitor) (x1 : Nat) : (s.modMonitor m f).ctxId x1 = s.ctxId x1 := rfl
@[simp] theorem State.modMonitor_ctxSlot (s : State) (m : Nat) (f : Monitor → Monitor) (x1 : Nat) : (s.modMonitor m f).ctxSlot x1 = s.ctxSlot x1 := rfl
@[simp] theorem State.modMonitor_tower (s : State) (m : Nat) (f : Monitor → Monitor) (x1 : Nat) : (s.modMonitor m f).tower x1 = s.tower x1 := rfl
@[simp] theorem State.modMonitor_running (s : State) (m : Nat) (f : Monitor → Monitor) (x1 : Nat) : (s.modMonitor m f).running x1 = s.running x1 := rfl
@[simp] theorem State.modMonitor_coreNumber (s : State) (m : Nat) (f : Monitor → Monitor) (x1 : Nat) : (s.modMonitor m f).coreNumber x1 = s.coreNumber x1 := rfl
@[simp] theorem State.modMonitor_core (s : State) (m : Nat) (f : Monitor → Monitor) (x1 : Nat) : (s.modMonitor m f).core x1 = s.core x1 := rfl
@[simp] theorem State.modMonitor_warp (s : State) (m : Nat) (f : Monitor → Monitor) (x1 x2 : Nat) : (s.modMonitor m f).warp x1 x2 = s.warp x1 x2 := rfl
@[simp] theorem State.modMonitor_comb (s : State) (m : Nat) (f : Monitor → Monitor) (x1 : Nat) : (s.modMonitor m f).comb x1 = s.comb x1 := rfl
@[simp] theorem State.modMonitor_ctx (s : State) (m : Nat) (f : Monitor → Monitor) (x1 : Nat) : (s.modMonitor m f).ctx x1 = s.ctx x1 := rfl
@[simp] theorem State.modMonitor_wgroup (s : State) (m : Nat) (f : Monitor → Monitor) (x1 : Nat) : (s.modMonitor m f).wgroup x1 = s.wgroup x1 := rfl
@[simp] theorem State.modMonitor_launch (s : State) (m : Nat) (f : Monitor → Monitor) (x1 : Nat) : (s.modMonitor m f).launch x1 = s.launch x1 := rfl
@[simp] theorem State.modMonitor_line (s : State) (m : Nat) (f : Monitor → Monitor) (x1 : Nat) : (s.modMonitor m f).line x1 = s.line x1 := rfl

@[simp] theorem State.flow_pkg (s : State) (src : List Carrier) (dest : Carrier) : (s.flow src dest).pkg = s.pkg := rfl
@[simp] theorem State.flow_towers (s : State) (src : List Carrier) (dest : Carrier) : (s.flow src dest).towers = s.towers := rfl
@[simp] theorem State.flow_ctxs (s : State) (src : List Carrier) (dest : Carrier) : (s.flow src dest).ctxs = s.ctxs := rfl
@[simp] theorem State.flow_combs (s : State) (src : List Carrier) (dest : Carrier) : (s.flow src dest).combs = s.combs := rfl
@[simp] theorem State.flow_cores (s : State) (src : List Carrier) (dest : Carrier) : (s.flow src dest).cores = s.cores := rfl
@[simp] theorem State.flow_mem (s : State) (src : List Carrier) (dest : Carrier) : (s.flow src dest).mem = s.mem := rfl
@[simp] theorem State.flow_poison (s : State) (src : List Carrier) (dest : Carrier) : (s.flow src dest).poison = s.poison := rfl
@[simp] theorem State.flow_packed (s : State) (src : List Carrier) (dest : Carrier) : (s.flow src dest).packed = s.packed := rfl
@[simp] theorem State.flow_bases (s : State) (src : List Carrier) (dest : Carrier) : (s.flow src dest).bases = s.bases := rfl
@[simp] theorem State.flow_pers (s : State) (src : List Carrier) (dest : Carrier) : (s.flow src dest).pers = s.pers := rfl
@[simp] theorem State.flow_merges (s : State) (src : List Carrier) (dest : Carrier) : (s.flow src dest).merges = s.merges := rfl
@[simp] theorem State.flow_agents (s : State) (src : List Carrier) (dest : Carrier) : (s.flow src dest).agents = s.agents := rfl
@[simp] theorem State.flow_tlb (s : State) (src : List Carrier) (dest : Carrier) : (s.flow src dest).tlb = s.tlb := rfl
@[simp] theorem State.flow_filter (s : State) (src : List Carrier) (dest : Carrier) : (s.flow src dest).filter = s.filter := rfl
@[simp] theorem State.flow_lag (s : State) (src : List Carrier) (dest : Carrier) : (s.flow src dest).lag = s.lag := rfl
@[simp] theorem State.flow_fields (s : State) (src : List Carrier) (dest : Carrier) : (s.flow src dest).fields = s.fields := rfl
@[simp] theorem State.flow_seals (s : State) (src : List Carrier) (dest : Carrier) : (s.flow src dest).seals = s.seals := rfl
@[simp] theorem State.flow_sealPast (s : State) (src : List Carrier) (dest : Carrier) : (s.flow src dest).sealPast = s.sealPast := rfl
@[simp] theorem State.flow_launches (s : State) (src : List Carrier) (dest : Carrier) : (s.flow src dest).launches = s.launches := rfl
@[simp] theorem State.flow_groups (s : State) (src : List Carrier) (dest : Carrier) : (s.flow src dest).groups = s.groups := rfl
@[simp] theorem State.flow_images (s : State) (src : List Carrier) (dest : Carrier) : (s.flow src dest).images = s.images := rfl
@[simp] theorem State.flow_tiles (s : State) (src : List Carrier) (dest : Carrier) : (s.flow src dest).tiles = s.tiles := rfl
@[simp] theorem State.flow_tileWait (s : State) (src : List Carrier) (dest : Carrier) : (s.flow src dest).tileWait = s.tileWait := rfl
@[simp] theorem State.flow_released (s : State) (src : List Carrier) (dest : Carrier) : (s.flow src dest).released = s.released := rfl
@[simp] theorem State.flow_locks (s : State) (src : List Carrier) (dest : Carrier) : (s.flow src dest).locks = s.locks := rfl
@[simp] theorem State.flow_lockWait (s : State) (src : List Carrier) (dest : Carrier) : (s.flow src dest).lockWait = s.lockWait := rfl
@[simp] theorem State.flow_watches (s : State) (src : List Carrier) (dest : Carrier) : (s.flow src dest).watches = s.watches := rfl
@[simp] theorem State.flow_binds (s : State) (src : List Carrier) (dest : Carrier) : (s.flow src dest).binds = s.binds := rfl
@[simp] theorem State.flow_monitors (s : State) (src : List Carrier) (dest : Carrier) : (s.flow src dest).monitors = s.monitors := rfl
@[simp] theorem State.flow_turns (s : State) (src : List Carrier) (dest : Carrier) : (s.flow src dest).turns = s.turns := rfl
@[simp] theorem State.flow_agenda (s : State) (src : List Carrier) (dest : Carrier) : (s.flow src dest).agenda = s.agenda := rfl
@[simp] theorem State.flow_tick (s : State) (src : List Carrier) (dest : Carrier) : (s.flow src dest).tick = s.tick := rfl
@[simp] theorem State.flow_rounds (s : State) (src : List Carrier) (dest : Carrier) : (s.flow src dest).rounds = s.rounds := rfl
@[simp] theorem State.flow_cur (s : State) (src : List Carrier) (dest : Carrier) : (s.flow src dest).cur = s.cur := rfl
@[simp] theorem State.flow_seq (s : State) (src : List Carrier) (dest : Carrier) : (s.flow src dest).seq = s.seq := rfl
@[simp] theorem State.flow_reply (s : State) (src : List Carrier) (dest : Carrier) : (s.flow src dest).reply = s.reply := rfl
@[simp] theorem State.flow_byte (s : State) (src : List Carrier) (dest : Carrier) (x1 : Nat) : (s.flow src dest).byte x1 = s.byte x1 := rfl
@[simp] theorem State.flow_bytes (s : State) (src : List Carrier) (dest : Carrier) (x1 x2 : Nat) : (s.flow src dest).bytes x1 x2 = s.bytes x1 x2 := rfl
@[simp] theorem State.flow_num (s : State) (src : List Carrier) (dest : Carrier) (x1 x2 : Nat) : (s.flow src dest).num x1 x2 = s.num x1 x2 := rfl
@[simp] theorem State.flow_desc (s : State) (src : List Carrier) (dest : Carrier) (x1 x2 x3 : Nat) : (s.flow src dest).desc x1 x2 x3 = s.desc x1 x2 x3 := rfl
@[simp] theorem State.flow_ctxValid (s : State) (src : List Carrier) (dest : Carrier) (x1 : Nat) : (s.flow src dest).ctxValid x1 = s.ctxValid x1 := rfl
@[simp] theorem State.flow_ctxSup (s : State) (src : List Carrier) (dest : Carrier) (x1 : Nat) : (s.flow src dest).ctxSup x1 = s.ctxSup x1 := rfl
@[simp] theorem State.flow_ctxId (s : State) (src : List Carrier) (dest : Carrier) (x1 : Nat) : (s.flow src dest).ctxId x1 = s.ctxId x1 := rfl
@[simp] theorem State.flow_ctxSlot (s : State) (src : List Carrier) (dest : Carrier) (x1 : Nat) : (s.flow src dest).ctxSlot x1 = s.ctxSlot x1 := rfl
@[simp] theorem State.flow_tower (s : State) (src : List Carrier) (dest : Carrier) (x1 : Nat) : (s.flow src dest).tower x1 = s.tower x1 := rfl
@[simp] theorem State.flow_running (s : State) (src : List Carrier) (dest : Carrier) (x1 : Nat) : (s.flow src dest).running x1 = s.running x1 := rfl
@[simp] theorem State.flow_coreNumber (s : State) (src : List Carrier) (dest : Carrier) (x1 : Nat) : (s.flow src dest).coreNumber x1 = s.coreNumber x1 := rfl
@[simp] theorem State.flow_core (s : State) (src : List Carrier) (dest : Carrier) (x1 : Nat) : (s.flow src dest).core x1 = s.core x1 := rfl
@[simp] theorem State.flow_warp (s : State) (src : List Carrier) (dest : Carrier) (x1 x2 : Nat) : (s.flow src dest).warp x1 x2 = s.warp x1 x2 := rfl
@[simp] theorem State.flow_comb (s : State) (src : List Carrier) (dest : Carrier) (x1 : Nat) : (s.flow src dest).comb x1 = s.comb x1 := rfl
@[simp] theorem State.flow_ctx (s : State) (src : List Carrier) (dest : Carrier) (x1 : Nat) : (s.flow src dest).ctx x1 = s.ctx x1 := rfl
@[simp] theorem State.flow_wgroup (s : State) (src : List Carrier) (dest : Carrier) (x1 : Nat) : (s.flow src dest).wgroup x1 = s.wgroup x1 := rfl
@[simp] theorem State.flow_launch (s : State) (src : List Carrier) (dest : Carrier) (x1 : Nat) : (s.flow src dest).launch x1 = s.launch x1 := rfl
@[simp] theorem State.flow_monitor (s : State) (src : List Carrier) (dest : Carrier) (x1 : Nat) : (s.flow src dest).monitor x1 = s.monitor x1 := rfl
@[simp] theorem State.flow_lines (s : State) (src : List Carrier) (dest : Carrier) : (s.flow src dest).lines = s.lines := rfl
@[simp] theorem State.flow_line (s : State) (src : List Carrier) (dest : Carrier) (x1 : Nat) : (s.flow src dest).line x1 = s.line x1 := rfl

@[simp] theorem State.dropCarriers_pkg (s : State) (gone : Carrier → Bool) : (s.dropCarriers gone).pkg = s.pkg := rfl
@[simp] theorem State.dropCarriers_towers (s : State) (gone : Carrier → Bool) : (s.dropCarriers gone).towers = s.towers := rfl
@[simp] theorem State.dropCarriers_ctxs (s : State) (gone : Carrier → Bool) : (s.dropCarriers gone).ctxs = s.ctxs := rfl
@[simp] theorem State.dropCarriers_combs (s : State) (gone : Carrier → Bool) : (s.dropCarriers gone).combs = s.combs := rfl
@[simp] theorem State.dropCarriers_cores (s : State) (gone : Carrier → Bool) : (s.dropCarriers gone).cores = s.cores := rfl
@[simp] theorem State.dropCarriers_mem (s : State) (gone : Carrier → Bool) : (s.dropCarriers gone).mem = s.mem := rfl
@[simp] theorem State.dropCarriers_poison (s : State) (gone : Carrier → Bool) : (s.dropCarriers gone).poison = s.poison := rfl
@[simp] theorem State.dropCarriers_packed (s : State) (gone : Carrier → Bool) : (s.dropCarriers gone).packed = s.packed := rfl
@[simp] theorem State.dropCarriers_bases (s : State) (gone : Carrier → Bool) : (s.dropCarriers gone).bases = s.bases := rfl
@[simp] theorem State.dropCarriers_pers (s : State) (gone : Carrier → Bool) : (s.dropCarriers gone).pers = s.pers := rfl
@[simp] theorem State.dropCarriers_merges (s : State) (gone : Carrier → Bool) : (s.dropCarriers gone).merges = s.merges := rfl
@[simp] theorem State.dropCarriers_agents (s : State) (gone : Carrier → Bool) : (s.dropCarriers gone).agents = s.agents := rfl
@[simp] theorem State.dropCarriers_tlb (s : State) (gone : Carrier → Bool) : (s.dropCarriers gone).tlb = s.tlb := rfl
@[simp] theorem State.dropCarriers_filter (s : State) (gone : Carrier → Bool) : (s.dropCarriers gone).filter = s.filter := rfl
@[simp] theorem State.dropCarriers_lag (s : State) (gone : Carrier → Bool) : (s.dropCarriers gone).lag = s.lag := rfl
@[simp] theorem State.dropCarriers_fields (s : State) (gone : Carrier → Bool) : (s.dropCarriers gone).fields = s.fields := rfl
@[simp] theorem State.dropCarriers_seals (s : State) (gone : Carrier → Bool) : (s.dropCarriers gone).seals = s.seals := rfl
@[simp] theorem State.dropCarriers_sealPast (s : State) (gone : Carrier → Bool) : (s.dropCarriers gone).sealPast = s.sealPast := rfl
@[simp] theorem State.dropCarriers_launches (s : State) (gone : Carrier → Bool) : (s.dropCarriers gone).launches = s.launches := rfl
@[simp] theorem State.dropCarriers_groups (s : State) (gone : Carrier → Bool) : (s.dropCarriers gone).groups = s.groups := rfl
@[simp] theorem State.dropCarriers_images (s : State) (gone : Carrier → Bool) : (s.dropCarriers gone).images = s.images := rfl
@[simp] theorem State.dropCarriers_tiles (s : State) (gone : Carrier → Bool) : (s.dropCarriers gone).tiles = s.tiles := rfl
@[simp] theorem State.dropCarriers_tileWait (s : State) (gone : Carrier → Bool) : (s.dropCarriers gone).tileWait = s.tileWait := rfl
@[simp] theorem State.dropCarriers_released (s : State) (gone : Carrier → Bool) : (s.dropCarriers gone).released = s.released := rfl
@[simp] theorem State.dropCarriers_locks (s : State) (gone : Carrier → Bool) : (s.dropCarriers gone).locks = s.locks := rfl
@[simp] theorem State.dropCarriers_lockWait (s : State) (gone : Carrier → Bool) : (s.dropCarriers gone).lockWait = s.lockWait := rfl
@[simp] theorem State.dropCarriers_watches (s : State) (gone : Carrier → Bool) : (s.dropCarriers gone).watches = s.watches := rfl
@[simp] theorem State.dropCarriers_binds (s : State) (gone : Carrier → Bool) : (s.dropCarriers gone).binds = s.binds := rfl
@[simp] theorem State.dropCarriers_monitors (s : State) (gone : Carrier → Bool) : (s.dropCarriers gone).monitors = s.monitors := rfl
@[simp] theorem State.dropCarriers_turns (s : State) (gone : Carrier → Bool) : (s.dropCarriers gone).turns = s.turns := rfl
@[simp] theorem State.dropCarriers_agenda (s : State) (gone : Carrier → Bool) : (s.dropCarriers gone).agenda = s.agenda := rfl
@[simp] theorem State.dropCarriers_tick (s : State) (gone : Carrier → Bool) : (s.dropCarriers gone).tick = s.tick := rfl
@[simp] theorem State.dropCarriers_rounds (s : State) (gone : Carrier → Bool) : (s.dropCarriers gone).rounds = s.rounds := rfl
@[simp] theorem State.dropCarriers_cur (s : State) (gone : Carrier → Bool) : (s.dropCarriers gone).cur = s.cur := rfl
@[simp] theorem State.dropCarriers_seq (s : State) (gone : Carrier → Bool) : (s.dropCarriers gone).seq = s.seq := rfl
@[simp] theorem State.dropCarriers_reply (s : State) (gone : Carrier → Bool) : (s.dropCarriers gone).reply = s.reply := rfl
@[simp] theorem State.dropCarriers_byte (s : State) (gone : Carrier → Bool) (x1 : Nat) : (s.dropCarriers gone).byte x1 = s.byte x1 := rfl
@[simp] theorem State.dropCarriers_bytes (s : State) (gone : Carrier → Bool) (x1 x2 : Nat) : (s.dropCarriers gone).bytes x1 x2 = s.bytes x1 x2 := rfl
@[simp] theorem State.dropCarriers_num (s : State) (gone : Carrier → Bool) (x1 x2 : Nat) : (s.dropCarriers gone).num x1 x2 = s.num x1 x2 := rfl
@[simp] theorem State.dropCarriers_desc (s : State) (gone : Carrier → Bool) (x1 x2 x3 : Nat) : (s.dropCarriers gone).desc x1 x2 x3 = s.desc x1 x2 x3 := rfl
@[simp] theorem State.dropCarriers_ctxValid (s : State) (gone : Carrier → Bool) (x1 : Nat) : (s.dropCarriers gone).ctxValid x1 = s.ctxValid x1 := rfl
@[simp] theorem State.dropCarriers_ctxSup (s : State) (gone : Carrier → Bool) (x1 : Nat) : (s.dropCarriers gone).ctxSup x1 = s.ctxSup x1 := rfl
@[simp] theorem State.dropCarriers_ctxId (s : State) (gone : Carrier → Bool) (x1 : Nat) : (s.dropCarriers gone).ctxId x1 = s.ctxId x1 := rfl
@[simp] theorem State.dropCarriers_ctxSlot (s : State) (gone : Carrier → Bool) (x1 : Nat) : (s.dropCarriers gone).ctxSlot x1 = s.ctxSlot x1 := rfl
@[simp] theorem State.dropCarriers_tower (s : State) (gone : Carrier → Bool) (x1 : Nat) : (s.dropCarriers gone).tower x1 = s.tower x1 := rfl
@[simp] theorem State.dropCarriers_running (s : State) (gone : Carrier → Bool) (x1 : Nat) : (s.dropCarriers gone).running x1 = s.running x1 := rfl
@[simp] theorem State.dropCarriers_coreNumber (s : State) (gone : Carrier → Bool) (x1 : Nat) : (s.dropCarriers gone).coreNumber x1 = s.coreNumber x1 := rfl
@[simp] theorem State.dropCarriers_core (s : State) (gone : Carrier → Bool) (x1 : Nat) : (s.dropCarriers gone).core x1 = s.core x1 := rfl
@[simp] theorem State.dropCarriers_warp (s : State) (gone : Carrier → Bool) (x1 x2 : Nat) : (s.dropCarriers gone).warp x1 x2 = s.warp x1 x2 := rfl
@[simp] theorem State.dropCarriers_comb (s : State) (gone : Carrier → Bool) (x1 : Nat) : (s.dropCarriers gone).comb x1 = s.comb x1 := rfl
@[simp] theorem State.dropCarriers_ctx (s : State) (gone : Carrier → Bool) (x1 : Nat) : (s.dropCarriers gone).ctx x1 = s.ctx x1 := rfl
@[simp] theorem State.dropCarriers_wgroup (s : State) (gone : Carrier → Bool) (x1 : Nat) : (s.dropCarriers gone).wgroup x1 = s.wgroup x1 := rfl
@[simp] theorem State.dropCarriers_launch (s : State) (gone : Carrier → Bool) (x1 : Nat) : (s.dropCarriers gone).launch x1 = s.launch x1 := rfl
@[simp] theorem State.dropCarriers_monitor (s : State) (gone : Carrier → Bool) (x1 : Nat) : (s.dropCarriers gone).monitor x1 = s.monitor x1 := rfl
@[simp] theorem State.dropCarriers_lines (s : State) (gone : Carrier → Bool) : (s.dropCarriers gone).lines = s.lines := rfl
@[simp] theorem State.dropCarriers_line (s : State) (gone : Carrier → Bool) (x1 : Nat) : (s.dropCarriers gone).line x1 = s.line x1 := rfl

/-! ### What the updated part reads as -/

theorem State.core_modCore (s : State) (c d : Nat) (f : Core → Core) :
    (s.modCore c f).core d = if d = c ∧ c < s.cores.length then f (s.core c) else s.core d := by
  simp only [State.core, State.modCore, modAt_get]
  by_cases h : d = c
  · subst h
    by_cases l : d < s.cores.length
    · simp [l]
    · simp [l]
  · simp [h]

theorem State.core_modCore_ne (s : State) {c d : Nat} (f : Core → Core) (h : d ≠ c) : (s.modCore c f).core d = s.core d := by
  rw [State.core_modCore, if_neg (fun e => h e.1)]

theorem State.core_modCore_same (s : State) (c : Nat) (f : Core → Core) (h : c < s.cores.length) :
    (s.modCore c f).core c = f (s.core c) := by rw [State.core_modCore, if_pos ⟨rfl, h⟩]

/-- A resident warp stands on a core that the state has, in one of its slots. -/
theorem State.warp_core (s : State) {c k : Nat} {w : Warp} (h : s.warp c k = some w) :
    c < s.cores.length ∧ k < (s.core c).slots.length := by
  unfold State.warp at h
  constructor
  · apply Decidable.byContradiction
    intro n
    have e : s.core c = {} := by
      rw [State.core, List.getElem?_eq_none (Nat.le_of_not_lt n)]; rfl
    rw [e] at h
    change ((List.replicate 128 (none : Option Warp))[k]?).getD none = some w at h
    rw [List.getElem?_replicate] at h
    split at h <;> exact absurd h nofun
  · apply Decidable.byContradiction
    intro n
    rw [List.getElem?_eq_none (Nat.le_of_not_lt n)] at h
    simp at h

theorem State.warp_setWarp (s : State) {c k : Nat} {w : Warp} (x : Option Warp) (h : s.warp c k = some w) (d l : Nat) :
    (s.setWarp c k x).warp d l = if d = c ∧ l = k then x else s.warp d l := by
  obtain ⟨hc, hk⟩ := State.warp_core s h
  simp only [State.warp, State.setWarp, State.core_modCore]
  by_cases e : d = c
  · subst e
    rw [if_pos ⟨rfl, hc⟩, modAt_get]
    by_cases f : l = k
    · subst f; simp [hk]
    · simp [f]
  · simp [e]

theorem State.warp_modWarp (s : State) {c k : Nat} {w : Warp} (f : Warp → Warp) (h : s.warp c k = some w) (d l : Nat) :
    (s.modWarp c k f).warp d l = if d = c ∧ l = k then some (f w) else s.warp d l := by
  obtain ⟨hc, hk⟩ := State.warp_core s h
  have h' := h
  unfold State.warp at h'
  simp only [State.warp, State.modWarp, State.core_modCore]
  by_cases e : d = c
  · subst e
    rw [if_pos ⟨rfl, hc⟩, modAt_get]
    by_cases g : l = k
    · subst g
      cases q : (s.core d).slots[l]? with
      | none => rw [q] at h'; simp at h'
      | some y => rw [q] at h'; simp at h'; simp [h']
    · simp [g]
  · simp [e]

/-- Changing a resident warp is putting the changed warp in its slot. -/
theorem State.modWarp_eq_setWarp (s : State) {c k : Nat} {w : Warp} (f : Warp → Warp) (h : s.warp c k = some w) :
    s.modWarp c k f = s.setWarp c k (some (f w)) := by
  have at_eq : ∀ (xs : List (Option Warp)) (n : Nat), (xs[n]?).getD none = some w →
      modAt (Option.map f) n xs = modAt (fun _ => some (f w)) n xs := by
    intro xs
    induction xs with
    | nil => intro n _; cases n <;> rfl
    | cons x xs ih =>
      intro n e
      cases n with
      | zero => simp at e; simp [modAt, e]
      | succ n => simp at e; simp [modAt, ih n (by simpa using e)]
  have cong : ∀ (xs : List Core) (n : Nat) (g g' : Core → Core), g ((xs[n]?).getD {}) = g' ((xs[n]?).getD {}) →
      modAt g n xs = modAt g' n xs := by
    intro xs
    induction xs with
    | nil => intro n _ _ _; cases n <;> rfl
    | cons x xs ih =>
      intro n g g' e
      cases n with
      | zero => simp at e; simp [modAt, e]
      | succ n => simp [modAt]; exact ih n g g' (by simpa using e)
  unfold State.modWarp State.setWarp State.modCore
  congr 1
  apply cong
  exact congrArg (fun z => { (s.core c) with slots := z }) (at_eq (s.core c).slots k h)

/-- Two writes of one slot: the later remains. -/
@[simp] theorem State.setWarp_setWarp (s : State) (c k : Nat) (x y : Option Warp) :
    (s.setWarp c k x).setWarp c k y = s.setWarp c k y := by
  have two : ∀ {α : Type} (xs : List α) (n : Nat) (g h k : α → α), (∀ a, h (g a) = k a) →
      modAt h n (modAt g n xs) = modAt k n xs := by
    intro α xs
    induction xs with
    | nil => intro n _ _ _ _; cases n <;> rfl
    | cons x xs ih =>
      intro n g h k e
      cases n with
      | zero => simp [modAt, e]
      | succ n => simp [modAt, ih n g h k e]
  simp only [State.setWarp, State.modCore]
  congr 1
  apply two
  intro a
  exact congrArg (fun z => { a with slots := z }) (two a.slots k _ _ _ fun _ => rfl)

theorem State.frag_eq (s : State) (r : FragRef) {w : Warp} (h : s.warp r.core r.slot = some w) : s.frag r = w.frag r.entry := by
  simp [State.frag, h]

/-- Putting a warp in a slot keeps every core's other parts. -/
theorem State.core_setWarp (s : State) (c k : Nat) (x : Option Warp) (d : Nat) :
    (s.setWarp c k x).core d = { s.core d with slots := ((s.setWarp c k x).core d).slots } := by
  simp only [State.setWarp, State.core_modCore]
  split
  · next e => rw [e.1]
  · rfl

@[simp] theorem Warp.modFrag_r (w : Warp) (i : Nat) (f : Frag → Frag) : (w.modFrag i f).r = w.r := rfl
@[simp] theorem Warp.modFrag_m (w : Warp) (i : Nat) (f : Frag → Frag) : (w.modFrag i f).m = w.m := rfl
@[simp] theorem Warp.modFrag_width (w : Warp) (i : Nat) (f : Frag → Frag) : (w.modFrag i f).width = w.width := rfl
@[simp] theorem Warp.modFrag_joins (w : Warp) (i : Nat) (f : Frag → Frag) : (w.modFrag i f).joins = w.joins := rfl
@[simp] theorem Warp.modFrag_join (w : Warp) (i : Nat) (f : Frag → Frag) (j : Nat) : (w.modFrag i f).join j = w.join j := rfl
@[simp] theorem Warp.setJoin_r (w : Warp) (j : Nat) (x : Option Join) : (w.setJoin j x).r = w.r := rfl
@[simp] theorem Warp.setJoin_frag (w : Warp) (j : Nat) (x : Option Join) (i : Nat) : (w.setJoin j x).frag i = w.frag i := rfl

theorem Warp.frag_modFrag (w : Warp) (i j : Nat) (f : Frag → Frag) :
    (w.modFrag i f).frag j = if j = i ∧ i < w.frags.length then f (w.frag i) else w.frag j := by
  simp only [Warp.frag, Warp.modFrag, modAt_get]
  by_cases h : j = i
  · subst h
    by_cases l : j < w.frags.length
    · simp [l]
    · simp [l]
  · simp [h]

theorem Warp.join_setJoin (w : Warp) (j i : Nat) (x : Option Join) (h : j < w.joins.length) :
    (w.setJoin j x).join i = if i = j then x else w.join i := by
  simp only [Warp.join, Warp.setJoin, modAt_get]
  by_cases e : i = j
  · subst e; simp [h]
  · simp [e]

theorem State.tower_modTower (s : State) (t j : Nat) (f : Tower → Tower) :
    (s.modTower t f).tower j = if j = t ∧ t < s.towers.length then f (s.tower t) else s.tower j := by
  simp only [State.tower, State.modTower, modAt_get]
  by_cases h : j = t
  · subst h
    by_cases l : j < s.towers.length
    · simp [l]
    · simp [l]
  · simp [h]

theorem State.ctx_modCtx (s : State) (i j : Nat) (f : Ctx → Ctx) :
    (s.modCtx i f).ctx j = if j = i ∧ i < s.ctxs.length then f (s.ctx i) else s.ctx j := by
  simp only [State.ctx, State.modCtx, modAt_get]
  by_cases h : j = i
  · subst h
    by_cases l : j < s.ctxs.length
    · simp [l]
    · simp [l]
  · simp [h]

theorem State.comb_modComb (s : State) (c j : Nat) (f : Comb → Comb) :
    (s.modComb c f).comb j = if j = c ∧ c < s.combs.length then f (s.comb c) else s.comb j := by
  simp only [State.comb, State.modComb, modAt_get]
  by_cases h : j = c
  · subst h
    by_cases l : j < s.combs.length
    · simp [l]
    · simp [l]
  · simp [h]

theorem State.monitor_modMonitor (s : State) (m j : Nat) (f : Monitor → Monitor) :
    (s.modMonitor m f).monitor j = if j = m ∧ m < s.monitors.length then f (s.monitor m) else s.monitor j := by
  simp only [State.monitor, State.modMonitor, modAt_get]
  by_cases h : j = m
  · subst h
    by_cases l : j < s.monitors.length
    · simp [l]
    · simp [l]
  · simp [h]

theorem State.line_setLine (s : State) (ln j : Nat) (x : LineState) :
    (s.setLine ln x).line j = if j = ln then x else s.line j := spGet_spSet _ _ _ _ _

end Sys2Proof.Machine
end

