-- ==== Sys2Proof/Laws/Ops.lean ====
section
/-!
SUPPORT. What the shared operations can do, said once: the prologue and epilogue of an instruction, reading and writing
registers at the first instruction of a run, taking a fault, and a store of bytes.
-/
namespace Sys2Proof.Machine

/-! ### Reading registers at the first instruction of a run -/

@[simp] theorem runRead_nil (t key pos : Nat) (cur : W32) : runRead t [] key pos cur = cur := rfl
@[simp] theorem runRead64_nil (t key pos : Nat) (cur : W64) : runRead64 t [] key pos cur = cur := rfl

theorem Env.v_first (e : Env) (h : e.fr.run = []) (n L pos : Nat) : e.v n L pos = spGet 0 e.w.r.v (n * 64 + L) := by
  simp [Env.v, h]
theorem Env.s_first (e : Env) (h : e.fr.run = []) (n pos : Nat) : e.s n pos = sHeld e.w e.fr n := by
  simp [Env.s, h]
theorem Env.k_first (e : Env) (h : e.fr.run = []) (n pos : Nat) :
    e.k n pos = if n = 0 then fullMask e.w.width else kHeld e.w n &&& fullMask e.w.width := by
  simp [Env.k, h]
theorem fragExm_first (t : Nat) (fr : Frag) (h : fr.run = []) : fragExm t fr = fr.exm &&& fr.mem := by
  simp [fragExm, h]
theorem predicate_first (t : Nat) (w : Warp) (fr : Frag) (f : Fields) (h : fr.run = []) :
    predicate t w fr f =
      let m := if f.pk.toNat = 0 then fullMask w.width else kHeld w f.pk.toNat &&& fullMask w.width
      if f.pneg then fullMask w.width &&& ~~~m else m := by
  simp [predicate, h]

/-- A word that the run has not written is written as given, and the log keeps what it held. -/
theorem runWrite_fresh (t : Nat) (log : Sp (List W32)) (key : Nat) (cur x : W32) (h : spGet [] log key = []) :
    runWrite t log key cur x = (x, spSet [] log key [cur]) := by
  simp [runWrite, h]

/-- A 64-bit register is its two words. -/
theorem halves (x : W64) : (x.extractLsb' 32 32 ++ x.extractLsb' 0 32 : BitVec 64) = x := by
  apply BitVec.eq_of_getLsbD_eq
  intro i hi
  rw [BitVec.getLsbD_append, BitVec.getLsbD_extractLsb', BitVec.getLsbD_extractLsb']
  by_cases h : i < 32
  · simp [h]
  · have e : 32 + (i - 32) = i := by omega
    have l : i - 32 < 32 := by omega
    simp [h, e, l]

/-- So is a 64-bit register. -/
theorem runWrite64_fresh (t : Nat) (log : Sp (List W32)) (key : Nat) (cur x : W64) (h : spGet [] log key = [])
    (h' : spGet [] log (key + 1) = []) : (runWrite64 t log key cur x).1 = x := by
  rw [runWrite64, runWrite_fresh _ _ _ _ _ h]
  simp only
  rw [runWrite_fresh _ _ _ _ _ (by rw [spGet_spSet_ne _ _ _ (by omega)]; exact h')]
  exact halves x

/-! ### The prologue and the epilogue of an instruction -/

@[simp] theorem finish_done (e : Env) (b : Bool) (s : State) :
    finish e b (.done s) = .next (s.modFrag e.ref (afterIssue e.t b (nextPC e.fr.pc))) := rfl
@[simp] theorem finish_jump (e : Env) (b : Bool) (s : State) (pc : W64) :
    finish e b (.jump s pc) = .next (s.modFrag e.ref (afterIssue e.t true pc)) := rfl
@[simp] theorem finish_park (e : Env) (b : Bool) (s : State) (w : Wait) :
    finish e b (.park s w) = .next (s.modFrag e.ref fun fr =>
      waitsFrom (s.tower (towerOf e.ref.core)).clock s.pkg.gtime w (parked e.active w fr)) := rfl
@[simp] theorem finish_trap (e : Env) (b : Bool) (s : State) (ts : List Trap) :
    finish e b (.trap s ts) = .next (takeTraps e.ref s ts) := rfl
@[simp] theorem finish_moved (e : Env) (b : Bool) (s : State) : finish e b (.moved s) = .next s := rfl

@[simp] theorem completed_done (e : Env) (i : Instr) (f : Fields) (s : State) :
    (Res.done s).completed e i f = .done (e.measured i (if isOrdinary i f then e.ordinary s else s)) := rfl
@[simp] theorem completed_jump (e : Env) (i : Instr) (f : Fields) (s : State) (pc : W64) :
    (Res.jump s pc).completed e i f = .jump s pc := rfl
@[simp] theorem completed_park (e : Env) (i : Instr) (f : Fields) (s : State) (w : Wait) :
    (Res.park s w).completed e i f = .park s w := rfl
@[simp] theorem completed_trap (e : Env) (i : Instr) (f : Fields) (s : State) (ts : List Trap) :
    (Res.trap s ts).completed e i f = .trap s ts := rfl
@[simp] theorem completed_moved (e : Env) (i : Instr) (f : Fields) (s : State) :
    (Res.moved s).completed e i f = .moved s := rfl

/-- What the monitors see changes the monitors alone (R426). -/
theorem State.seesValue_only (s : State) (src scope v : Nat) (b : Bool) :
    ∃ ms, s.seesValue src scope v b = { s with monitors := ms } := by
  unfold State.seesValue
  simp only []
  split
  · exact ⟨_, rfl⟩
  · exact ⟨s.monitors, rfl⟩
theorem measured_only (e : Env) (i : Instr) (s : State) : ∃ ms, e.measured i s = { s with monitors := ms } := by
  have h : ∀ (s t : State) ms ms', t = { s with monitors := ms } → { t with monitors := ms' } = { s with monitors := ms' } := by
    rintro s t ms ms' rfl; rfl
  unfold Env.measured
  simp only []
  split <;> split
  · obtain ⟨m1, h1⟩ := State.seesValue_only s (_ + 1) e.ref.core _ false
    obtain ⟨m2, h2⟩ := State.seesValue_only (s.seesValue (_ + 1) e.ref.core _ false) 9 e.ref.core _ true
    exact ⟨m2, h2.trans (h _ _ _ _ h1)⟩
  · exact State.seesValue_only s _ _ _ _
  · exact State.seesValue_only s _ _ _ _
  · exact ⟨s.monitors, rfl⟩
/-- The orders that an instruction takes part in change what is known of past stores alone (R428). -/
theorem ordinary_only (e : Env) (s : State) : ∃ ps, e.ordinary s = { s with past := ps } := ⟨_, rfl⟩
theorem State.noteStore_only (s new : State) (known : List Carrier) (p o : Nat) (data : List Byte) :
    ∃ ps, s.noteStore new known p o data = { new with past := ps } := by
  unfold State.noteStore
  split
  · exact ⟨_, rfl⟩
  · exact ⟨new.past, rfl⟩

/-- An instruction that loads nothing and did not wait for a line has nothing to measure (R426). -/
theorem measured_same (e : Env) (i : Instr) (s : State) (hl : loadSeg i = none) (hw : e.fr.wait = none) : e.measured i s = s := by
  simp [Env.measured, hl, hw]

/-- Without a word in one bit of error, reading corrects nothing (R238). -/
theorem correctReads_clean (i : Instr) (e : Env) (s : State) (h : (s.core e.ref.core).weak = []) : correctReads i e s = s := by
  simp [correctReads, h]

/-- An instruction that is legal, that its warp may run and whose blocks cover its operands passes the checks, on a core
without a word in uncorrectable error. -/
theorem preCheck_pass (i : Instr) (e : Env) (s : State) (sh : Shape) (hsh : i.shape = some sh)
    (hm : i.privileged = true → s.ctxSup e.w.cslot = true) (hl : sh.check e.f = none)
    (hg : grantOk sh e.f e.w.r.xgrant = true) (hb : (s.core e.ref.core).bad = []) : preCheck i e s = none := by
  unfold preCheck
  have : (i.privileged && !s.ctxSup e.w.cslot) = false := by
    cases p : i.privileged
    · rfl
    · simp [hm p]
  simp [this, hsh, hl, hg, hb]

/-- An instruction of a class other than flow whose checks pass: with an empty Active one of a lane or scalar class does
nothing, else its own effect is what it does. -/
theorem issue_pass (i : Instr) (f : Fields) (c : Cls) (body : Env → State → Res) (s : State) (w : Warp) (e : Env)
    (hc : c ≠ .flow) (hw : s.warp s.cur.core s.cur.slot = some w) (hi : (w.frag s.cur.entry).issuable = true)
    (he : e = mkEnv s.tick s.cur w (w.frag s.cur.entry) f) (hp : preCheck i e (correctReads i e s) = none) :
    issue i f c body s =
      if c = .lanes ∧ e.active = 0 then finish e f.sw (.done (correctReads i e s))
      else finish e f.sw ((body e (correctReads i e s)).completed e i f) := by
  subst he
  have h1 : (Cls.lanes == Cls.flow) = false := rfl
  have h2 : (Cls.always == Cls.flow) = false := rfl
  have h3 : (Cls.always == Cls.lanes) = false := rfl
  cases c with
  | flow => exact absurd rfl hc
  | lanes => simp only [issue, hw, h1, if_neg Bool.false_ne_true, hi, if_true, hp]; simp
  | always => simp only [issue, hw, h2, if_neg Bool.false_ne_true, hi, if_true, hp]; simp [h3]

/-- A flow instruction, which ends the run, whose checks pass does what its own effect is. -/
theorem issue_flow (i : Instr) (f : Fields) (body : Env → State → Res) (s s' : State) (w w' : Warp) (e : Env)
    (hw : s.warp s.cur.core s.cur.slot = some w) (hw' : w' = w.modFrag s.cur.entry fun fr => { fr with run := [] })
    (hs' : s' = s.modFrag s.cur fun fr => { fr with run := [] }) (hi : (w'.frag s.cur.entry).issuable = true)
    (he : e = mkEnv s.tick s.cur w' (w'.frag s.cur.entry) f) (hp : preCheck i e (correctReads i e s') = none) :
    issue i f .flow body s = finish e true ((body e (correctReads i e s')).completed e i f) := by
  subst he hw' hs'
  have h1 : (Cls.flow == Cls.flow) = true := rfl
  have h2 : (Cls.flow == Cls.lanes) = false := rfl
  simp only [issue, hw, h1, if_true, State.modFrag_tick, State.modFrag_cur, hi, hp]
  simp [h2]

/-- An instruction that fails a check before it executes takes that fault, whatever Active holds (R16). -/
theorem issue_trap (i : Instr) (f : Fields) (c : Cls) (body : Env → State → Res) (s : State) (w : Warp) (e : Env) (t : Trap)
    (hc : c ≠ .flow) (hw : s.warp s.cur.core s.cur.slot = some w) (hi : (w.frag s.cur.entry).issuable = true)
    (he : e = mkEnv s.tick s.cur w (w.frag s.cur.entry) f) (hp : preCheck i e (correctReads i e s) = some t) :
    issue i f c body s = .next (takeTraps s.cur (correctReads i e s) [t]) := by
  subst he
  have h1 : (Cls.lanes == Cls.flow) = false := rfl
  have h2 : (Cls.always == Cls.flow) = false := rfl
  cases c with
  | flow => exact absurd rfl hc
  | lanes => simp only [issue, hw, h1, if_neg Bool.false_ne_true, hi, if_true, hp]; rfl
  | always => simp only [issue, hw, h2, if_neg Bool.false_ne_true, hi, if_true, hp]; rfl

/-! ### Taking a fault -/

/-- A fault of a fragment that did not wait stops it with its PC as it was, adds its records to the core's, and changes no
memory (R36, R41). -/
theorem takeTraps_warp (s : State) (r : FragRef) (ts : List Trap) (w : Warp) (h : s.warp r.core r.slot = some w)
    (hw : (w.frag r.entry).wait = none) :
    takeTraps r s ts = (s.modFrag r fun fr =>
      { fr with st := .stopped, wait := none, run := [], runOver := true, begun := none, leased := none, ahead := [],
                cause := (ts.head?.map Trap.cause).getD 0 }).modCore
      r.core fun k => { k with records := k.records ++ ts.map (recordOf s r w (w.frag r.entry).pc 0) } := by
  simp [takeTraps, h, hw]

@[simp] theorem takeTraps_mem (s : State) (r : FragRef) (ts : List Trap) : (takeTraps r s ts).mem = s.mem := by
  unfold takeTraps
  split
  · rfl
  · simp only []; split <;> rfl

@[simp] theorem takeTraps_byte (s : State) (r : FragRef) (ts : List Trap) (a : Nat) : (takeTraps r s ts).byte a = s.byte a := by
  simp [State.byte]

/-! ### Storing bytes -/

theorem foldl_keep {α β γ : Type} (g : α → γ) (f : α → β → α) (h : ∀ a b, g (f a b) = g a) (xs : List β) (a : α) :
    g (xs.foldl f a) = g a := by
  induction xs generalizing a with
  | nil => rfl
  | cons x xs ih => rw [List.foldl_cons, ih, h]

@[simp] theorem State.pushTask_mem (s : State) (c l : Nat) (k : TaskRec) (g : List Seg) (n : Nat) :
    (s.pushTask c l k g n).1.mem = s.mem := rfl
@[simp] theorem State.pushWatch_mem (n : Nat) (s : State) (w : Watch) : (s.pushWatch n w).mem = s.mem := by
  unfold State.pushWatch
  split
  · simp only []; split <;> rfl
  · split <;> rfl

@[simp] theorem State.noteLag_mem (s : State) (who : Writer) (k n : Nat) : (s.noteLag who k n).mem = s.mem := by
  unfold State.noteLag
  split
  · split <;> rfl
  · rfl

@[simp] theorem State.noteSealed_mem (s : State) (k n : Nat) : (s.noteSealed k n).mem = s.mem := by
  unfold State.noteSealed
  split <;> rfl

@[simp] theorem State.retain_mem (s : State) (k n : Nat) : (s.retain k n).mem = s.mem := by
  unfold State.retain
  exact foldl_keep (fun t : State => t.mem) (fun (s : State) (ln : Nat) => s.setLine ln ((s.line ln).retain (s.bytes (ln * 128) 128)))
    (fun _ _ => rfl) _ s

@[simp] theorem State.notify_mem (s old : State) (who : Writer) (k n : Nat) : (s.notify old who k n).mem = s.mem := by
  have h : ∀ (f : State → Watch → State) (xs : List Watch), (∀ t w, (f t w).mem = t.mem) → (xs.foldl f s).mem = s.mem :=
    fun f xs hf => foldl_keep (fun t : State => t.mem) f hf xs s
  unfold State.notify
  simp only []
  repeat' split
  all_goals exact h _ _ fun t w => State.pushWatch_mem _ _ _

@[simp] theorem State.dropEnded_mem (s old : State) : (State.dropEnded s old).mem = s.mem := by
  unfold State.dropEnded
  refine foldl_keep (fun t : State => t.mem) _ (fun a b => ?_) _ s
  split <;> rfl

@[simp] theorem State.markQueues_mem (s old : State) (who : Writer) (k n : Nat) : (State.markQueues s old who k n).mem = s.mem := by
  unfold State.markQueues
  split
  · rfl
  · rw [State.dropEnded_mem]
    refine foldl_keep (fun t : State => t.mem) _ (fun a b => ?_) _ s
    split <;> rfl

/-- A store writes its bytes at its address and no other byte (R210). -/
@[simp] theorem State.poke_mem (s : State) (who : Writer) (key : Nat) (data : List Byte) :
    (s.poke who key data).mem = spWrite 0 s.mem key data := by
  simp [State.poke]

theorem State.poke_byte (s : State) (who : Writer) (key : Nat) (data : List Byte) (a : Nat) :
    (s.poke who key data).byte a =
      if key ≤ a ∧ a < key + data.length then (data[a - key]?).getD 0 else s.byte a := by
  simp only [State.byte, State.poke_mem]
  exact spGet_spWrite 0 data s.mem key a

/-- A store keeps the canonical form of memory. -/
theorem State.poke_wf (s : State) (who : Writer) (key : Nat) (data : List Byte) (h : Memory.wf s.mem = true) :
    Memory.wf (s.poke who key data).mem = true := by
  rw [State.poke_mem]; exact Memory.wf_write _ _ _ h

/-- Reset memory is in canonical form. -/
theorem State.reset_wf : Memory.wf State.reset.mem = true := rfl

end Sys2Proof.Machine
end

