-- ==== Sys2Proof/Laws/Coherence.lean ====
section
/-!
SUPPORT. What taking tokens and time for a line can do, said once: it changes the lines' states, the towers, the slices'
bases and what the monitors have seen, and nothing else; and what a claimed store writes.
-/
namespace Sys2Proof.Machine

/-- A state that differs in the lines' states, the towers, the slices' bases and the monitors alone. -/
def State.TimeOnly (s s' : State) : Prop :=
  ∃ ls ts bs ms, s' = { s with lines := ls, towers := ts, bases := bs, monitors := ms }

theorem State.TimeOnly.refl (s : State) : s.TimeOnly s := ⟨s.lines, s.towers, s.bases, s.monitors, rfl⟩

theorem State.TimeOnly.trans {a b c : State} (h : a.TimeOnly b) (k : b.TimeOnly c) : a.TimeOnly c := by
  obtain ⟨_, _, _, _, rfl⟩ := h
  obtain ⟨ls, ts, bs, ms, rfl⟩ := k
  exact ⟨ls, ts, bs, ms, rfl⟩

theorem State.TimeOnly.foldl {β : Type} (f : State → β → State) (h : ∀ s x, State.TimeOnly s (f s x)) :
    ∀ (xs : List β) (s : State), s.TimeOnly (xs.foldl f s)
  | [], s => .refl s
  | x :: xs, s => (h s x).trans (State.TimeOnly.foldl f h xs (f s x))

theorem State.setLine_timeOnly (s : State) (ln : Nat) (x : LineState) : s.TimeOnly (s.setLine ln x) :=
  ⟨_, s.towers, s.bases, s.monitors, rfl⟩

theorem State.raisePts_timeOnly (s : State) (t x : Nat) : s.TimeOnly (s.raisePts t x) := ⟨s.lines, _, s.bases, s.monitors, rfl⟩

theorem State.setTimes_timeOnly (s : State) (ln w r : Nat) : s.TimeOnly (s.setTimes ln w r) := by
  have h : s.TimeOnly (if isRemote (ln * 128) ∨ max w r - s.base ln ≤ 0xFFFFFF then s
      else { s with bases := spSet 0 s.bases (sliceOf (ln * 128)) (max w r - 2 ^ 23) }) := by
    split
    · exact .refl s
    · exact ⟨s.lines, s.towers, _, s.monitors, rfl⟩
  exact h.trans (State.setLine_timeOnly _ _ _)

theorem State.seesValue_timeOnly (s : State) (src scope v : Nat) (b : Bool) : s.TimeOnly (s.seesValue src scope v b) := by
  unfold State.seesValue
  simp only []
  split
  · exact ⟨s.lines, s.towers, s.bases, _, rfl⟩
  · exact .refl s

theorem State.seesTries_timeOnly (s : State) (rd : Reader) (ln : Nat) : s.TimeOnly (s.seesTries rd ln) := by
  unfold State.seesTries
  cases rd
  · exact State.seesValue_timeOnly _ _ _ _ _
  · exact .refl s

theorem State.grant_timeOnly (s : State) (t ln cls : Nat) : s.TimeOnly (s.grant t ln cls) := by
  unfold State.grant
  exact (State.setTimes_timeOnly _ _ _ _).trans (State.setLine_timeOnly _ _ _)

theorem State.renew_timeOnly (s : State) (t ln cls : Nat) : s.TimeOnly (s.renew t ln cls) :=
  (State.grant_timeOnly _ _ _ _).trans (State.raisePts_timeOnly _ _ _)

theorem State.readTime_timeOnly (s : State) (t ln cls : Nat) : s.TimeOnly (s.readTime t ln cls) := by
  unfold State.readTime
  split
  · simp only []
    split
    · exact (State.raisePts_timeOnly _ _ _).trans (State.setTimes_timeOnly _ _ _ _)
    · exact State.raisePts_timeOnly _ _ _
  · split
    · exact State.renew_timeOnly _ _ _ _
    · split
      · split
        · exact State.raisePts_timeOnly _ _ _
        · exact State.renew_timeOnly _ _ _ _
      · exact State.renew_timeOnly _ _ _ _

theorem State.writeTime_timeOnly (s : State) (t ln : Nat) : s.TimeOnly (s.writeTime t ln) :=
  ((State.setTimes_timeOnly _ _ _ _).trans (State.setLine_timeOnly _ _ _)).trans (State.raisePts_timeOnly _ _ _)

theorem State.writeTimes_timeOnly (s : State) (t : Nat) (lns : List Nat) : s.TimeOnly (s.writeTimes t lns) :=
  (State.raisePts_timeOnly _ _ _).trans (State.TimeOnly.foldl (fun s ln => s.writeTime t ln) (fun s x => State.writeTime_timeOnly s t x) _ _)

theorem State.touch_timeOnly (s : State) (rd : Reader) (cls ln : Nat) : s.TimeOnly (s.touch rd cls ln) := by
  unfold State.touch
  cases rd
  · exact (State.setLine_timeOnly _ _ _).trans (State.readTime_timeOnly _ _ _ _)
  · exact State.readTime_timeOnly _ _ _ _

theorem State.touchAll_succ (s : State) (rd : Reader) (xs : List (Nat × Nat)) (n : Nat) :
    s.touchAll rd xs (n + 1) =
      if xs.all fun x => (xs.foldl (fun s x => s.touch rd x.2 x.1) s).timely rd.tower x.1 x.2 then
        xs.foldl (fun s x => s.touch rd x.2 x.1) s
      else (xs.foldl (fun s x => s.touch rd x.2 x.1) s).touchAll rd xs n := rfl

/-- The loads of an instruction take tokens and time, and do nothing else (R154, R161, R210). -/
theorem State.touchAll_timeOnly (rd : Reader) (xs : List (Nat × Nat)) (n : Nat) (s : State) : s.TimeOnly (s.touchAll rd xs n) := by
  induction n generalizing s with
  | zero => exact .refl s
  | succ n ih =>
    have h : s.TimeOnly (xs.foldl (fun s x => s.touch rd x.2 x.1) s) :=
      State.TimeOnly.foldl (fun s (x : Nat × Nat) => s.touch rd x.2 x.1) (fun s x => State.touch_timeOnly s rd x.2 x.1) xs s
    rw [State.touchAll_succ]
    split
    · exact h
    · exact h.trans (ih _)

theorem State.recallBank_timeOnly (s : State) (t ln : Nat) : s.TimeOnly (s.recallBank t ln) := State.setLine_timeOnly _ _ _

theorem State.claimTokens_timeOnly (s : State) (rd : Reader) (ln : Nat) : s.TimeOnly (s.claimTokens rd ln) := by
  unfold State.claimTokens State.recallBoth
  cases rd
  · simp only []
    split
    · split
      · exact State.setLine_timeOnly _ _ _
      · exact (State.recallBank_timeOnly _ _ _).trans (State.setLine_timeOnly _ _ _)
    · exact State.setLine_timeOnly _ _ _
  · exact (State.recallBank_timeOnly _ _ _).trans (State.recallBank_timeOnly _ _ _)

/-- The stores of an instruction claim their lines' tokens and their time, and that alone (R154, R161, R210). -/
theorem State.claim_timeOnly (s : State) (rd : Reader) (lns : List Nat) : s.TimeOnly (s.claim rd lns) :=
  (State.TimeOnly.foldl (fun s ln => (s.seesTries rd ln).claimTokens rd ln)
    (fun s ln => (State.seesTries_timeOnly s rd ln).trans (State.claimTokens_timeOnly _ rd ln)) _ _).trans (State.writeTimes_timeOnly _ _ _)

@[simp] theorem State.claim_mem (s : State) (rd : Reader) (lns : List Nat) : (s.claim rd lns).mem = s.mem := by
  obtain ⟨_, _, _, _, h⟩ := s.claim_timeOnly rd lns
  rw [h]
@[simp] theorem State.claim_cores (s : State) (rd : Reader) (lns : List Nat) : (s.claim rd lns).cores = s.cores := by
  obtain ⟨_, _, _, _, h⟩ := s.claim_timeOnly rd lns
  rw [h]
@[simp] theorem State.claim_tick (s : State) (rd : Reader) (lns : List Nat) : (s.claim rd lns).tick = s.tick := by
  obtain ⟨_, _, _, _, h⟩ := s.claim_timeOnly rd lns
  rw [h]
@[simp] theorem State.seesTries_mem (s : State) (rd : Reader) (ln : Nat) : (s.seesTries rd ln).mem = s.mem := by
  obtain ⟨_, _, _, _, h⟩ := s.seesTries_timeOnly rd ln
  rw [h]
@[simp] theorem State.touchAll_mem (s : State) (rd : Reader) (xs : List (Nat × Nat)) (n : Nat) :
    (s.touchAll rd xs n).mem = s.mem := by
  obtain ⟨_, _, _, _, h⟩ := State.touchAll_timeOnly rd xs n s
  rw [h]
@[simp] theorem State.touchAll_cores (s : State) (rd : Reader) (xs : List (Nat × Nat)) (n : Nat) :
    (s.touchAll rd xs n).cores = s.cores := by
  obtain ⟨_, _, _, _, h⟩ := State.touchAll_timeOnly rd xs n s
  rw [h]

/-- A store to claimed lines writes its bytes, and no other byte. -/
@[simp] theorem State.put_mem (s : State) (who : Writer) (attr : Option Bool) (key : Nat) (data : List Byte) :
    (s.put who attr key data).mem = spWrite 0 s.mem key data := by
  unfold State.put
  rw [State.poke_mem, foldl_keep (fun t : State => t.mem) (fun s ln => s.soil attr ln) (fun _ _ => rfl) _ s]

/-- So does a store by a unit of the device. -/
@[simp] theorem State.devStore_mem (s : State) (who : Writer) (t : Nat) (attr : Option Bool) (key : Nat) (data : List Byte) :
    (s.devStore who t attr key data).mem = spWrite 0 s.mem key data := by
  simp [State.devStore]

theorem correctWords_mem (s : State) (core : Nat) (ws : List RegWord) : (correctWords s core ws).mem = s.mem := by
  unfold correctWords
  split <;> rfl

/-- The loads of an instruction change no memory (R210). -/
@[simp] theorem touchLoads_mem (s : State) (rd : Reader) (ps : List Piece) : (touchLoads s rd ps).mem = s.mem := by
  unfold touchLoads
  simp only []
  rw [foldl_keep (fun t : State => t.mem) touchLoads.correctPiece (fun a b => ?_)]
  · simp only [State.touchAll_mem]
    exact foldl_keep (fun t : State => t.mem) (fun (t : State) ln => t.seesTries rd ln) (fun a b => State.seesTries_mem a rd b) _ s
  · unfold touchLoads.correctPiece
    split
    · split
      · exact correctWords_mem _ _ _
      · rfl
    · rfl

end Sys2Proof.Machine
end

