-- ==== Sys2Proof/Laws/Encoding.lean ====
section
/-!
SUPPORT. The fields of a word and the word of fields are inverse to each other (R12).
-/
namespace Sys2Proof

/-- A field that lies wholly in the low part of two bit vectors put together. -/
theorem extract_low {n m : Nat} (x : BitVec n) (y : BitVec m) (p k : Nat) (h : p + k ≤ m) :
    (x ++ y).extractLsb' p k = y.extractLsb' p k := by
  apply BitVec.eq_of_getLsbD_eq
  intro i hi
  simp only [BitVec.getLsbD_extractLsb', BitVec.getLsbD_append]
  rw [if_pos (by omega)]

/-- A field that lies wholly in the high part. -/
theorem extract_high {n m : Nat} (x : BitVec n) (y : BitVec m) (p k : Nat) (h : m ≤ p) :
    (x ++ y).extractLsb' p k = x.extractLsb' (p - m) k := by
  apply BitVec.eq_of_getLsbD_eq
  intro i hi
  simp only [BitVec.getLsbD_extractLsb', BitVec.getLsbD_append]
  rw [if_neg (by omega), show p + i - m = p - m + i by omega]

theorem extract_whole {n : Nat} (x : BitVec n) : x.extractLsb' 0 n = x := by
  apply BitVec.eq_of_getLsbD_eq
  intro i hi
  simp [hi]

theorem bit_low {n m : Nat} (x : BitVec n) (y : BitVec m) (p : Nat) (h : p < m) : (x ++ y).getLsbD p = y.getLsbD p := by
  rw [BitVec.getLsbD_append, if_pos h]
theorem bit_high {n m : Nat} (x : BitVec n) (y : BitVec m) (p : Nat) (h : m ≤ p) : (x ++ y).getLsbD p = x.getLsbD (p - m) := by
  rw [BitVec.getLsbD_append, if_neg (by omega)]

/-- The fields of the word of a byte and fields are those fields. -/
theorem unpack_pack (m : Nat) (f : Fields) : unpack (pack m f) = f := by
  cases f
  simp (disch := omega) only [unpack, pack, extract_low, extract_high, bit_low, bit_high]
  simp

/-- Its major opcode is the byte. -/
theorem majorOf_pack (m : Nat) (f : Fields) (h : m < 256) : majorOf (pack m f) = m := by
  simp (disch := omega) only [majorOf, pack, extract_high]
  simp
  omega

theorem bit_field {n : Nat} (w : BitVec n) (p : Nat) : BitVec.ofBool (w.getLsbD p) = w.extractLsb' p 1 := by
  apply BitVec.eq_of_getLsbD_eq
  intro i hi
  have : i = 0 := by omega
  subst this
  simp

/-- Two neighbouring fields put together are one field. -/
theorem extract_join {n : Nat} (w : BitVec n) (p a b q : Nat) (h : q = p + b) :
    w.extractLsb' q a ++ w.extractLsb' p b = w.extractLsb' p (a + b) := by
  subst h
  apply BitVec.eq_of_getLsbD_eq
  intro i hi
  rw [BitVec.getLsbD_append]
  simp only [BitVec.getLsbD_extractLsb']
  split
  · next l => simp [l, hi]
  · next l => rw [show p + b + (i - b) = p + i by omega]; simp [hi]; omega

/-- A word is that of its own major opcode and fields. -/
theorem pack_unpack (w : BitVec 96) : pack (majorOf w) (unpack w) = w := by
  simp only [pack, unpack, majorOf, BitVec.ofNat_toNat, BitVec.setWidth_eq, bit_field]
  rw [extract_join w 87 8 1 _ rfl, extract_join w 80 9 7 _ rfl, extract_join w 72 16 8 _ rfl, extract_join w 64 24 8 _ rfl, extract_join w 56 32 8 _ rfl, extract_join w 48 40 8 _ rfl, extract_join w 47 48 1 _ rfl, extract_join w 44 49 3 _ rfl, extract_join w 40 52 4 _ rfl, extract_join w 39 56 1 _ rfl, extract_join w 38 57 1 _ rfl, extract_join w 37 58 1 _ rfl, extract_join w 36 59 1 _ rfl, extract_join w 32 60 4 _ rfl, extract_join w 0 64 32 _ rfl]
  exact extract_whole w

end Sys2Proof
end

