-- ==== Sys2Proof/Laws/PerInstr.lean ====
section
/-!
SUPPORT. For every instruction, one lemma: its major opcode is a byte, and reading the fields of its word under that major
gives the instruction back (R12, R38, R39). A step of the device has no word, so the statement of it is empty.
-/
namespace Sys2Proof.Laws.Coding

/-- The decoder's table and the encoder's agree on an instruction. -/
def Statement (i : Instr) : Prop :=
  ∀ m f, i.major = some m → i.fields = some f → i.WellFormed → m < 256 ∧ Instr.ofMajor m f = .ok i

/-- A word that passes its check has a minor that its form accepts. -/
theorem minor_of_check (sh : Shape) (f : Fields) (h : sh.check f = none) : sh.minorOk = true := by
  unfold Shape.check at h
  split at h
  · exact nomatch h
  · split at h
    · exact nomatch h
    · next n => simpa using n

theorem nop (f : Fields) : Statement (.nop f) := by
  intro m g hm hg _; cases hm; cases hg; exact ⟨by decide, rfl⟩
theorem bra (f : Fields) : Statement (.bra f) := by
  intro m g hm hg _; cases hm; cases hg; exact ⟨by decide, rfl⟩
theorem brs (f : Fields) : Statement (.brs f) := by
  intro m g hm hg _; cases hm; cases hg; exact ⟨by decide, rfl⟩
theorem brv (f : Fields) : Statement (.brv f) := by
  intro m g hm hg _; cases hm; cases hg; exact ⟨by decide, rfl⟩
theorem jmpx (f : Fields) : Statement (.jmpx f) := by
  intro m g hm hg _; cases hm; cases hg; exact ⟨by decide, rfl⟩
theorem call (f : Fields) : Statement (.call f) := by
  intro m g hm hg _; cases hm; cases hg; exact ⟨by decide, rfl⟩
theorem callx (f : Fields) : Statement (.callx f) := by
  intro m g hm hg _; cases hm; cases hg; exact ⟨by decide, rfl⟩
theorem ret (f : Fields) : Statement (.ret f) := by
  intro m g hm hg _; cases hm; cases hg; exact ⟨by decide, rfl⟩
theorem rcvg (f : Fields) : Statement (.rcvg f) := by
  intro m g hm hg _; cases hm; cases hg; exact ⟨by decide, rfl⟩
theorem exit (f : Fields) : Statement (.exit f) := by
  intro m g hm hg _; cases hm; cases hg; exact ⟨by decide, rfl⟩
theorem yield (f : Fields) : Statement (.yield f) := by
  intro m g hm hg _; cases hm; cases hg; exact ⟨by decide, rfl⟩
theorem waitc (f : Fields) : Statement (.waitc f) := by
  intro m g hm hg _; cases hm; cases hg; exact ⟨by decide, rfl⟩
theorem trapf (f : Fields) : Statement (.trapf f) := by
  intro m g hm hg _; cases hm; cases hg; exact ⟨by decide, rfl⟩
theorem sysc (f : Fields) : Statement (.sysc f) := by
  intro m g hm hg _; cases hm; cases hg; exact ⟨by decide, rfl⟩
theorem bkpt (f : Fields) : Statement (.bkpt f) := by
  intro m g hm hg _; cases hm; cases hg; exact ⟨by decide, rfl⟩
theorem elect (f : Fields) : Statement (.elect f) := by
  intro m g hm hg _; cases hm; cases hg; exact ⟨by decide, rfl⟩
theorem loop (f : Fields) : Statement (.loop f) := by
  intro m g hm hg _; cases hm; cases hg; exact ⟨by decide, rfl⟩
theorem sget (f : Fields) : Statement (.sget f) := by
  intro m g hm hg _; cases hm; cases hg; exact ⟨by decide, rfl⟩
theorem sput (f : Fields) : Statement (.sput f) := by
  intro m g hm hg _; cases hm; cases hg; exact ⟨by decide, rfl⟩
theorem xacq (f : Fields) : Statement (.xacq f) := by
  intro m g hm hg _; cases hm; cases hg; exact ⟨by decide, rfl⟩
theorem xrel (f : Fields) : Statement (.xrel f) := by
  intro m g hm hg _; cases hm; cases hg; exact ⟨by decide, rfl⟩
theorem isync (f : Fields) : Statement (.isync f) := by
  intro m g hm hg _; cases hm; cases hg; exact ⟨by decide, rfl⟩
theorem kop (f : Fields) : Statement (.kop f) := by
  intro m g hm hg _; cases hm; cases hg; exact ⟨by decide, rfl⟩
theorem kpop (f : Fields) : Statement (.kpop f) := by
  intro m g hm hg _; cases hm; cases hg; exact ⟨by decide, rfl⟩
theorem kff1 (f : Fields) : Statement (.kff1 f) := by
  intro m g hm hg _; cases hm; cases hg; exact ⟨by decide, rfl⟩
theorem ktos (f : Fields) : Statement (.ktos f) := by
  intro m g hm hg _; cases hm; cases hg; exact ⟨by decide, rfl⟩
theorem stok (f : Fields) : Statement (.stok f) := by
  intro m g hm hg _; cases hm; cases hg; exact ⟨by decide, rfl⟩
theorem exmrd (f : Fields) : Statement (.exmrd f) := by
  intro m g hm hg _; cases hm; cases hg; exact ⟨by decide, rfl⟩
theorem exmwr (f : Fields) : Statement (.exmwr f) := by
  intro m g hm hg _; cases hm; cases hg; exact ⟨by decide, rfl⟩
theorem sadd (f : Fields) : Statement (.sadd f) := by
  intro m g hm hg _; cases hm; cases hg; exact ⟨by decide, rfl⟩
theorem ssub (f : Fields) : Statement (.ssub f) := by
  intro m g hm hg _; cases hm; cases hg; exact ⟨by decide, rfl⟩
theorem smul (f : Fields) : Statement (.smul f) := by
  intro m g hm hg _; cases hm; cases hg; exact ⟨by decide, rfl⟩
theorem smulh (f : Fields) : Statement (.smulh f) := by
  intro m g hm hg _; cases hm; cases hg; exact ⟨by decide, rfl⟩
theorem sdiv (f : Fields) : Statement (.sdiv f) := by
  intro m g hm hg _; cases hm; cases hg; exact ⟨by decide, rfl⟩
theorem srem (f : Fields) : Statement (.srem f) := by
  intro m g hm hg _; cases hm; cases hg; exact ⟨by decide, rfl⟩
theorem sand (f : Fields) : Statement (.sand f) := by
  intro m g hm hg _; cases hm; cases hg; exact ⟨by decide, rfl⟩
theorem sor (f : Fields) : Statement (.sor f) := by
  intro m g hm hg _; cases hm; cases hg; exact ⟨by decide, rfl⟩
theorem sxor (f : Fields) : Statement (.sxor f) := by
  intro m g hm hg _; cases hm; cases hg; exact ⟨by decide, rfl⟩
theorem sshl (f : Fields) : Statement (.sshl f) := by
  intro m g hm hg _; cases hm; cases hg; exact ⟨by decide, rfl⟩
theorem sshr (f : Fields) : Statement (.sshr f) := by
  intro m g hm hg _; cases hm; cases hg; exact ⟨by decide, rfl⟩
theorem ssra (f : Fields) : Statement (.ssra f) := by
  intro m g hm hg _; cases hm; cases hg; exact ⟨by decide, rfl⟩
theorem smin (f : Fields) : Statement (.smin f) := by
  intro m g hm hg _; cases hm; cases hg; exact ⟨by decide, rfl⟩
theorem smax (f : Fields) : Statement (.smax f) := by
  intro m g hm hg _; cases hm; cases hg; exact ⟨by decide, rfl⟩
theorem scmp (f : Fields) : Statement (.scmp f) := by
  intro m g hm hg _; cases hm; cases hg; exact ⟨by decide, rfl⟩
theorem ssel (f : Fields) : Statement (.ssel f) := by
  intro m g hm hg _; cases hm; cases hg; exact ⟨by decide, rfl⟩
theorem smov (f : Fields) : Statement (.smov f) := by
  intro m g hm hg _; cases hm; cases hg; exact ⟨by decide, rfl⟩
theorem sli (f : Fields) : Statement (.sli f) := by
  intro m g hm hg _; cases hm; cases hg; exact ⟨by decide, rfl⟩
theorem slea (f : Fields) : Statement (.slea f) := by
  intro m g hm hg _; cases hm; cases hg; exact ⟨by decide, rfl⟩
theorem sclz (f : Fields) : Statement (.sclz f) := by
  intro m g hm hg _; cases hm; cases hg; exact ⟨by decide, rfl⟩
theorem spop (f : Fields) : Statement (.spop f) := by
  intro m g hm hg _; cases hm; cases hg; exact ⟨by decide, rfl⟩
theorem sbfe (f : Fields) : Statement (.sbfe f) := by
  intro m g hm hg _; cases hm; cases hg; exact ⟨by decide, rfl⟩
theorem sbfi (f : Fields) : Statement (.sbfi f) := by
  intro m g hm hg _; cases hm; cases hg; exact ⟨by decide, rfl⟩
theorem sld (f : Fields) : Statement (.sld f) := by
  intro m g hm hg _; cases hm; cases hg; exact ⟨by decide, rfl⟩
theorem sst (f : Fields) : Statement (.sst f) := by
  intro m g hm hg _; cases hm; cases hg; exact ⟨by decide, rfl⟩
theorem vadd (f : Fields) : Statement (.vadd f) := by
  intro m g hm hg _; cases hm; cases hg; exact ⟨by decide, rfl⟩
theorem vsub (f : Fields) : Statement (.vsub f) := by
  intro m g hm hg _; cases hm; cases hg; exact ⟨by decide, rfl⟩
theorem vmul (f : Fields) : Statement (.vmul f) := by
  intro m g hm hg _; cases hm; cases hg; exact ⟨by decide, rfl⟩
theorem vmulh (f : Fields) : Statement (.vmulh f) := by
  intro m g hm hg _; cases hm; cases hg; exact ⟨by decide, rfl⟩
theorem vmad (f : Fields) : Statement (.vmad f) := by
  intro m g hm hg _; cases hm; cases hg; exact ⟨by decide, rfl⟩
theorem vand (f : Fields) : Statement (.vand f) := by
  intro m g hm hg _; cases hm; cases hg; exact ⟨by decide, rfl⟩
theorem vor (f : Fields) : Statement (.vor f) := by
  intro m g hm hg _; cases hm; cases hg; exact ⟨by decide, rfl⟩
theorem vxor (f : Fields) : Statement (.vxor f) := by
  intro m g hm hg _; cases hm; cases hg; exact ⟨by decide, rfl⟩
theorem vnot (f : Fields) : Statement (.vnot f) := by
  intro m g hm hg _; cases hm; cases hg; exact ⟨by decide, rfl⟩
theorem vshl (f : Fields) : Statement (.vshl f) := by
  intro m g hm hg _; cases hm; cases hg; exact ⟨by decide, rfl⟩
theorem vshr (f : Fields) : Statement (.vshr f) := by
  intro m g hm hg _; cases hm; cases hg; exact ⟨by decide, rfl⟩
theorem vsra (f : Fields) : Statement (.vsra f) := by
  intro m g hm hg _; cases hm; cases hg; exact ⟨by decide, rfl⟩
theorem vmin (f : Fields) : Statement (.vmin f) := by
  intro m g hm hg _; cases hm; cases hg; exact ⟨by decide, rfl⟩
theorem vmax (f : Fields) : Statement (.vmax f) := by
  intro m g hm hg _; cases hm; cases hg; exact ⟨by decide, rfl⟩
theorem vabs (f : Fields) : Statement (.vabs f) := by
  intro m g hm hg _; cases hm; cases hg; exact ⟨by decide, rfl⟩
theorem vneg (f : Fields) : Statement (.vneg f) := by
  intro m g hm hg _; cases hm; cases hg; exact ⟨by decide, rfl⟩
theorem vclz (f : Fields) : Statement (.vclz f) := by
  intro m g hm hg _; cases hm; cases hg; exact ⟨by decide, rfl⟩
theorem vpop (f : Fields) : Statement (.vpop f) := by
  intro m g hm hg _; cases hm; cases hg; exact ⟨by decide, rfl⟩
theorem vbrev (f : Fields) : Statement (.vbrev f) := by
  intro m g hm hg _; cases hm; cases hg; exact ⟨by decide, rfl⟩
theorem vbfe (f : Fields) : Statement (.vbfe f) := by
  intro m g hm hg _; cases hm; cases hg; exact ⟨by decide, rfl⟩
theorem vbfi (f : Fields) : Statement (.vbfi f) := by
  intro m g hm hg _; cases hm; cases hg; exact ⟨by decide, rfl⟩
theorem vsad (f : Fields) : Statement (.vsad f) := by
  intro m g hm hg _; cases hm; cases hg; exact ⟨by decide, rfl⟩
theorem vdot4 (f : Fields) : Statement (.vdot4 f) := by
  intro m g hm hg _; cases hm; cases hg; exact ⟨by decide, rfl⟩
theorem vcmp (f : Fields) : Statement (.vcmp f) := by
  intro m g hm hg _; cases hm; cases hg; exact ⟨by decide, rfl⟩
theorem vsel (f : Fields) : Statement (.vsel f) := by
  intro m g hm hg _; cases hm; cases hg; exact ⟨by decide, rfl⟩
theorem vmov (f : Fields) : Statement (.vmov f) := by
  intro m g hm hg _; cases hm; cases hg; exact ⟨by decide, rfl⟩
theorem vli (f : Fields) : Statement (.vli f) := by
  intro m g hm hg _; cases hm; cases hg; exact ⟨by decide, rfl⟩
theorem vlane (f : Fields) : Statement (.vlane f) := by
  intro m g hm hg _; cases hm; cases hg; exact ⟨by decide, rfl⟩
theorem vcvt (f : Fields) : Statement (.vcvt f) := by
  intro m g hm hg _; cases hm; cases hg; exact ⟨by decide, rfl⟩
theorem fadd (f : Fields) : Statement (.fadd f) := by
  intro m g hm hg _; cases hm; cases hg; exact ⟨by decide, rfl⟩
theorem fsub (f : Fields) : Statement (.fsub f) := by
  intro m g hm hg _; cases hm; cases hg; exact ⟨by decide, rfl⟩
theorem fmul (f : Fields) : Statement (.fmul f) := by
  intro m g hm hg _; cases hm; cases hg; exact ⟨by decide, rfl⟩
theorem ffma (f : Fields) : Statement (.ffma f) := by
  intro m g hm hg _; cases hm; cases hg; exact ⟨by decide, rfl⟩
theorem fmin (f : Fields) : Statement (.fmin f) := by
  intro m g hm hg _; cases hm; cases hg; exact ⟨by decide, rfl⟩
theorem fmax (f : Fields) : Statement (.fmax f) := by
  intro m g hm hg _; cases hm; cases hg; exact ⟨by decide, rfl⟩
theorem fabs (f : Fields) : Statement (.fabs f) := by
  intro m g hm hg _; cases hm; cases hg; exact ⟨by decide, rfl⟩
theorem fneg (f : Fields) : Statement (.fneg f) := by
  intro m g hm hg _; cases hm; cases hg; exact ⟨by decide, rfl⟩
theorem fcps (f : Fields) : Statement (.fcps f) := by
  intro m g hm hg _; cases hm; cases hg; exact ⟨by decide, rfl⟩
theorem fcmp (f : Fields) : Statement (.fcmp f) := by
  intro m g hm hg _; cases hm; cases hg; exact ⟨by decide, rfl⟩
theorem fclass (f : Fields) : Statement (.fclass f) := by
  intro m g hm hg _; cases hm; cases hg; exact ⟨by decide, rfl⟩
theorem frnd (f : Fields) : Statement (.frnd f) := by
  intro m g hm hg _; cases hm; cases hg; exact ⟨by decide, rfl⟩
theorem fcvt (f : Fields) : Statement (.fcvt f) := by
  intro m g hm hg _; cases hm; cases hg; exact ⟨by decide, rfl⟩
theorem fcvti (f : Fields) : Statement (.fcvti f) := by
  intro m g hm hg _; cases hm; cases hg; exact ⟨by decide, rfl⟩
theorem icvtf (f : Fields) : Statement (.icvtf f) := by
  intro m g hm hg _; cases hm; cases hg; exact ⟨by decide, rfl⟩
theorem fscale (f : Fields) : Statement (.fscale f) := by
  intro m g hm hg _; cases hm; cases hg; exact ⟨by decide, rfl⟩
theorem fdot2 (f : Fields) : Statement (.fdot2 f) := by
  intro m g hm hg _; cases hm; cases hg; exact ⟨by decide, rfl⟩
theorem rcp (f : Fields) : Statement (.rcp f) := by
  intro m g hm hg _; cases hm; cases hg; exact ⟨by decide, rfl⟩
theorem rsq (f : Fields) : Statement (.rsq f) := by
  intro m g hm hg _; cases hm; cases hg; exact ⟨by decide, rfl⟩
theorem sqrt (f : Fields) : Statement (.sqrt f) := by
  intro m g hm hg _; cases hm; cases hg; exact ⟨by decide, rfl⟩
theorem exp2 (f : Fields) : Statement (.exp2 f) := by
  intro m g hm hg _; cases hm; cases hg; exact ⟨by decide, rfl⟩
theorem log2 (f : Fields) : Statement (.log2 f) := by
  intro m g hm hg _; cases hm; cases hg; exact ⟨by decide, rfl⟩
theorem sinpi (f : Fields) : Statement (.sinpi f) := by
  intro m g hm hg _; cases hm; cases hg; exact ⟨by decide, rfl⟩
theorem cospi (f : Fields) : Statement (.cospi f) := by
  intro m g hm hg _; cases hm; cases hg; exact ⟨by decide, rfl⟩
theorem tanh (f : Fields) : Statement (.tanh f) := by
  intro m g hm hg _; cases hm; cases hg; exact ⟨by decide, rfl⟩
theorem rng (f : Fields) : Statement (.rng f) := by
  intro m g hm hg _; cases hm; cases hg; exact ⟨by decide, rfl⟩
theorem rngseed (f : Fields) : Statement (.rngseed f) := by
  intro m g hm hg _; cases hm; cases hg; exact ⟨by decide, rfl⟩
theorem decw (f : Fields) : Statement (.decw f) := by
  intro m g hm hg _; cases hm; cases hg; exact ⟨by decide, rfl⟩
theorem packw (f : Fields) : Statement (.packw f) := by
  intro m g hm hg _; cases hm; cases hg; exact ⟨by decide, rfl⟩
theorem shfl (f : Fields) : Statement (.shfl f) := by
  intro m g hm hg _; cases hm; cases hg; exact ⟨by decide, rfl⟩
theorem bcast (f : Fields) : Statement (.bcast f) := by
  intro m g hm hg _; cases hm; cases hg; exact ⟨by decide, rfl⟩
theorem vred (f : Fields) : Statement (.vred f) := by
  intro m g hm hg _; cases hm; cases hg; exact ⟨by decide, rfl⟩
theorem vscan (f : Fields) : Statement (.vscan f) := by
  intro m g hm hg _; cases hm; cases hg; exact ⟨by decide, rfl⟩
theorem vcmprs (f : Fields) : Statement (.vcmprs f) := by
  intro m g hm hg _; cases hm; cases hg; exact ⟨by decide, rfl⟩
theorem vexpnd (f : Fields) : Statement (.vexpnd f) := by
  intro m g hm hg _; cases hm; cases hg; exact ⟨by decide, rfl⟩
theorem ballot (f : Fields) : Statement (.ballot f) := by
  intro m g hm hg _; cases hm; cases hg; exact ⟨by decide, rfl⟩
theorem matchL (f : Fields) : Statement (.matchL f) := by
  intro m g hm hg _; cases hm; cases hg; exact ⟨by decide, rfl⟩
theorem ld (f : Fields) : Statement (.ld f) := by
  intro m g hm hg _; cases hm; cases hg; exact ⟨by decide, rfl⟩
theorem st (f : Fields) : Statement (.st f) := by
  intro m g hm hg _; cases hm; cases hg; exact ⟨by decide, rfl⟩
theorem gath (f : Fields) : Statement (.gath f) := by
  intro m g hm hg _; cases hm; cases hg; exact ⟨by decide, rfl⟩
theorem scat (f : Fields) : Statement (.scat f) := by
  intro m g hm hg _; cases hm; cases hg; exact ⟨by decide, rfl⟩
theorem ldb (f : Fields) : Statement (.ldb f) := by
  intro m g hm hg _; cases hm; cases hg; exact ⟨by decide, rfl⟩
theorem stb (f : Fields) : Statement (.stb f) := by
  intro m g hm hg _; cases hm; cases hg; exact ⟨by decide, rfl⟩
theorem atom (f : Fields) : Statement (.atom f) := by
  intro m g hm hg _; cases hm; cases hg; exact ⟨by decide, rfl⟩
theorem atomw (f : Fields) : Statement (.atomw f) := by
  intro m g hm hg _; cases hm; cases hg; exact ⟨by decide, rfl⟩
theorem stnt (f : Fields) : Statement (.stnt f) := by
  intro m g hm hg _; cases hm; cases hg; exact ⟨by decide, rfl⟩
theorem stntPerform (core slot idx : Nat) : Statement (.stntPerform core slot idx) := fun _ _ h => nomatch h
theorem drainnt (f : Fields) : Statement (.drainnt f) := by
  intro m g hm hg _; cases hm; cases hg; exact ⟨by decide, rfl⟩
theorem fenceCode (f : Fields) : Statement (.fenceCode f) := by
  intro m g hm hg h; cases hm; cases hg
  have e : mv f = 0 := of_decide_eq_true (minor_of_check _ f h)
  refine ⟨by decide, ?_⟩
  show (if mv f = 0 then .ok (.fenceCode f) else if mv f = 1 then .ok (.fenceIo f) else if mv f = 2 then .ok (.fenceEng f) else .error .minor : Except Reject Instr) = _
  rw [if_pos e]
theorem fenceIo (f : Fields) : Statement (.fenceIo f) := by
  intro m g hm hg h; cases hm; cases hg
  have e : mv f = 1 := of_decide_eq_true (minor_of_check _ f h)
  refine ⟨by decide, ?_⟩
  show (if mv f = 0 then .ok (.fenceCode f) else if mv f = 1 then .ok (.fenceIo f) else if mv f = 2 then .ok (.fenceEng f) else .error .minor : Except Reject Instr) = _
  rw [if_neg (by omega), if_pos e]
theorem fenceEng (f : Fields) : Statement (.fenceEng f) := by
  intro m g hm hg h; cases hm; cases hg
  have e : mv f = 2 := of_decide_eq_true (minor_of_check _ f h)
  refine ⟨by decide, ?_⟩
  show (if mv f = 0 then .ok (.fenceCode f) else if mv f = 1 then .ok (.fenceIo f) else if mv f = 2 then .ok (.fenceEng f) else .error .minor : Except Reject Instr) = _
  rw [if_neg (by omega), if_neg (by omega), if_pos e]
theorem ldfe (f : Fields) : Statement (.ldfe f) := by
  intro m g hm hg _; cases hm; cases hg; exact ⟨by decide, rfl⟩
theorem stfe (f : Fields) : Statement (.stfe f) := by
  intro m g hm hg _; cases hm; cases hg; exact ⟨by decide, rfl⟩
theorem pft (f : Fields) : Statement (.pft f) := by
  intro m g hm hg _; cases hm; cases hg; exact ⟨by decide, rfl⟩
theorem cflush (f : Fields) : Statement (.cflush f) := by
  intro m g hm hg _; cases hm; cases hg; exact ⟨by decide, rfl⟩
theorem iflush (f : Fields) : Statement (.iflush f) := by
  intro m g hm hg _; cases hm; cases hg; exact ⟨by decide, rfl⟩
theorem llock (f : Fields) : Statement (.llock f) := by
  intro m g hm hg _; cases hm; cases hg; exact ⟨by decide, rfl⟩
theorem lunlk (f : Fields) : Statement (.lunlk f) := by
  intro m g hm hg _; cases hm; cases hg; exact ⟨by decide, rfl⟩
theorem lnclaim (f : Fields) : Statement (.lnclaim f) := by
  intro m g hm hg _; cases hm; cases hg; exact ⟨by decide, rfl⟩
theorem binit (f : Fields) : Statement (.binit f) := by
  intro m g hm hg _; cases hm; cases hg; exact ⟨by decide, rfl⟩
theorem barv (f : Fields) : Statement (.barv f) := by
  intro m g hm hg _; cases hm; cases hg; exact ⟨by decide, rfl⟩
theorem bexp (f : Fields) : Statement (.bexp f) := by
  intro m g hm hg _; cases hm; cases hg; exact ⟨by decide, rfl⟩
theorem bwait (f : Fields) : Statement (.bwait f) := by
  intro m g hm hg _; cases hm; cases hg; exact ⟨by decide, rfl⟩
theorem btest (f : Fields) : Statement (.btest f) := by
  intro m g hm hg _; cases hm; cases hg; exact ⟨by decide, rfl⟩
theorem bdrop (f : Fields) : Statement (.bdrop f) := by
  intro m g hm hg _; cases hm; cases hg; exact ⟨by decide, rfl⟩
theorem seqw (f : Fields) : Statement (.seqw f) := by
  intro m g hm hg _; cases hm; cases hg; exact ⟨by decide, rfl⟩
theorem grpsync (f : Fields) : Statement (.grpsync f) := by
  intro m g hm hg _; cases hm; cases hg; exact ⟨by decide, rfl⟩
theorem spawn (f : Fields) : Statement (.spawn f) := by
  intro m g hm hg _; cases hm; cases hg; exact ⟨by decide, rfl⟩
theorem watch (f : Fields) : Statement (.watch f) := by
  intro m g hm hg _; cases hm; cases hg; exact ⟨by decide, rfl⟩
theorem unwatch (f : Fields) : Statement (.unwatch f) := by
  intro m g hm hg _; cases hm; cases hg; exact ⟨by decide, rfl⟩
theorem iter (f : Fields) : Statement (.iter f) := by
  intro m g hm hg _; cases hm; cases hg; exact ⟨by decide, rfl⟩
theorem rqpush (f : Fields) : Statement (.rqpush f) := by
  intro m g hm hg _; cases hm; cases hg; exact ⟨by decide, rfl⟩
theorem mrsv (f : Fields) : Statement (.mrsv f) := by
  intro m g hm hg _; cases hm; cases hg; exact ⟨by decide, rfl⟩
theorem mfree (f : Fields) : Statement (.mfree f) := by
  intro m g hm hg _; cases hm; cases hg; exact ⟨by decide, rfl⟩
theorem mzero (f : Fields) : Statement (.mzero f) := by
  intro m g hm hg _; cases hm; cases hg; exact ⟨by decide, rfl⟩
theorem mldD (f : Fields) : Statement (.mldD f) := by
  intro m g hm hg h; cases hm; cases hg
  have k := minor_of_check _ f h
  have e : ¬ bitAt (mv f) 0 = true := by
    intro n
    have := List.all_eq_true.1 k 0 (by decide)
    rw [n] at this
    exact absurd this (by decide)
  refine ⟨by decide, ?_⟩
  show (if bitAt (mv f) 0 then .ok (.mldF f) else .ok (.mldD f) : Except Reject Instr) = _
  rw [if_neg e]
theorem mldF (f : Fields) : Statement (.mldF f) := by
  intro m g hm hg h; cases hm; cases hg
  have k := minor_of_check _ f h
  have e : bitAt (mv f) 0 = true := (Bool.and_eq_true_iff.1 k).1
  refine ⟨by decide, ?_⟩
  show (if bitAt (mv f) 0 then .ok (.mldF f) else .ok (.mldD f) : Except Reject Instr) = _
  rw [if_pos e]
theorem mstD (f : Fields) : Statement (.mstD f) := by
  intro m g hm hg h; cases hm; cases hg
  have k := minor_of_check _ f h
  have e : ¬ bitAt (mv f) 0 = true := by
    intro n
    have := List.all_eq_true.1 k 0 (by decide)
    rw [n] at this
    exact absurd this (by decide)
  refine ⟨by decide, ?_⟩
  show (if bitAt (mv f) 0 then .ok (.mstF f) else .ok (.mstD f) : Except Reject Instr) = _
  rw [if_neg e]
theorem mstF (f : Fields) : Statement (.mstF f) := by
  intro m g hm hg h; cases hm; cases hg
  have k := minor_of_check _ f h
  have e : bitAt (mv f) 0 = true := (Bool.and_eq_true_iff.1 k).1
  refine ⟨by decide, ?_⟩
  show (if bitAt (mv f) 0 then .ok (.mstF f) else .ok (.mstD f) : Except Reject Instr) = _
  rw [if_pos e]
theorem mma (f : Fields) : Statement (.mma f) := by
  intro m g hm hg _; cases hm; cases hg; exact ⟨by decide, rfl⟩
theorem maddf (f : Fields) : Statement (.maddf f) := by
  intro m g hm hg _; cases hm; cases hg; exact ⟨by decide, rfl⟩
theorem maddm (f : Fields) : Statement (.maddm f) := by
  intro m g hm hg _; cases hm; cases hg; exact ⟨by decide, rfl⟩
theorem mmulf (f : Fields) : Statement (.mmulf f) := by
  intro m g hm hg _; cases hm; cases hg; exact ⟨by decide, rfl⟩
theorem mrcmp (f : Fields) : Statement (.mrcmp f) := by
  intro m g hm hg _; cases hm; cases hg; exact ⟨by decide, rfl⟩
theorem mdns (f : Fields) : Statement (.mdns f) := by
  intro m g hm hg _; cases hm; cases hg; exact ⟨by decide, rfl⟩
theorem mrank (f : Fields) : Statement (.mrank f) := by
  intro m g hm hg h; cases hm; cases hg
  have e : ¬ bitAt (mv f) 0 = true := by rw [show mv f = 0 from of_decide_eq_true (minor_of_check _ f h)]; decide
  refine ⟨by decide, ?_⟩
  show (if bitAt (mv f) 0 then .ok (.mrankErr f) else .ok (.mrank f) : Except Reject Instr) = _
  rw [if_neg e]
theorem mrankErr (f : Fields) : Statement (.mrankErr f) := by
  intro m g hm hg h; cases hm; cases hg
  have e : bitAt (mv f) 0 = true := by rw [show mv f = 1 from of_decide_eq_true (minor_of_check _ f h)]; rfl
  refine ⟨by decide, ?_⟩
  show (if bitAt (mv f) 0 then .ok (.mrankErr f) else .ok (.mrank f) : Except Reject Instr) = _
  rw [if_pos e]
theorem mrowp (f : Fields) : Statement (.mrowp f) := by
  intro m g hm hg h; cases hm; cases hg
  have e : ¬ bitAt (mv f) 0 = true := by rw [show mv f = 0 from of_decide_eq_true (minor_of_check _ f h)]; decide
  refine ⟨by decide, ?_⟩
  show (if bitAt (mv f) 0 then .ok (.mrowpSet f) else .ok (.mrowp f) : Except Reject Instr) = _
  rw [if_neg e]
theorem mrowpSet (f : Fields) : Statement (.mrowpSet f) := by
  intro m g hm hg h; cases hm; cases hg
  have e : bitAt (mv f) 0 = true := by rw [show mv f = 1 from of_decide_eq_true (minor_of_check _ f h)]; rfl
  refine ⟨by decide, ?_⟩
  show (if bitAt (mv f) 0 then .ok (.mrowpSet f) else .ok (.mrowp f) : Except Reject Instr) = _
  rw [if_pos e]
theorem mscl (f : Fields) : Statement (.mscl f) := by
  intro m g hm hg _; cases hm; cases hg; exact ⟨by decide, rfl⟩
theorem mmovv (f : Fields) : Statement (.mmovv f) := by
  intro m g hm hg _; cases hm; cases hg; exact ⟨by decide, rfl⟩
theorem mmovm (f : Fields) : Statement (.mmovm f) := by
  intro m g hm hg _; cases hm; cases hg; exact ⟨by decide, rfl⟩
theorem matrixOpStart (core : Nat) : Statement (.matrixOpStart core) := fun _ _ h => nomatch h
theorem matrixOpComplete (core : Nat) : Statement (.matrixOpComplete core) := fun _ _ h => nomatch h
theorem operandsConsumed (core : Nat) : Statement (.operandsConsumed core) := fun _ _ h => nomatch h
theorem matrixOpStop (core : Nat) : Statement (.matrixOpStop core) := fun _ _ h => nomatch h
theorem matrixErrorCompletion (core : Nat) : Statement (.matrixErrorCompletion core) := fun _ _ h => nomatch h
theorem hld (f : Fields) : Statement (.hld f) := by
  intro m g hm hg _; cases hm; cases hg; exact ⟨by decide, rfl⟩
theorem hstat (f : Fields) : Statement (.hstat f) := by
  intro m g hm hg _; cases hm; cases hg; exact ⟨by decide, rfl⟩
theorem fopen (f : Fields) : Statement (.fopen f) := by
  intro m g hm hg _; cases hm; cases hg; exact ⟨by decide, rfl⟩
theorem fseal (f : Fields) : Statement (.fseal f) := by
  intro m g hm hg _; cases hm; cases hg; exact ⟨by decide, rfl⟩
theorem fcomp (f : Fields) : Statement (.fcomp f) := by
  intro m g hm hg _; cases hm; cases hg; exact ⟨by decide, rfl⟩
theorem fret (f : Fields) : Statement (.fret f) := by
  intro m g hm hg _; cases hm; cases hg; exact ⟨by decide, rfl⟩
theorem trace (f : Fields) : Statement (.trace f) := by
  intro m g hm hg _; cases hm; cases hg; exact ⟨by decide, rfl⟩
theorem pair (f : Fields) : Statement (.pair f) := by
  intro m g hm hg _; cases hm; cases hg; exact ⟨by decide, rfl⟩
theorem pairx (f : Fields) : Statement (.pairx f) := by
  intro m g hm hg _; cases hm; cases hg; exact ⟨by decide, rfl⟩
theorem pairOperationRun (core slot idx : Nat) : Statement (.pairOperationRun core slot idx) := fun _ _ h => nomatch h
theorem pairOperationComplete (core slot idx : Nat) : Statement (.pairOperationComplete core slot idx) := fun _ _ h => nomatch h
theorem pairOperationStop (core slot idx : Nat) : Statement (.pairOperationStop core slot idx) := fun _ _ h => nomatch h
theorem cover (f : Fields) : Statement (.cover f) := by
  intro m g hm hg _; cases hm; cases hg; exact ⟨by decide, rfl⟩
theorem ztst (f : Fields) : Statement (.ztst f) := by
  intro m g hm hg _; cases hm; cases hg; exact ⟨by decide, rfl⟩
theorem ordwWait (f : Fields) : Statement (.ordwWait f) := by
  intro m g hm hg h; cases hm; cases hg
  have e : mv f = 0 := of_decide_eq_true (minor_of_check _ f h)
  refine ⟨by decide, ?_⟩
  show (if mv f = 0 then .ok (.ordwWait f) else if mv f = 1 then .ok (.ordwAdv f) else .error .minor : Except Reject Instr) = _
  rw [if_pos e]
theorem ordwAdv (f : Fields) : Statement (.ordwAdv f) := by
  intro m g hm hg h; cases hm; cases hg
  have e : mv f = 1 := of_decide_eq_true (minor_of_check _ f h)
  refine ⟨by decide, ?_⟩
  show (if mv f = 0 then .ok (.ordwWait f) else if mv f = 1 then .ok (.ordwAdv f) else .error .minor : Except Reject Instr) = _
  rw [if_neg (by omega), if_pos e]
theorem tlacq (f : Fields) : Statement (.tlacq f) := by
  intro m g hm hg _; cases hm; cases hg; exact ⟨by decide, rfl⟩
theorem tlrel (f : Fields) : Statement (.tlrel f) := by
  intro m g hm hg _; cases hm; cases hg; exact ⟨by decide, rfl⟩
theorem segld (f : Fields) : Statement (.segld f) := by
  intro m g hm hg h; cases hm; cases hg
  have e : mv f = 0 := of_decide_eq_true (minor_of_check _ f h)
  refine ⟨by decide, ?_⟩
  show (if mv f = 0 then .ok (.segld f) else if mv f = 1 then .ok (.segldW f) else .error .minor : Except Reject Instr) = _
  rw [if_pos e]
theorem segldW (f : Fields) : Statement (.segldW f) := by
  intro m g hm hg h; cases hm; cases hg
  have e : mv f = 1 := of_decide_eq_true (minor_of_check _ f h)
  refine ⟨by decide, ?_⟩
  show (if mv f = 0 then .ok (.segld f) else if mv f = 1 then .ok (.segldW f) else .error .minor : Except Reject Instr) = _
  rw [if_neg (by omega), if_pos e]
theorem tlbinvAll (f : Fields) : Statement (.tlbinvAll f) := by
  intro m g hm hg h; cases hm; cases hg
  have e : mv f = 0 := of_decide_eq_true (minor_of_check _ f h)
  refine ⟨by decide, ?_⟩
  show (if mv f = 0 then .ok (.tlbinvAll f) else if mv f = 1 then .ok (.tlbinvCtx f) else if mv f = 2 then .ok (.tlbinvPage f) else if mv f = 3 then .ok (.tlbinvRange f) else .error .minor : Except Reject Instr) = _
  rw [if_pos e]
theorem tlbinvCtx (f : Fields) : Statement (.tlbinvCtx f) := by
  intro m g hm hg h; cases hm; cases hg
  have e : mv f = 1 := of_decide_eq_true (minor_of_check _ f h)
  refine ⟨by decide, ?_⟩
  show (if mv f = 0 then .ok (.tlbinvAll f) else if mv f = 1 then .ok (.tlbinvCtx f) else if mv f = 2 then .ok (.tlbinvPage f) else if mv f = 3 then .ok (.tlbinvRange f) else .error .minor : Except Reject Instr) = _
  rw [if_neg (by omega), if_pos e]
theorem tlbinvPage (f : Fields) : Statement (.tlbinvPage f) := by
  intro m g hm hg h; cases hm; cases hg
  have e : mv f = 2 := of_decide_eq_true (minor_of_check _ f h)
  refine ⟨by decide, ?_⟩
  show (if mv f = 0 then .ok (.tlbinvAll f) else if mv f = 1 then .ok (.tlbinvCtx f) else if mv f = 2 then .ok (.tlbinvPage f) else if mv f = 3 then .ok (.tlbinvRange f) else .error .minor : Except Reject Instr) = _
  rw [if_neg (by omega), if_neg (by omega), if_pos e]
theorem tlbinvRange (f : Fields) : Statement (.tlbinvRange f) := by
  intro m g hm hg h; cases hm; cases hg
  have e : mv f = 3 := of_decide_eq_true (minor_of_check _ f h)
  refine ⟨by decide, ?_⟩
  show (if mv f = 0 then .ok (.tlbinvAll f) else if mv f = 1 then .ok (.tlbinvCtx f) else if mv f = 2 then .ok (.tlbinvPage f) else if mv f = 3 then .ok (.tlbinvRange f) else .error .minor : Except Reject Instr) = _
  rw [if_neg (by omega), if_neg (by omega), if_neg (by omega), if_pos e]
theorem wresume (f : Fields) : Statement (.wresume f) := by
  intro m g hm hg _; cases hm; cases hg; exact ⟨by decide, rfl⟩
theorem wkill (f : Fields) : Statement (.wkill f) := by
  intro m g hm hg h; cases hm; cases hg
  have e : mv f = 0 := of_decide_eq_true (minor_of_check _ f h)
  refine ⟨by decide, ?_⟩
  show (if mv f = 0 then .ok (.wkill f) else if mv f = 1 then .ok (.wkillCtx f) else .error .minor : Except Reject Instr) = _
  rw [if_pos e]
theorem wkillCtx (f : Fields) : Statement (.wkillCtx f) := by
  intro m g hm hg h; cases hm; cases hg
  have e : mv f = 1 := of_decide_eq_true (minor_of_check _ f h)
  refine ⟨by decide, ?_⟩
  show (if mv f = 0 then .ok (.wkill f) else if mv f = 1 then .ok (.wkillCtx f) else .error .minor : Except Reject Instr) = _
  rw [if_neg (by omega), if_pos e]
theorem frqack (f : Fields) : Statement (.frqack f) := by
  intro m g hm hg _; cases hm; cases hg; exact ⟨by decide, rfl⟩
theorem cfgrd (f : Fields) : Statement (.cfgrd f) := by
  intro m g hm hg _; cases hm; cases hg; exact ⟨by decide, rfl⟩
theorem cfgwr (f : Fields) : Statement (.cfgwr f) := by
  intro m g hm hg _; cases hm; cases hg; exact ⟨by decide, rfl⟩
theorem ctxsave (f : Fields) : Statement (.ctxsave f) := by
  intro m g hm hg h; cases hm; cases hg
  have e : mv f = 0 := of_decide_eq_true (minor_of_check _ f h)
  refine ⟨by decide, ?_⟩
  show (if mv f = 0 then .ok (.ctxsave f) else if mv f = 1 then .ok (.ctxsaveCtx f) else .error .minor : Except Reject Instr) = _
  rw [if_pos e]
theorem ctxsaveCtx (f : Fields) : Statement (.ctxsaveCtx f) := by
  intro m g hm hg h; cases hm; cases hg
  have e : mv f = 1 := of_decide_eq_true (minor_of_check _ f h)
  refine ⟨by decide, ?_⟩
  show (if mv f = 0 then .ok (.ctxsave f) else if mv f = 1 then .ok (.ctxsaveCtx f) else .error .minor : Except Reject Instr) = _
  rw [if_neg (by omega), if_pos e]
theorem haltc (f : Fields) : Statement (.haltc f) := by
  intro m g hm hg h; cases hm; cases hg
  have e : mv f = 0 := of_decide_eq_true (minor_of_check _ f h)
  refine ⟨by decide, ?_⟩
  show (if mv f = 0 then .ok (.haltc f) else if mv f = 1 then .ok (.haltcGo f) else .error .minor : Except Reject Instr) = _
  rw [if_pos e]
theorem haltcGo (f : Fields) : Statement (.haltcGo f) := by
  intro m g hm hg h; cases hm; cases hg
  have e : mv f = 1 := of_decide_eq_true (minor_of_check _ f h)
  refine ⟨by decide, ?_⟩
  show (if mv f = 0 then .ok (.haltc f) else if mv f = 1 then .ok (.haltcGo f) else .error .minor : Except Reject Instr) = _
  rw [if_neg (by omega), if_pos e]
theorem lineFetch (core quarter cslot va : Nat) : Statement (.lineFetch core quarter cslot va) := fun _ _ h => nomatch h
theorem faultRecordPost (core idx : Nat) : Statement (.faultRecordPost core idx) := fun _ _ h => nomatch h
theorem feedbackUpdate (core slot idx : Nat) : Statement (.feedbackUpdate core slot idx) := fun _ _ h => nomatch h
theorem readRequest (core line : Nat) : Statement (.readRequest core line) := fun _ _ h => nomatch h
theorem readReply (core line : Nat) : Statement (.readReply core line) := fun _ _ h => nomatch h
theorem forwardedRead (core line : Nat) : Statement (.forwardedRead core line) := fun _ _ h => nomatch h
theorem writeRequest (core line : Nat) : Statement (.writeRequest core line) := fun _ _ h => nomatch h
theorem writeReply (core line : Nat) : Statement (.writeReply core line) := fun _ _ h => nomatch h
theorem eviction (core line : Nat) : Statement (.eviction core line) := fun _ _ h => nomatch h
theorem transientTimeout (core line : Nat) : Statement (.transientTimeout core line) := fun _ _ h => nomatch h
theorem persistentRequest (core line : Nat) : Statement (.persistentRequest core line) := fun _ _ h => nomatch h
theorem persistentRequestEnd (core line : Nat) : Statement (.persistentRequestEnd core line) := fun _ _ h => nomatch h
theorem leaseRead (agent : Agent) (line cls : Nat) : Statement (.leaseRead agent line cls) := fun _ _ h => nomatch h
theorem leaseStore (agent : Agent) (addr : Nat) (data : List Byte) : Statement (.leaseStore agent addr data) := fun _ _ h => nomatch h
theorem ownershipRequest (agent : Agent) (line : Nat) : Statement (.ownershipRequest agent line) := fun _ _ h => nomatch h
theorem lineReturn (agent : Agent) (line wts : Nat) (data : List Byte) : Statement (.lineReturn agent line wts data) := fun _ _ h => nomatch h
theorem outsideLeaseExpiry (line : Nat) : Statement (.outsideLeaseExpiry line) := fun _ _ h => nomatch h
theorem timeReport (agent : Agent) (time : Nat) : Statement (.timeReport agent time) := fun _ _ h => nomatch h
theorem timeReportTimeout (agent : Agent) : Statement (.timeReportTimeout agent) := fun _ _ h => nomatch h
theorem timeLostExpiry (agent : Agent) : Statement (.timeLostExpiry agent) := fun _ _ h => nomatch h
theorem amnesty (agent : Agent) : Statement (.amnesty agent) := fun _ _ h => nomatch h
theorem writeBack (line : Nat) : Statement (.writeBack line) := fun _ _ h => nomatch h
theorem mergePath (block : Nat) : Statement (.mergePath block) := fun _ _ h => nomatch h
theorem uncorrectableSoftError (place : ErrorPlace) (line : Nat) : Statement (.uncorrectableSoftError place line) := fun _ _ h => nomatch h
theorem scrub (core : Nat) (word : RegWord) : Statement (.scrub core word) := fun _ _ h => nomatch h
theorem engineCommandStart (comb : Nat) : Statement (.engineCommandStart comb) := fun _ _ h => nomatch h
theorem engineCommandComplete (comb : Nat) : Statement (.engineCommandComplete comb) := fun _ _ h => nomatch h
theorem engineErrorCompletion (comb : Nat) : Statement (.engineErrorCompletion comb) := fun _ _ h => nomatch h
theorem engineCommandCancel (comb : Nat) : Statement (.engineCommandCancel comb) := fun _ _ h => nomatch h
theorem orphanedWaitTimeout (core slot entry : Nat) : Statement (.orphanedWaitTimeout core slot entry) := fun _ _ h => nomatch h
theorem launchTake (cslot queue : Nat) : Statement (.launchTake cslot queue) := fun _ _ h => nomatch h
theorem workgroupPlacement (cslot queue : Nat) : Statement (.workgroupPlacement cslot queue) := fun _ _ h => nomatch h
theorem taskStart (cslot idx : Nat) : Statement (.taskStart cslot idx) := fun _ _ h => nomatch h
theorem consumerDispatch (idx : Nat) : Statement (.consumerDispatch idx) := fun _ _ h => nomatch h
theorem evictionSave (wg : Nat) (warp : Option Nat) : Statement (.evictionSave wg warp) := fun _ _ h => nomatch h
theorem restore (image core : Nat) : Statement (.restore image core) := fun _ _ h => nomatch h
theorem warpEnd (core slot : Nat) : Statement (.warpEnd core slot) := fun _ _ h => nomatch h
theorem workgroupEnd (wg : Nat) : Statement (.workgroupEnd wg) := fun _ _ h => nomatch h
theorem launchEnd (launch : Nat) : Statement (.launchEnd launch) := fun _ _ h => nomatch h
theorem priorityAging (tower : Nat) : Statement (.priorityAging tower) := fun _ _ h => nomatch h
theorem troleKtarget (tower k : Nat) (clearErr : Bool) : Statement (.troleKtarget tower k clearErr) := fun _ _ h => nomatch h
theorem troleDmask (tower mask : Nat) : Statement (.troleDmask tower mask) := fun _ _ h => nomatch h
theorem troleErrClear (tower : Nat) : Statement (.troleErrClear tower) := fun _ _ h => nomatch h
theorem roleChange (tower : Nat) : Statement (.roleChange tower) := fun _ _ h => nomatch h
theorem qctlWrite (cslot queue : Nat) (val : W64) : Statement (.qctlWrite cslot queue val) := fun _ _ h => nomatch h
theorem qctlErrClear (cslot queue : Nat) : Statement (.qctlErrClear cslot queue) := fun _ _ h => nomatch h
theorem qtailWrite (host : Bool) (cslot queue : Nat) (val : W32) : Statement (.qtailWrite host cslot queue val) := fun _ _ h => nomatch h
theorem llenWrite (tower cls : Nat) (val : W32) : Statement (.llenWrite tower cls val) := fun _ _ h => nomatch h
theorem mcoinrWrite (tower : Nat) (val : W32) : Statement (.mcoinrWrite tower val) := fun _ _ h => nomatch h
theorem xplimWrite (core : Nat) (val : W32) : Statement (.xplimWrite core val) := fun _ _ h => nomatch h
theorem ecbaseWrite (comb : Nat) (val : W64) : Statement (.ecbaseWrite comb val) := fun _ _ h => nomatch h
theorem ecsizeWrite (comb : Nat) (val : W32) : Statement (.ecsizeWrite comb val) := fun _ _ h => nomatch h
theorem monitorClear (m : Nat) : Statement (.monitorClear m) := fun _ _ h => nomatch h
theorem monitorSample (m val : Nat) : Statement (.monitorSample m val) := fun _ _ h => nomatch h
theorem registerWrite (writer : MmioWriter) (offset size : Nat) (val : W64) : Statement (.registerWrite writer offset size val) := fun _ _ h => nomatch h
theorem coldStart (k0 k1 time : Nat) : Statement (.coldStart k0 k1 time) := fun _ _ h => nomatch h
theorem warmStart (time : Nat) (checkFails : Bool) : Statement (.warmStart time checkFails) := fun _ _ h => nomatch h
theorem lifecycleChange (signed : Bool) (state : Nat) : Statement (.lifecycleChange signed state) := fun _ _ h => nomatch h
theorem quote (nonce : Nat) : Statement (.quote nonce) := fun _ _ h => nomatch h
theorem powerLoss : Statement (.powerLoss) := fun _ _ h => nomatch h
theorem hostMemoryAccess (addr : HostAddr) (len : Nat) (data : Option (List Byte)) : Statement (.hostMemoryAccess addr len data) := fun _ _ h => nomatch h
theorem flitReceive (port : Nat) (seq : FlitHead) (crcOk : Bool) : Statement (.flitReceive port seq crcOk) := fun _ _ h => nomatch h
theorem portDown (port : Nat) : Statement (.portDown port) := fun _ _ h => nomatch h
theorem linkTimeMessage (peer : Nat) (time : LinkTime) : Statement (.linkTimeMessage peer time) := fun _ _ h => nomatch h
theorem ptmSync (time : Nat) : Statement (.ptmSync time) := fun _ _ h => nomatch h
theorem thermalSample (tower : Nat) (temps : List Int) : Statement (.thermalSample tower temps) := fun _ _ h => nomatch h
theorem purseRefill (tower : Nat) : Statement (.purseRefill tower) := fun _ _ h => nomatch h
theorem hostLinkLoss : Statement (.hostLinkLoss) := fun _ _ h => nomatch h
theorem hostLinkReturn (time : Nat) : Statement (.hostLinkReturn time) := fun _ _ h => nomatch h
theorem registerSoftError (core : Nat) (word : RegWord) (double : Bool) : Statement (.registerSoftError core word double) := fun _ _ h => nomatch h
theorem managementClusterAccess (addr len : Nat) (data : Option (List Byte)) : Statement (.managementClusterAccess addr len data) := fun _ _ h => nomatch h
theorem timeReportSend (agent : Agent) : Statement (.timeReportSend agent) := fun _ _ h => nomatch h

end Sys2Proof.Laws.Coding

theorem Sys2Proof.Laws.Coding.recall (tower line : Nat) : Sys2Proof.Laws.Coding.Statement (.recall tower line) :=
  fun _ _ h => nomatch h
end

