-- ==== Sys2Proof/Safety.lean ====
section
/-!
DEFINITION. What a safe run is: one in which no step ends in a fault of the model or in a refusal.
-/
namespace Sys2Proof.Machine

/-- The state after `n` steps, when none of them stopped. -/
def runSteps : Nat → State → Option State
  | 0, s => some s
  | n + 1, s =>
    match step s with
    | .next s' => runSteps n s'
    | .fault _ => none
    | .refused _ => none

/-- A run that no fault and no refusal ends. -/
def SafeRun (s : State) : Prop := ∀ n, (runSteps n s).isSome

end Sys2Proof.Machine
end

