-- ==== Sys2Proof/Tests/Slice0.lean ====
section
/-!
SUPPORT. Small tests: words written out from the spec, an ill-formed term for each check of a word, worked cases of the spec,
and, for every statement, operands and a state that meet its hypotheses.
-/
namespace Sys2Proof.Tests
open Sys2Proof Sys2Proof.Machine Sys2Proof.Claims

set_option Elab.async false
set_option maxRecDepth 100000

/-! ### Small states -/

/-- A warp of sixteen lanes on one fragment, at PC 0x100000, with supervisor context 0. -/
def w0 : Warp := freshWarp 1 0 0 0 0 0 16 0x100000
/-- Cores without slots, which are quicker to look through. -/
def bare : List Core := List.replicate 96 { slots := [] }
def pad : List Core := List.replicate 159 { slots := [] }
/-- A core that holds one warp. -/
def coreOf (w : Warp) : Core := { slots := [some w, none] }
/-- A state in which that core is core 96, the context is a live supervisor one, and the warp is the current one. -/
def stateOf (w : Warp) : State :=
  { State.reset with
    cores := bare ++ [coreOf w] ++ pad, mem := [(placeTable, 3)],
    pkg := { cdtbase := BitVec.ofNat 64 placeTable } }
def s0 : State := stateOf w0
theorem sup0 : s0.ctxSup 0 = true := by decide
/-- An instruction is ready to run in such a state. -/
theorem ready_of (i : Instr) (w : Warp) (h : w.cslot = 0) (f : w.frags = { st := .ready, pc := 0x100000, mem := 0xFFFF, exm := 0xFFFF } :: List.replicate 7 {})
    (l : i.WellFormed) (g : (match i.shape, i.fields with
      | some sh, some f => grantOk sh f w.r.xgrant
      | _, _ => true) = true) : Ready i (stateOf w) w where
  warp := rfl
  st := by simp [Claims.frag, Warp.frag, stateOf, State.reset, f]
  wait := by simp [Claims.frag, Warp.frag, stateOf, State.reset, f]
  run := by simp [Claims.frag, Warp.frag, stateOf, State.reset, f]
  legal := l
  mode := fun _ => by rw [h]; exact sup0
  grant := g
  codes := ⟨rfl, rfl⟩
theorem ready0 (i : Instr) (l : i.WellFormed) (g : (match i.shape, i.fields with
      | some sh, some f => grantOk sh f 0
      | _, _ => true) = true) : Ready i s0 w0 := ready_of i w0 rfl rfl l g

theorem test_witness_sadd : Ready (.sadd { blank with typ := 4 }) s0 w0 ∧ active s0 w0 { blank with typ := 4 } ≠ 0 ∧
    ShadowsFit s0 w0 [0] := ⟨ready0 _ (by decide) (by decide), by decide, by decide⟩

/-- A legal instruction whose operands need no extended block. -/
def legal0 (i : Instr) : Bool := i.check == none && (match i.shape, i.fields with
  | some sh, some f => grantOk sh f 0
  | _, _ => true)
/-- Every legal instruction of a list is ready in the small state. -/
theorem ready_all {is : List Instr} (h : is.all legal0 = true) : ∀ i ∈ is, Ready i s0 w0 := by
  intro i m
  have e := List.all_eq_true.1 h i m
  rw [legal0, Bool.and_eq_true] at e
  exact ready0 i (by simpa using e.1) e.2
/-- The fields of a word of a type. -/
abbrev ft (t : Nat) : Fields := { blank with typ := BitVec.ofNat 4 t }
/-- A warp with the mask k1 = 3, and a word predicated on it or on k2, which is empty. -/
def w3 : Warp := { w0 with r := { w0.r with k := [(1, 3)] } }
def s3 : State := stateOf w3
theorem ready3 (i : Instr) (l : legal0 i = true) : Ready i s3 w3 := by
  rw [legal0, Bool.and_eq_true] at l
  exact ready_of i w3 rfl rfl (by simpa using l.1) l.2

/-! ### Hypotheses that are met: arithmetic -/

theorem test_meets_EmptyActive : ∃ i f, Instr.fields i = some f ∧ i.isFlow = false ∧ Ready i s0 w0 ∧ active s0 w0 f = 0 ∧
    i ∉ [.nop f, .exmwr f, .vcmprs f, .vexpnd f, .mmovm f, .mmovv f, .mrowp f, .mrowpSet f, .pair f, .pairx f] :=
  ⟨.sadd { ft 4 with pk := 2 }, _, rfl, rfl, ready0 _ (by decide) (by decide), by decide, by decide⟩

theorem test_meets_ScalarArithmetic : (∀ i ∈ [.sadd (ft 1), .ssub (ft 2), .smul (ft 3), .smulh (ft 4), .sand (ft 4), .sor (ft 4),
    .sxor (ft 4), .sshl (ft 2), .sshr (ft 2), .ssra (ft 1), .smin (ft 1), .smax (ft 2), .smov (ft 4), .sdiv (ft 3), .srem (ft 1)],
    Ready i s0 w0) ∧ (∀ t < 16, active s0 w0 (ft t) ≠ 0) ∧ ShadowsFit s0 w0 [0] := ⟨ready_all (by decide), by decide, by decide⟩

theorem test_meets_ScalarOthers : (∀ i ∈ [.scmp (ft 1), .ssel (ft 4), .sli (ft 4), .slea (ft 4), .sclz (ft 2), .spop (ft 2),
    .sbfe { ft 4 with imm := 0x4000 }, .sli { ft 4 with minor := 1 }], Ready i s0 w0) ∧ (∀ t < 16, active s0 w0 (ft t) ≠ 0) ∧
    ShadowsFit s0 w0 [0] := ⟨ready_all (by decide), by decide, by decide⟩

theorem test_meets_MaskInstructions : (∀ i ∈ [.kop { blank with dst := 1 }, .stok { blank with dst := 1 }, .exmrd { blank with dst := 7 },
    .elect { blank with dst := 1 }, .kpop blank, .kff1 blank, .ktos blank, .exmwr blank], Ready i s0 w0) ∧
    active s0 w0 { blank with dst := 1 } ≠ 0 ∧ ShadowsFit s0 w0 [0] := ⟨ready_all (by decide), by decide, by decide⟩

theorem test_meets_VectorArithmetic : (∀ i ∈ [.vadd (ft 1), .vsub (ft 3), .vmul (ft 4), .vmulh (ft 2), .vand (ft 0), .vor (ft 4),
    .vxor (ft 0), .vshl (ft 14), .vshr (ft 15), .vsra (ft 1), .vmin (ft 1), .vmax (ft 4)], Ready i s0 w0) ∧
    ∀ t < 16, active s0 w0 (ft t) ≠ 0 := ⟨ready_all (by decide), by decide⟩

theorem test_meets_VectorOthers : (∀ i ∈ [.vnot (ft 0), .vabs (ft 1), .vneg { ft 14 with minor := 64 }, .vclz (ft 4), .vpop (ft 0),
    .vbrev (ft 4), .vmov (ft 0), .vbfe { ft 4 with imm := 0x4000 }, .vli (ft 0), .vlane (ft 0), .vmad (ft 1), .vsad (ft 14),
    .vdot4 { ft 14 with minor := 64 }, .vsel (ft 4), .vcvt { ft 4 with minor := 1 }], Ready i s0 w0) ∧
    active s0 w0 { ft 14 with minor := 64 } ≠ 0 := ⟨ready_all (by decide), by decide⟩

theorem test_meets_BitFieldInsert : (∀ i ∈ [.sbfi { ft 4 with imm := 0x3F01 }, .vbfi { ft 0 with imm := 0x011F }], Ready i s0 w0) ∧
    active s0 w0 { ft 4 with imm := 0x3F01 } ≠ 0 ∧ ShadowsFit s0 w0 [0] := by
  refine ⟨ready_all ?_, ?_, ?_⟩ <;> decide

theorem test_meets_VectorCompare : (∀ i ∈ [.vcmp { ft 3 with dst := 1 }, .ballot { ft 4 with dst := 7 }], Ready i s0 w0) ∧
    active s0 w0 { ft 3 with dst := 1 } ≠ 0 := ⟨ready_all (by decide), by decide⟩

/-! ### Hypotheses that are met: floating point, special functions, cross-lane -/

theorem test_meets_FloatRounded : (∀ i ∈ [.fadd (ft 5), .fsub (ft 6), .fmul (ft 7), .ffma (ft 8), .fscale (ft 6),
    .fcvt { ft 9 with minor := 5, qual := 8 }, .fcvti { ft 3 with minor := 6 }, .icvtf { ft 5 with minor := 4 }, .fdot2 (ft 7)],
    Ready i s0 w0) ∧ ∀ t < 16, active s0 w0 (ft t) ≠ 0 := ⟨ready_all (by decide), by decide⟩

theorem test_meets_FloatEncodings : (∀ i ∈ [.fmin (ft 5), .fmax (ft 6), .fabs (ft 7), .fneg (ft 8), .fcps (ft 5), .fclass (ft 6),
    .frnd { ft 5 with qual := 8 }], Ready i s0 w0) ∧ ∀ t < 16, active s0 w0 (ft t) ≠ 0 := ⟨ready_all (by decide), by decide⟩

theorem test_meets_FloatCompare : (∃ f : Fields, f.dst = 0) ∧ Ready (.fcmp { ft 5 with dst := 1, minor := 7 }) s0 w0 ∧
    active s0 w0 { ft 5 with dst := 1, minor := 7 } ≠ 0 := ⟨⟨blank, rfl⟩, ready0 _ (by decide) (by decide), by decide⟩

theorem test_meets_RoundOfDecode : ∃ m ∈ [fmtF16, fmtBf16, fmtF32, fmtF64, fmtE4m3, fmtE5m2], ∃ mode raw, mode ≤ 4 ∧
    raw < 2 ^ (1 + m.eb + m.fb) := ⟨fmtF64, by decide, 4, 2 ^ 64 - 1, by decide, by decide⟩

theorem test_meets_SpecialFunctions : (∀ i ∈ [.rcp (ft 5), .rsq (ft 5), .sqrt { ft 5 with qual := 4 }, .exp2 (ft 5), .log2 (ft 5),
    .sinpi (ft 5), .cospi (ft 5), .tanh (ft 5)], Ready i s0 w0) ∧ active s0 w0 (ft 5) ≠ 0 ∧
    (0x80000000 < 0x80000001 ∧ 0x80000001 < 0xFF800000) ∧ 0x80000000 < 0xFF7FFFFF ∧ 0xFF7FFFFF < 0xFF800000 :=
  ⟨ready_all (by decide), by decide, by decide, by decide, by decide⟩

theorem test_meets_RandomNumbers : (∀ i ∈ [.rng blank, .rngseed blank], Ready i s0 w0) ∧ active s0 w0 blank ≠ 0 :=
  ⟨ready_all (by decide), by decide⟩

theorem test_meets_Reductions : (∀ i ∈ [.vred (ft 1), .vred (ft 4), .vscan { ft 3 with qual := 1 }, .vred (ft 5),
    .vscan { ft 5 with minor := 2 }], Ready i s0 w0) ∧ (∀ t < 16, active s0 w0 (ft t) ≠ 0) ∧ (ft 4).typ ≠ 5 ∧ ShadowsFit s0 w0 [0] :=
  ⟨ready_all (by decide), by decide, by decide, by decide⟩

theorem test_meets_LaneMoves : (∀ i ∈ [.shfl { ft 0 with minor := 3 }, .bcast (ft 4), .matchL (ft 4), .vcmprs { ft 0 with qual := 1 },
    .vexpnd (ft 4)], Ready i s0 w0) ∧ active s0 w0 (ft 4) ≠ 0 ∧ exm s0 w0 ≠ 0 ∧ ShadowsFit s0 w0 [0] :=
  ⟨ready_all (by decide), by decide, by decide, by decide⟩

/-! ### Hypotheses that are met: encoding and the step -/

theorem test_meets_DecodeOfEncode : ∃ i w, Instr.WellFormed i ∧ encode i = some w ∧ decode w = .ok i :=
  ⟨.sadd (ft 4), 0x200000000000040000000000, by decide, by decide, rfl⟩

/-- A state whose core holds a line for the current fragment. -/
def lineState (line : List Byte) : State :=
  { stateOf w0 with
    cores := bare ++ [{ coreOf w0 with icache := [⟨0, 0, 0x100000, 0x100000, line⟩] }] }
/-- A state whose next move is the issue of the fragment. -/
def issuing (line : List Byte) : State := { lineState line with agenda := [.issue ⟨96, 0, 0⟩] }

theorem test_meets_StepRunsInstruction : ∃ (s u : State) (r : FragRef) (ms : List Move) (w : Warp) (line : List Byte) (i : Instr), s.agenda = .issue r :: ms ∧ s.warp r.core r.slot = some w ∧
    canIssue { s with tick := s.tick + 1, agenda := ms } r w (w.frag r.entry) = true ∧ (w.frag r.entry).entering = false ∧
    issueLine { s with tick := s.tick + 1, agenda := ms, cur := r } r w (w.frag r.entry) = (u, .ok line) ∧
    decodeBytes (lineSlot line (pcSlot (w.frag r.entry).pc)) = .ok i :=
  ⟨issuing (wordLine 0x010000000000000000000000), _, ⟨96, 0, 0⟩, [], w0, wordLine 0x010000000000000000000000, .nop blank,
    rfl, rfl, by decide, rfl, rfl, rfl⟩

theorem test_meets_StepRunsEvent : ∃ s : State, ∃ i : Instr, ∃ ms, s.agenda = .event i :: ms ∧ i.fields = none :=
  ⟨{ s0 with agenda := [.event (.consumerDispatch 0)] }, (.consumerDispatch 0), [], rfl, rfl⟩

theorem test_meets_IllegalFaults_fetched : ∃ (s : State) (r : FragRef) (ms : List Move) (w : Warp) (line : List Byte) (x : Reject), s.agenda = .issue r :: ms ∧ s.warp r.core r.slot = some w ∧
    canIssue { s with tick := s.tick + 1, agenda := ms, cur := r } r w (w.frag r.entry) = true ∧ (w.frag r.entry).entering = false ∧
    issueLine { s with tick := s.tick + 1, agenda := ms, cur := r } r w (w.frag r.entry) =
      ({ s with tick := s.tick + 1, agenda := ms, cur := r }, .ok line) ∧
    decodeBytes (lineSlot line (pcSlot (w.frag r.entry).pc)) = .error x :=
  ⟨issuing (wordLine 0xE00000000000000000000000), ⟨96, 0, 0⟩, [], w0, wordLine 0xE00000000000000000000000, .major,
    rfl, rfl, by decide, rfl, rfl, rfl⟩

theorem test_meets_IllegalFaults_checked : ∀ i f, (i, f) = (.sadd { ft 4 with minor := 1 }, { ft 4 with minor := 1 }) →
    Instr.fields i = some f ∧ s0.warp s0.cur.core s0.cur.slot = some w0 ∧ (Claims.frag s0 w0).st = .ready ∧
    (Claims.frag s0 w0).run = [] ∧ (s0.core s0.cur.core).weak = [] ∧ i.check ≠ none := by
  intro i f h
  cases h
  exact ⟨rfl, rfl, rfl, rfl, rfl, by decide⟩

/-! ### Hypotheses that are met: control -/

/-- A warp with some scalar registers. -/
def ws (xs : List (Nat × W64)) : Warp := { w0 with r := { w0.r with s := xs } }
/-- The current fragment's line stands in its quarter's cache, every slot a legal target. -/
def sline (w : Warp) : State :=
  { stateOf w with
    cores := bare ++ [{ coreOf w with icache := [⟨0, 0, 0x100000, 0x100000, wordLine 0x010000000000000000000000⟩] }] ++ pad }
theorem ready_line (i : Instr) (xs : List (Nat × W64)) (l : legal0 i = true) : Ready i (sline (ws xs)) (ws xs) := by
  rw [legal0, Bool.and_eq_true] at l
  exact ⟨rfl, rfl, rfl, rfl, by simpa using l.1, fun _ => sup0, l.2, ⟨rfl, rfl⟩⟩
theorem target_of (s : State) (w : Warp) (f : Fields) (pc : W64) (h : (checkTarget s (env s w f) pc).2 = none) :
    ∃ u, TargetOk s w f pc u := ⟨_, Prod.ext rfl h⟩
/-- A warp whose fragment stands in a split of identifier 0, of which half the lanes have arrived. -/
def wsplit : Warp :=
  { w0 with
    frags := { st := .ready, pc := 0x100000, mem := 0xFF, exm := 0xFF, jr := some 0 } :: List.replicate 7 {},
    joins := some ⟨0, none, 0xFFFF, 0, 0, [], [], false, [], []⟩ :: List.replicate 31 none }

theorem test_meets_PlainControl : (∀ i ∈ [.nop blank, .yield blank, .isync blank, .rcvg { blank with imm := 63 }, .brs { blank with minor := 1 },
    .loop blank, .trapf blank], Ready i s0 w0) ∧
    (∀ i ∈ [.bra { blank with pk := 2 }, .brs { blank with pk := 2 }, .brv { blank with pk := 2 }, .jmpx { blank with pk := 2 },
      .call { blank with pk := 2 }, .callx { blank with pk := 2 }, .ret { blank with pk := 2 }, .loop { blank with pk := 2 },
      .exit { blank with pk := 2 }, .trapf { blank with pk := 2 }, .sysc { blank with pk := 2 }, .bkpt { blank with pk := 2 }],
      Ready i s0 w0) ∧ active s0 w0 { blank with pk := 2 } = 0 ∧ brsTaken { blank with minor := 1 } (sr s0 w0 0) = false ∧
    sr s0 w0 0 = 0 ∧ (∀ j, j < 6 → (w0.r.flags.getLsbD j && w0.r.flags.getLsbD (j + 8)) = false) ∧
    fragChain w0 (Claims.frag s0 w0) = [] :=
  ⟨ready_all (by decide), ready_all (by decide), by decide, by decide, by decide, by decide, by decide⟩

theorem test_meets_UniformTransfers : ∀ w, w = ws [(1, 0x100004), (2, 2), (3, 1)] → ∀ s, s = sline w →
    ((Ready (.bra { blank with imm := 1 }) s w ∧ active s w { blank with imm := 1 } ≠ 0 ∧
      ∃ u, TargetOk s w { blank with imm := 1 } (target s w { blank with imm := 1 }) u) ∧
    (Ready (.brs { blank with imm := 4, opa := 2, minor := 1 }) s w ∧ brsTaken { blank with imm := 4, opa := 2, minor := 1 } (sr s w 2) = true ∧
      ∃ u, TargetOk s w { blank with imm := 4, opa := 2, minor := 1 } (target s w { blank with imm := 4 }) u) ∧
    (Ready (.jmpx { blank with opa := 1 }) s w ∧ Ready (.ret { blank with opa := 1 }) s w ∧
      ∃ u, TargetOk s w { blank with opa := 1 } (sr s w 1) u) ∧
    (Ready (.brv { blank with imm := 1 }) s w ∧ exm s w &&& ~~~active s w { blank with imm := 1 } = 0) ∧
    (Ready (.call { blank with imm := 1 }) s w ∧ ShadowsFit s w [0]) ∧
    (Ready (.loop { blank with imm := 1, opa := 2 }) s w ∧ 1 < (sr s w 2).toNat ∧ ShadowsFit s w [2] ∧
      ∃ u, TargetOk s w { blank with imm := 1, opa := 2 } (target s w { blank with imm := 1 }) u) ∧
    Ready (.loop { blank with imm := 1, opa := 3 }) s w ∧ sr s w 3 = 1 ∧ ShadowsFit s w [3]) := by
  intro w hw s hs
  subst hw hs
  refine ⟨⟨ready_line _ _ ?_, ?_, target_of _ _ _ _ ?_⟩, ⟨ready_line _ _ ?_, ?_, target_of _ _ _ _ ?_⟩,
    ⟨ready_line _ _ ?_, ready_line _ _ ?_, target_of _ _ _ _ ?_⟩, ⟨ready_line _ _ ?_, ?_⟩, ⟨ready_line _ _ ?_, ?_⟩,
    ⟨ready_line _ _ ?_, ?_, ?_, target_of _ _ _ _ ?_⟩, ready_line _ _ ?_, ?_, ?_⟩ <;> decide

theorem test_meets_ControlFaults : ∀ w, w = { ws [(1, 5)] with r := { (ws [(1, 5)]).r with flags := 0x2020 } } → ∀ s, s = stateOf w →
    (∀ i ∈ [.bra { blank with imm := 5 }, .call { blank with imm := 7 }, .jmpx { blank with opa := 1 }, .ret { blank with opa := 1 },
      .sysc { blank with imm := 0xFFFF }, .bkpt blank, .trapf blank], legal0 i = true → Ready i s w) ∧
    [.bra { blank with imm := 5 }, .call { blank with imm := 7 }, .jmpx { blank with opa := 1 }, .ret { blank with opa := 1 },
      .sysc { blank with imm := 0xFFFF }, .bkpt blank, .trapf blank].all legal0 = true ∧
    active s w blank ≠ 0 ∧ pcValid (target s w { blank with imm := 5 }) = false ∧ pcValid (sr s w 1) = false ∧
    (w.r.flags.extractLsb' 0 6 &&& w.r.flags.extractLsb' 8 6) ≠ 0 := by
  intro w hw s hs
  subst hw hs
  refine ⟨fun i _ l => ?_, ?_, ?_, ?_, ?_, ?_⟩
  · rw [legal0, Bool.and_eq_true] at l
    exact ready_of i _ rfl rfl (by simpa using l.1) l.2
  all_goals decide

/-- A line none of whose slots is a legal target, and a target whose line is not mapped. -/
def sbad : State :=
  { stateOf w0 with cores := bare ++ [{ coreOf w0 with icache := [⟨0, 0, 0x100000, 0x100000, List.replicate 64 0⟩] }] ++ pad }
theorem test_meets_ControlFaults_line : (∃ u, TargetBad sbad w0 0x100001 u 0x16) ∧ (∃ u, TargetBad sbad w0 0x200000 u 1) ∧
    (∀ i ∈ [.bra { blank with imm := 1 }, .brv { blank with imm := 1 }, .call { blank with imm := 1 }, .brs { blank with imm := 1 },
      .loop { blank with imm := 1 }], legal0 i = true) ∧ target sbad w0 { blank with imm := 1 } = 0x100001 ∧
    active sbad w0 { blank with imm := 1 } ≠ 0 ∧ brsTaken { blank with imm := 1 } (sr sbad w0 0) = true ∧
    (∃ x : W64, 1 < x.toNat) := by
  refine ⟨⟨_, .inr ⟨by decide, .inl ⟨_, rfl, by decide, rfl⟩⟩⟩, ⟨_, .inr ⟨by decide, .inr (Prod.ext rfl ?_)⟩⟩, ?_, ?_, ?_, ?_, 2, ?_⟩
  case refine_2 => exact List.all_eq_true.1 (by decide)
  all_goals decide
theorem test_meets_ControlFaults_settle : ∀ w, w = { w0 with maps := [⟨0x600000, [1]⟩] } → Ready (.sysc blank) (stateOf w) w ∧
    active (stateOf w) w blank ≠ 0 ∧ (settleWarp (stateOf w) 96 0 true).isSome = true := by
  intro w hw
  subst hw
  exact ⟨ready_of _ _ rfl rfl (by decide) (by decide), by decide, by decide +kernel⟩

theorem test_meets_BranchDivides : ∃ f u, Ready (.brv f) (sline w3) w3 ∧ active (sline w3) w3 f ≠ 0 ∧
    exm (sline w3) w3 &&& ~~~active (sline w3) w3 f ≠ 0 ∧ TargetOk (sline w3) w3 f (target (sline w3) w3 f) u ∧
    w3.freeJoin = some 0 ∧ w3.freeEntry = some 1 := by
  obtain ⟨u, h⟩ := target_of (sline w3) w3 { blank with pk := 1, imm := 2 } (target (sline w3) w3 { blank with pk := 1, imm := 2 }) (by decide)
  exact ⟨{ blank with pk := 1, imm := 2 }, u, ⟨rfl, rfl, rfl, rfl, by decide, fun _ => sup0, by decide, ⟨rfl, rfl⟩⟩, by decide, by decide,
    h, by decide, by decide⟩

theorem readyR (w : Warp) (h : w.frags.head? = some { st := .ready, pc := 0x100000, mem := 0xFF, exm := 0xFF, jr := some 0 })
    (g : w.cslot = 0) (x : w.r.xgrant = 0) : Ready (.rcvg blank) (stateOf w) w := by
  have f : Claims.frag (stateOf w) w = { st := .ready, pc := 0x100000, mem := 0xFF, exm := 0xFF, jr := some 0 } := by
    cases e : w.frags with
    | nil => rw [e] at h; exact absurd h (by decide)
    | cons y ys => rw [e] at h; simpa [Claims.frag, Warp.frag, stateOf, State.reset, e] using h
  exact ⟨rfl, by rw [f], by rw [f], by rw [f], by decide, fun _ => by rw [g]; exact sup0, by rw [x]; decide, ⟨rfl, rfl⟩⟩
/-- The warp with a side of the split deferred, and with the other side arrived. -/
def wdefer : Warp :=
  { wsplit with joins := some ⟨0, none, 0xFFFF, 0, 0, [(0xFF00, 0x100008)], [], false, [], []⟩ :: List.replicate 31 none }
def wlast : Warp :=
  { wsplit with joins := some ⟨0, none, 0xFFFF, 0xFF00, 0xFF00, [], [], false, [], [(8, 0x100008)]⟩ :: List.replicate 31 none }
theorem test_meets_RcvgArrives : (∃ x, Ready (.rcvg blank) (stateOf wsplit) wsplit ∧ (Claims.frag (stateOf wsplit) wsplit).jr = some 0 ∧
      wsplit.join 0 = some x ∧ x.id = 0 ∧ foldRefused x (Claims.frag (stateOf wsplit) wsplit) 0 = none ∧ x.deferred = [] ∧
      writtenSince (Claims.frag (stateOf wsplit) wsplit) 0 = [] ∧
      (x.arr ||| (Claims.frag (stateOf wsplit) wsplit).mem) &&& ~~~wsplit.ended ≠ x.lanes &&& ~~~wsplit.ended) ∧
    (∃ x g, Ready (.rcvg blank) (stateOf wdefer) wdefer ∧ (Claims.frag (stateOf wdefer) wdefer).jr = some 0 ∧
      wdefer.join 0 = some x ∧ x.id = 0 ∧ foldRefused x (Claims.frag (stateOf wdefer) wdefer) 0 = none ∧
      writtenSince (Claims.frag (stateOf wdefer) wdefer) 0 = [] ∧ (orderSides x.deferred).head? = some g) ∧
    ∃ x, Ready (.rcvg blank) (stateOf wlast) wlast ∧ (Claims.frag (stateOf wlast) wlast).jr = some 0 ∧
      wlast.join 0 = some x ∧ x.id = 0 ∧ foldRefused x (Claims.frag (stateOf wlast) wlast) 0 = none ∧ x.deferred = [] ∧
      (Claims.frag (stateOf wlast) wlast).mem ≠ 0 ∧
      (x.arr ||| (Claims.frag (stateOf wlast) wlast).mem) &&& ~~~wlast.ended = x.lanes &&& ~~~wlast.ended := by
  refine ⟨⟨_, readyR _ rfl rfl rfl, rfl, rfl, rfl, ?_, rfl, ?_, ?_⟩, ⟨_, (0xFF00, 0x100008), readyR _ rfl rfl rfl, rfl, rfl, rfl, ?_, ?_, ?_⟩,
    _, readyR _ rfl rfl rfl, rfl, rfl, rfl, ?_, rfl, ?_, ?_⟩ <;> decide

theorem test_meets_ExitLanes : (Ready (.exit { blank with pk := 1 }) s3 w3 ∧ active s3 w3 { blank with pk := 1 } ≠ 0 ∧
    active s3 w3 { blank with pk := 1 } ≠ exm s3 w3) ∧ Ready (.exit blank) s0 w0 ∧ active s0 w0 blank = exm s0 w0 ∧
    (Claims.frag s0 w0).jr = none ∧ w0.stnt = [] ∧ w0.latch = none := by
  refine ⟨⟨ready3 _ ?_, ?_, ?_⟩, ready0 _ ?_ ?_, ?_, ?_, ?_, ?_⟩ <;> decide

theorem test_meets_SystemRegisters : (∀ i ∈ [.sget blank, .sget { blank with imm := 1 }, .sget { blank with imm := 12 },
    .sput { blank with imm := 6, opa := 1 }, .sput { blank with imm := 10 }, .sput { blank with imm := 11 }], Ready i s0 w0) ∧
    active s0 w0 blank ≠ 0 ∧ ShadowsFit s0 w0 [0] ∧ (sr s0 w0 1).toNat < 2 ^ 34 ∧ (sr s0 w0 1).toNat / 2 ^ 32 ≠ 3 ∧
    (Ready (.sput { blank with imm := 10, opa := 1 }) (sline (ws [(1, 16)])) (ws [(1, 16)]) ∧
      16 ≤ (sr (sline (ws [(1, 16)])) (ws [(1, 16)]) 1).toNat) := by
  refine ⟨ready_all ?_, ?_, ?_, ?_, ?_, ready_line _ _ ?_, ?_⟩ <;> decide

theorem test_meets_ExtendedBlocks : (∀ i ∈ [.xacq { blank with imm := 6 }, .xrel blank], Ready i s0 w0) ∧ active s0 w0 blank ≠ 0 ∧
    w0.r.xgrant = 0 ∧ (s0.core 96).xqueue = [] ∧ (s0.core 96).granted + 6 * (w0.width / 16) ≤ (s0.core 96).xplim.toNat := by
  refine ⟨ready_all ?_, ?_, rfl, rfl, ?_⟩ <;> decide

/-! ### A mapped page -/

/-- Page tables for context 0 that map the page at virtual address 0 to the memory page at 0x2020000, readable, writable
and executable (R64 to R68). -/
def tables : List Host.Cell :=
  [(0x2000000, 3), (0x200003A, 1), (0x200003B, 2), (0x2010000, 1), (0x2010001, 0x10), (0x2010002, 1), (0x2010003, 2),
   (0x2011000, 1), (0x2011001, 0x20), (0x2011002, 1), (0x2011003, 2), (0x2012000, 1), (0x2012001, 0x30), (0x2012002, 1), (0x2012003, 2),
   (0x2013000, 1), (0x2013001, 0x40), (0x2013002, 1), (0x2013003, 2), (0x2014000, 0x73), (0x2014002, 2), (0x2014003, 2)]
/-- Segments that admit the first bytes of every space. -/
def open8 : List Seg :=
  [⟨0, 0x100, 0, false, true, true⟩, ⟨0, 0x80, 0, false, true, true⟩, {}, ⟨0, 0x100, 0, false, true, true⟩, {},
   ⟨0, 0x100, 0, false, true, true⟩, ⟨0, 0x100, 0, false, true, true⟩, ⟨0, 0x100, 0, false, true, true⟩]
/-- A warp with those segments, of whose lanes two run, and with some registers. -/
def wm (v : List (Nat × W32)) (xs : List (Nat × W64)) : Warp :=
  { w0 with
    r := { w0.r with g := open8, v := v, s := xs },
    frags := { st := .ready, pc := 0x100000, mem := 0xFFFF, exm := 0x3 } :: List.replicate 7 {} }
/-- Its state: the page's tables, with some bytes in the page and the current line in the cache. -/
def mst (w : Warp) (page : List Host.Cell) : State := { sline w with mem := tables ++ page }
theorem readyM (i : Instr) (v : List (Nat × W32)) (xs : List (Nat × W64)) (page : List Host.Cell) (l : legal0 i = true)
    (c : (mst (wm v xs) page).ctxSup 0 = true) : Ready i (mst (wm v xs) page) (wm v xs) := by
  rw [legal0, Bool.and_eq_true] at l
  exact ⟨rfl, rfl, rfl, rfl, by simpa using l.1, fun _ => c, l.2, ⟨rfl, rfl⟩⟩

/-- Two lanes whose index is 8 apart. -/
def vv : List (Nat × W32) := [(65, 8)]
theorem test_walk : (translate (mst (wm [] []) []) (.near 96) 0 0 0 0x123 .rd false).2 = .ok 0x2020123 (some false) 0 0 := by decide

/-- A checked access, by what it finds. -/
theorem found {α β : Type} {p : α × β} (b : β) (h : p.2 = b) : p = (p.1, b) := by rw [← h]

/-- The targets that CALLX reads, from what its lanes' accesses find. -/
theorem reads_of {s : State} {w : Warp} {f : Fields} (ts : List (Nat × W64)) (u : State) (outs : List (Nat × LaneOut))
    (h : accessLanes s (env s w f) 0 8 .rd false ((lanesOf (active s w f)).map fun L =>
      (L, (sr s w f.opb.toNat + 8 * (v w f.opa.toNat L).setWidth 64).toNat)) = (u, outs))
    (k : (outs.all fun x => decide (withPoison u .rd x.2 = x.2) && match x.2 with
      | .ok ps => ps.all fun p => !p.held u (.near s.cur.core) false
      | _ => false) = true)
    (e : ts = outs.map fun x => (x.1, BitVec.ofNat 64 (leNat (loadBytes (touchLoads u (.near s.cur.core) (outs.flatMap partsOf))
      (towerOf s.cur.core) w (partsOf x))))) :
    ReadsTargets s w f (touchLoads u (.near s.cur.core) (outs.flatMap partsOf)) ts := by
  refine ⟨u, outs, h, fun x hx => ?_, rfl, e⟩
  have a := List.all_eq_true.1 k x hx
  rw [Bool.and_eq_true] at a
  match hx2 : x.2 with
  | .ok ps =>
    rw [hx2] at a
    exact ⟨ps, rfl, by simpa using a.1, fun p hp => by simpa using List.all_eq_true.1 a.2 p hp⟩
  | .bad _ _ => rw [hx2] at a; exact absurd a.2 Bool.false_ne_true
  | .absent _ => rw [hx2] at a; exact absurd a.2 Bool.false_ne_true
  | .held => rw [hx2] at a; exact absurd a.2 Bool.false_ne_true
/-- Both lanes read the 8 bytes at the page's start, or lane 1 those at 64. -/
def outs8 (va : Nat) : List (Nat × LaneOut) :=
  [(0, .ok [⟨.phys, 0x2020000, 8, some false, 0, 0, 0⟩]), (1, .ok [⟨.phys, 0x2020000 + va, 8, some false, 0, va, 1⟩])]
theorem test_meets_CallThroughTable : ∀ f, f = { blank with opa := 1, opb := 2 } →
    (∀ w, w = wm [] [] → ∀ s, s = mst w [(0x2020002, 0x10)] → ∃ u1 u' ts pc,
      Ready (.callx f) s w ∧ active s w f ≠ 0 ∧ exm s w &&& ~~~active s w f = 0 ∧ ReadsTargets s w f u1 ts ∧ (∀ x ∈ ts, x.2 = pc) ∧
      checkTarget u1 (env s w f) pc = (u', none) ∧ ShadowsFit s w [f.dst.toNat]) ∧
    ∀ w, w = wm vv [] → ∀ s, s = mst w [(0x2020002, 0x10), (0x2020040, 1), (0x2020042, 0x10)] → ∃ u1 u' ts g rest,
      Ready (.callx f) s w ∧ ReadsTargets s w f u1 ts ∧
      checkTargets u1 (env s w f) ((groupTargets ts).map fun g => g.2) = (u', none) ∧
      orderSides (groupTargets ts ++ (if exm s w &&& ~~~active s w f = 0 then []
        else [(exm s w &&& ~~~active s w f, nextPC (Claims.frag s w).pc)])) = g :: rest ∧ rest ≠ [] ∧
      w.freeJoin = some 0 ∧ rest.length ≤ (w.frags.filter fun fr => fr.st == .free).length := by
  intro f hf
  subst hf
  refine ⟨fun w hw s hs => ?_, fun w hw s hs => ?_⟩ <;> subst hw hs
  · exact ⟨_, _, [(0, 0x100000), (1, 0x100000)], 0x100000, readyM _ _ _ _ (by decide) (by decide +kernel), by decide +kernel, by decide +kernel,
      reads_of _ _ (outs8 0) (found _ (by decide +kernel)) (by decide +kernel) (by decide +kernel), by decide, found _ (by decide +kernel),
      by decide +kernel⟩
  · exact ⟨_, _, [(0, 0x100000), (1, 0x100001)], (1, 0x100000), [(2, 0x100001)], readyM _ _ _ _ (by decide) (by decide +kernel),
      reads_of _ _ (outs8 64) (found _ (by decide +kernel)) (by decide +kernel) (by decide +kernel), found _ (by decide +kernel),
      by decide +kernel, by decide, by decide, by decide⟩

/-! ### Hypotheses that are met: memory -/

theorem reaches_of {s : State} {w : Warp} {f : Fields} {seg size : Nat} {acc : Acc} {fb : Bool} {offs : List (Nat × Nat)}
    (xs : List (Nat × List Piece)) (h : (accessLanes s (env s w f) seg size acc fb offs).2 = xs.map fun x => (x.1, .ok x.2))
    (k : (xs.all fun x => x.2.all fun p => (pieceFault (accessLanes s (env s w f) seg size acc fb offs).1 acc p).isNone &&
      !p.held (accessLanes s (env s w f) seg size acc fb offs).1 (.near s.cur.core) acc.writes) = true) :
    ∃ u, Reaches s u w f seg size acc fb offs xs := by
  simp only [List.all_eq_true, Bool.and_eq_true, Option.isNone_iff_eq_none, Bool.not_eq_true'] at k
  exact ⟨_, found _ h, fun x hx p hp => (k x hx p hp).1, fun x hx p hp => (k x hx p hp).2⟩

/-- The word at the start of the page and the word 8 bytes further, a lane each. -/
def two : List (Nat × List Piece) := [(0, [⟨.phys, 0x2020000, 4, some false, 0, 0, 0⟩]), (1, [⟨.phys, 0x2020008, 4, some false, 0, 8, 1⟩])]

theorem test_meets_LoadsComplete : ∀ w, w = wm vv [] → ∀ s, s = mst w [(0x2020008, 7)] → ∀ f : Fields, f = { blank with minor := 2, opb := 1, qual := 8 } →
    (Ready (.ld f) s w ∧ active s w f ≠ 0 ∧
      ∃ u, Reaches s u w f (segOf f) 4 .rd (f.qual.getLsbD 0) (lanesAt s w f (active s w f)) two) ∧
    (Ready (.gath { f with minor := 10 }) s w ∧
      ∃ u, Reaches s u w { f with minor := 10 } (segOf f) 4 .rd false (lanesAt s w f (active s w f &&& ~~~kr w 1)) two) ∧
    Ready (.sld { blank with minor := 3 }) s w ∧ ShadowsFit s w [0] ∧
    ∃ u, Reaches s u w { blank with minor := 3 } 0 8 .rd false [(0, scalarAt s w { blank with minor := 3 })]
      [(0, [⟨.phys, 0x2020000, 8, some false, 0, 0, 0⟩])] := by
  intro w hw s hs f hf
  subst hw hs hf
  refine ⟨⟨readyM _ _ _ _ ?_ ?_, ?_, reaches_of _ ?_ ?_⟩, ⟨readyM _ _ _ _ ?_ ?_, reaches_of _ ?_ ?_⟩, readyM _ _ _ _ ?_ ?_, ?_,
    reaches_of _ ?_ ?_⟩ <;> decide +kernel

theorem test_meets_StoresComplete : ∀ w, w = wm vv [] → ∀ s, s = mst w [] → ∀ f : Fields, f = { blank with minor := 2, opb := 1, qual := 8 } →
    (Ready (.st f) s w ∧ active s w f ≠ 0 ∧ w.stnt = [] ∧
      (∃ u, Reaches s u w f (segOf f) 4 .wr false (lanesAt s w f (active s w f)) two) ∧
      (∀ x ∈ two, stagingAt s.cur.core x.2 = none)) ∧
    (Ready (.scat { f with minor := 10 }) s w ∧
      ∃ u, Reaches s u w { f with minor := 10 } (segOf f) 4 .wr false (lanesAt s w f (active s w f &&& ~~~kr w 1)) two) ∧
    Ready (.sst { blank with minor := 2 }) s w ∧
    (∃ u, Reaches s u w { blank with minor := 2 } 0 4 .wr false [(0, scalarAt s w { blank with minor := 2 })]
      [(0, [⟨.phys, 0x2020000, 4, some false, 0, 0, 0⟩])]) ∧
    stagingAt s.cur.core [⟨.phys, 0x2020000, 4, some false, 0, 0, 0⟩] = none := by
  intro w hw s hs f hf
  subst hw hs hf
  refine ⟨⟨readyM _ _ _ _ ?_ ?_, ?_, ?_, reaches_of _ ?_ ?_, ?_⟩, ⟨readyM _ _ _ _ ?_ ?_, reaches_of _ ?_ ?_⟩, readyM _ _ _ _ ?_ ?_,
    reaches_of _ ?_ ?_, ?_⟩ <;> decide +kernel

theorem test_meets_AccessFaults : ∀ w, w = wm [] [] → ∀ s, s = mst w [] → ∀ f : Fields, f = { blank with minor := 2, imm := 2 } →
    (Ready (.ld f) s w ∧ Ready (.st f) s w ∧ Ready (.atom { f with typ := 4 }) s w ∧ active s w f ≠ 0 ∧
      f.qual.getLsbD 0 = false ∧ f.minor.getLsbD 2 = false ∧
      (∀ x ∈ (checkLanes s (env s w f) 0 4 .wr (lanesOf (active s w f))).2, ∀ ps, x.2 = .ok ps → stagingAt s.cur.core ps = none)) ∧
    ∀ acc ∈ [Acc.rd, Acc.wr, .rw], ((checkLanes s (env s w f) 0 4 acc (lanesOf (active s w f))).2.find? fun x => match x.2 with
      | .bad _ _ => true
      | _ => false) = some (0, .bad 4 2) := by
  intro w hw s hs f hf
  subst hw hs hf
  refine ⟨⟨readyM _ _ _ _ ?_ ?_, readyM _ _ _ _ ?_ ?_, readyM _ _ _ _ ?_ ?_, ?_, ?_, ?_, ?_⟩, ?_⟩
  case refine_10 =>
    intro x hx ps hp
    have : x = (0, .bad 4 2) ∨ x = (1, .bad 4 2) := by
      have e : (checkLanes (mst (wm [] []) []) (env (mst (wm [] []) []) (wm [] []) { blank with minor := 2, imm := 2 }) 0 4 .wr
          (lanesOf (active (mst (wm [] []) []) (wm [] []) { blank with minor := 2, imm := 2 }))).2 =
        [(0, .bad 4 2), (1, .bad 4 2)] := by decide +kernel
      rw [e] at hx
      simpa using hx
    rcases this with rfl | rfl <;> cases hp
  all_goals decide +kernel

/-- A buffer record of U32 elements at virtual address 0x40, 16 bytes long (R95). -/
def record : List Host.Cell := [(0x2020015, 2), (0x2020016, 4), (0x202001A, 0x10), (0x2020020, 0x40)]
def recordPiece : Piece := ⟨.phys, 0x2020000, 40, some false, 0, 0, 0⟩
def elems : List (Nat × ElemOut) :=
  [(0, .ok 0 [] [[⟨.phys, 0x2020040, 4, some false, 0, 0x40, 0⟩]]), (1, .ok 1 [] [[⟨.phys, 0x2020044, 4, some false, 0, 0x44, 1⟩]])]

/-- Every part of the elements of a list of lanes is free for an access. -/
def freeElems (s u : State) (store : Bool) (outs : List (Nat × ElemOut)) : Bool := outs.all fun x => match x.2 with
  | .ok _ pl cs => (pl ++ cs.flatten).all fun p => !p.held u (.near s.cur.core) store
  | _ => false
theorem elem_free {s u : State} {store : Bool} {outs : List (Nat × ElemOut)} (h : freeElems s u store outs = true) :
    ∀ x ∈ outs, ∃ i pl cs, x.2 = .ok i pl cs ∧ ∀ p ∈ pl ++ cs.flatten, p.held u (.near s.cur.core) store = false := by
  intro x hx
  have a := List.all_eq_true.1 h x hx
  match hx2 : x.2 with
  | .ok i pl cs => rw [hx2] at a; exact ⟨i, pl, cs, rfl, fun p hp => by simpa using List.all_eq_true.1 a p hp⟩
  | .skip => rw [hx2] at a; exact absurd a Bool.false_ne_true
  | .bad .. => rw [hx2] at a; exact absurd a Bool.false_ne_true
  | .absent .. => rw [hx2] at a; exact absurd a Bool.false_ne_true
  | .poisoned => rw [hx2] at a; exact absurd a Bool.false_ne_true
  | .held => rw [hx2] at a; exact absurd a Bool.false_ne_true
theorem test_meets_RecordAccesses_load : ∀ w, w = wm [(65, 1)] [] → ∀ s, s = mst w record → ∀ f : Fields, f = { blank with opa := 1 } →
    Ready (.ldb f) s w ∧ active s w f ≠ 0 ∧ ∃ u u' r outs,
    scalarAccess s (env s w f) 0x92 7 (40 * f.imm.toNat) 40 .rd = (u, .ok [recordPiece]) ∧
    recordPiece.held u (.near s.cur.core) false = false ∧
    r = bufRec (leNat (readBytes s (touched s u [(0, [recordPiece])]) w [recordPiece])) ∧ r.malformed false = false ∧
    f.dst.toNat + r.chans * r.regs ≤ 64 ∧ r.regs ≠ 2 ∧
    recordElems (env s w f) r .rd (f.qual.getLsbD 0) (f.minor.getLsbD 2) (touched s u [(0, [recordPiece])])
      ((lanesOf (active s w f)).map fun L => (L, (op32 s w f.ascl f.opa L).toNat)) = (u', outs) ∧
    (∀ x ∈ outs, ∃ i pl cs, x.2 = .ok i pl cs ∧ ∀ p ∈ pl ++ cs.flatten, p.held u' (.near s.cur.core) false = false) ∧
    readBytes s (touched s u' [(0, [recordPiece] ++ elemPieces outs)]) w [recordPiece] =
      readBytes s (touched s u [(0, [recordPiece])]) w [recordPiece] := by
  intro w hw s hs f hf
  subst hw hs hf
  refine ⟨readyM _ _ _ _ ?_ ?_, ?_, _, _, _, elems, found _ ?_, ?_, rfl, ?_, ?_, ?_, found _ ?_, elem_free ?_, ?_⟩ <;> decide +kernel

theorem test_meets_RecordAccesses_store : ∀ w, w = wm [(65, 1)] [] → ∀ s, s = mst w record → ∀ f : Fields, f = { blank with opa := 1 } →
    Ready (.stb f) s w ∧ active s w f ≠ 0 ∧ w.stnt = [] ∧ ∃ u u' r outs,
    scalarAccess s (env s w f) 0x93 7 (40 * f.imm.toNat) 40 .rd = (u, .ok [recordPiece]) ∧
    recordPiece.held u (.near s.cur.core) false = false ∧
    r = bufRec (leNat (readBytes s (touched s u [(0, [recordPiece])]) w [recordPiece])) ∧ r.malformed true = false ∧
    f.dst.toNat + r.chans * r.regs ≤ 64 ∧ r.regs ≠ 2 ∧
    recordElems (env s w f) r .wr false false (touched s u [(0, [recordPiece])])
      ((lanesOf (active s w f)).map fun L => (L, (op32 s w f.ascl f.opa L).toNat)) = (u', outs) ∧
    (∀ x ∈ outs, ∃ i pl cs, x.2 = .ok i pl cs ∧ ∀ p ∈ pl ++ cs.flatten, p.held u' (.near s.cur.core) true = false) ∧
    (∀ x ∈ outs, ∃ i cs, x.2 = .ok i [] cs) ∧
    (let u2 := claimStores u' s.cur.core s.cur.slot (elemPieces outs)
     ((touched s u2 [(0, [recordPiece])]).tower (towerOf s.cur.core)).pts = (u2.tower (towerOf s.cur.core)).pts ∧
      readBytes s (touched s u2 [(0, [recordPiece])]) w [recordPiece] =
        readBytes s (touched s u [(0, [recordPiece])]) w [recordPiece]) := by
  intro w hw s hs f hf
  subst hw hs hf
  refine ⟨readyM _ _ _ _ ?_ ?_, ?_, rfl, _, _, _, elems, found _ ?_, ?_, rfl, ?_, ?_, ?_, found _ ?_, elem_free ?_,
    List.forall_mem_cons.2 ⟨⟨_, _, rfl⟩, List.forall_mem_singleton.2 ⟨_, _, rfl⟩⟩, ?_, ?_⟩ <;> decide +kernel

/-- A warp whose lane 1 names the page at 0x10000, which is not resident; the line of lane 0 is poisoned, or not. -/
def wfar : Warp :=
  { wm [(65, 0x10000)] [] with r := { (wm [(65, 0x10000)] []).r with g := open8.set 0 ⟨0, 0x200, 0, false, true, true⟩ } }
def sfar (bad : List Nat) : State := { mst wfar [(0x2014008, 6)] with poison := bad }
def word0 : Piece := ⟨.phys, 0x2020000, 4, some false, 0, 0, 0⟩
theorem readyF (i : Instr) (bad : List Nat) (l : legal0 i = true) : Ready i (sfar bad) wfar := by
  rw [legal0, Bool.and_eq_true] at l
  exact ⟨rfl, rfl, rfl, rfl, by simpa using l.1, fun _ => (by decide +kernel : (sfar []).ctxSup 0 = true), l.2, ⟨rfl, rfl⟩⟩
theorem test_meets_LoadsComplete_substitutes : ∀ f : Fields, f = { blank with minor := 14, opb := 1, qual := 9 } → ∀ s, s = sfar [0x40400] →
    Ready (.ld f) s wfar ∧ active s wfar f ≠ 0 ∧ f.minor.getLsbD 2 = true ∧
    ∃ u, accessLanes s (env s wfar f) (segOf f) 4 .rd (f.qual.getLsbD 0) (lanesAt s wfar f (active s wfar f)) =
      (u, [(0, .ok [word0]), (1, .absent 0x10000)]) ∧ ∃ va, [word0].findSome? (pieceFault u .rd) = some (5, va) := by
  intro f hf s hs
  subst hf hs
  refine ⟨readyF _ _ ?_, ?_, ?_, _, found _ ?_, 0, ?_⟩ <;> decide +kernel
theorem test_meets_partial : ∀ f : Fields, f = { blank with minor := 10, opb := 1, qual := 8 } → ∀ s, s = sfar [] →
    (Ready (.gath f) s wfar ∧ active s wfar f ≠ 0 ∧ ∃ u,
      checkLanes s (env s wfar f) (segOf f) 4 .rd (lanesOf (active s wfar f &&& ~~~kr wfar 1)) =
        (u, [(0, .ok [word0]), (1, .bad 1 0x10000)]) ∧ word0.held u (.near s.cur.core) false = false) ∧
    Ready (.scat f) s wfar ∧ wfar.stnt = [] ∧ ∃ u,
      checkLanes s (env s wfar f) (segOf f) 4 .wr (lanesOf (active s wfar f &&& ~~~kr wfar 1)) =
        (u, [(0, .ok [word0]), (1, .bad 1 0x10000)]) ∧ word0.held u (.near s.cur.core) true = false ∧
      stagingAt s.cur.core [word0] = none := by
  intro f hf s hs
  subst hf hs
  refine ⟨⟨readyF _ _ ?_, ?_, _, found _ ?_, ?_⟩, readyF _ _ ?_, rfl, _, found _ ?_, ?_, ?_⟩ <;> decide +kernel


theorem test_meets_Atomics : ∀ w, w = wm [(65, 1)] [] → ∀ s, s = mst w [] →
    ∀ f : Fields, f = { blank with typ := 4, imm := 16 } → ∀ f', f' = { blank with imm := 16, opc := 0 } →
    (Ready (.atom f) s w ∧ active s w f ≠ 0 ∧ w.stnt = [] ∧
      ∃ u, Reaches s u w f (segOf f) 4 .rw false (lanesAt s w f (active s w f))
        [(0, [⟨.phys, 0x2020010, 4, some false, 0, 16, 0⟩]), (1, [⟨.phys, 0x2020010, 4, some false, 0, 16, 1⟩])]) ∧
    Ready (.atomw f') s w ∧ active s w f' ≠ 0 ∧
      ∃ u, Reaches s u w f' (segOf f') 16 .rw false (lanesAt s w f' (active s w f'))
        [(0, [⟨.phys, 0x2020010, 16, some false, 0, 16, 0⟩]), (1, [⟨.phys, 0x2020010, 16, some false, 0, 16, 1⟩])] := by
  intro w hw s hs f hf f' hf'
  subst hw hs hf hf'
  refine ⟨⟨readyM _ _ _ _ ?_ ?_, ?_, rfl, reaches_of _ ?_ ?_⟩, readyM _ _ _ _ ?_ ?_, ?_, reaches_of _ ?_ ?_⟩ <;> decide +kernel

/-- A pending non-temporal store of one byte, and a warp that holds it or a latched discard. -/
def pend : List PendPart := [⟨0x2020000, 0, [9], some false⟩]
def wpend : Warp := { w0 with stnt := [pend] }
def wlatch : Warp := { w0 with latch := some 0x40 }
theorem test_meets_NonTemporalStores : (∀ w, w = wm vv [] → ∀ s, s = mst w [] → ∀ f : Fields, f = { blank with minor := 2, opb := 1, qual := 8 } →
      Ready (.stnt f) s w ∧ active s w f ≠ 0 ∧ ∃ u, accessLanes s (env s w f) (segOf f) 4 .wr false (lanesAt s w f (active s w f)) =
        (u, two.map fun x => (x.1, .ok x.2))) ∧
    ((stateOf wpend).pkg.powered = true ∧ (stateOf wpend).warp 96 0 = some wpend ∧ wpend.stnt[0]? = some pend ∧
      PendFree (stateOf wpend) 96 [pend] ∧ (∀ x ∈ wpend.stnt.take 0, pendOverlap pend x = false)) ∧
    (∀ i ∈ [.drainnt blank, .fenceCode blank], Ready i (stateOf wpend) wpend ∧ active (stateOf wpend) wpend blank ≠ 0 ∧
      PendFree (stateOf wpend) 96 wpend.stnt ∧ wpend.latch = none) ∧
    (∀ i ∈ [.drainnt blank, .fenceCode blank], Ready i (stateOf wlatch) wlatch ∧ active (stateOf wlatch) wlatch blank ≠ 0 ∧
      wlatch.stnt = [] ∧ wlatch.latch = some 0x40) ∧
    Ready (.fenceIo { blank with minor := 1 }) s0 w0 ∧ Ready (.fenceEng { blank with minor := 2 }) s0 w0 ∧ active s0 w0 blank ≠ 0 ∧ w0.cfgs = [] ∧ w0.maps = [] ∧ w0.fbs = [] ∧ s0.past = [] := by
  have free : PendFree (stateOf wpend) 96 [pend] := by
    intro st hs p hp
    cases List.mem_singleton.1 hs
    cases List.mem_singleton.1 hp
    exact ⟨by decide, by decide⟩
  refine ⟨?_, ⟨rfl, rfl, rfl, free, by decide⟩, ?_, ?_, ready0 _ ?_ ?_, ready0 _ ?_ ?_, ?_, rfl, rfl, rfl, rfl⟩
  · intro w hw s hs f hf
    subst hw hs hf
    exact ⟨readyM _ _ _ _ (by decide) (by decide), by decide, _, found _ (by decide +kernel)⟩
  · intro i hi
    have l : [.drainnt blank, .fenceCode blank].all legal0 = true := by decide
    have e := List.all_eq_true.1 l i hi
    rw [legal0, Bool.and_eq_true] at e
    exact ⟨ready_of i _ rfl rfl (by simpa using e.1) e.2, by decide, free, rfl⟩
  · intro i hi
    have l : [.drainnt blank, .fenceCode blank].all legal0 = true := by decide
    have e := List.all_eq_true.1 l i hi
    rw [legal0, Bool.and_eq_true] at e
    exact ⟨ready_of i _ rfl rfl (by simpa using e.1) e.2, by decide, rfl, rfl⟩
  all_goals decide

/-- A state whose granule 1 is full. -/
def fullSt (w : Warp) : State := { mst w [] with cores := bare ++ [{ coreOf w with full := [1] }] }
/-- A fragment parked at LDFE on granule 2 since time 5, and 16 ms later. -/
def wwait : Warp := { w0 with frags := { st := .parked, pc := 0x100000, mem := 0xFFFF, exm := 0xFFFF, wait := some (.fullEmpty 5 [(3, 2)]) } :: List.replicate 7 {} }
theorem test_meets_FullEmptyAccesses : (∀ w, w = wm [] [] → ∀ f : Fields, f = { blank with imm := 16, opc := 1 } →
      (Ready (.ldfe f) (fullSt w) w ∧ active (fullSt w) w f ≠ 0 ∧
        (∃ u, Reaches (fullSt w) u w f 1 4 .rd false (lanesAt (fullSt w) w f (active (fullSt w) w f))
          [(0, [⟨.scr 96, 16, 4, none, 0, 16, 0⟩]), (1, [⟨.scr 96, 16, 4, none, 0, 16, 1⟩])]) ∧
        ∀ x ∈ [(0, [(⟨.scr 96, 16, 4, none, 0, 16, 0⟩ : Piece)]), (1, [⟨.scr 96, 16, 4, none, 0, 16, 1⟩])], ∀ p ∈ x.2,
          p.addr / 16 ∈ ((fullSt w).core (fullSt w).cur.core).full ∧
            fillRunning (fullSt w) ((fullSt w).core (fullSt w).cur.core) (p.addr / 16) = false) ∧
      Ready (.stfe f) (fullSt w) w ∧
        ∃ u, Reaches (fullSt w) u w f 1 4 .wr false (lanesAt (fullSt w) w f (active (fullSt w) w f))
          [(0, [⟨.scr 96, 16, 4, none, 0, 16, 0⟩]), (1, [⟨.scr 96, 16, 4, none, 0, 16, 1⟩])]) ∧
    ∀ s, s = { stateOf wwait with pkg := { (stateOf wwait).pkg with gtime := 16000005 } } →
      s.pkg.powered = true ∧ s.warp 96 0 = some wwait ∧ (wwait.frag 0).st = .parked ∧ (wwait.frag 0).wait = some (.fullEmpty 5 [(3, 2)]) ∧
      2 ∉ (s.core 96).full ∧ spGet none (s.core 96).prod 2 = none ∧ 5 + 16000000 ≤ s.pkg.gtime ∧
      spGet 0 (s.core 96).regEnd 2 + 16000000 ≤ s.pkg.gtime := by
  refine ⟨fun w hw f hf => ?_, fun s hs => ?_⟩
  · subst hw hf
    refine ⟨⟨⟨rfl, rfl, rfl, rfl, ?_, fun _ => ?_, ?_, rfl, rfl⟩, ?_, reaches_of _ ?_ ?_, ?_⟩, ⟨rfl, rfl, rfl, rfl, ?_, fun _ => ?_, ?_, rfl, rfl⟩,
      reaches_of _ ?_ ?_⟩ <;> decide +kernel
  · subst hs
    refine ⟨rfl, rfl, rfl, rfl, ?_, ?_, ?_, ?_⟩ <;> decide

/-! ### Hypotheses that are met: caches, barriers, waits, tasks -/

/-- A warp with 128 in s2, 64 in s4 and 1 in s5. -/
def wc : Warp := wm vv [(2, 128), (4, 64), (5, 1)]
def sc : State := mst wc []
theorem readyC (i : Instr) (l : legal0 i = true) : Ready i sc wc := readyM i _ _ _ l (by decide +kernel)
theorem extent_of {f : Fields} {e : Nat} (rs : List (Nat × Nat × Nat)) (a : e = 1 → sr sc wc f.opb.toNat ≠ 0)
    (b : segCheck ((wc.r.g[segOf f]?).getD {}) (scalarAt sc wc f) (if e = 1 then (sr sc wc f.opb.toNat).toNat else 1) false = none)
    (c : (let sp := flushSpan (env sc wc f) (segOf f) (scalarAt sc wc f) (if e = 1 then (sr sc wc f.opb.toNat).toNat else 1)
      (if e = 2 then flushPage sc (.near 96) wc sp.1 else flushRanges sc (.near 96) wc (splitPages sp.1 sp.2))).2 = some rs) :
    ∃ u, Extent sc u wc f e rs := ⟨_, a, b, found _ c⟩
/-- The line, and the lanes' parts, of the page's first byte. -/
def byte0 : Piece := ⟨.phys, 0x2020000, 1, some false, 0, 0, 0⟩
def line0 : Piece := ⟨.phys, 0x2020000, 128, some false, 0, 0, 0⟩

theorem test_meets_CacheControl : (Ready (.pft blank) sc wc ∧ active sc wc blank ≠ 0) ∧
    (Ready (.cflush { blank with minor := 7, opb := 2 }) sc wc ∧ (∃ u, Extent sc u wc { blank with minor := 7, opb := 2 } 1 [(0, 0x2020000, 128)] ∧
      knownLines u 0x2020000 128 = [])) ∧
    (Ready (.iflush { blank with opb := 2 }) sc wc ∧ ∃ u, Extent sc u wc { blank with opb := 2 } 1 [(0, 0x2020000, 128)]) ∧
    (Ready (.llock blank) sc wc ∧ Ready (.lunlk blank) sc wc ∧
      (∃ u, laneAccess sc (env sc wc blank) (segOf blank) (scalarAt sc wc blank) 0 1 .rd false = (u, .ok [byte0])) ∧
      isRemote byte0.addr = false ∧ lockOwner sc (lineOf byte0.addr) = none ∧ sc.lockWait = [] ∧ slLocks sc (sliceOf (lineOf byte0.addr * 128)) < 32) ∧
    Ready (.lnclaim blank) sc wc ∧ wc.stnt = [] ∧ scalarAt sc wc blank % 128 = 0 ∧
    ∃ u, laneAccess sc (env sc wc blank) (segOf blank) (scalarAt sc wc blank) 0 128 .wr false = (u, .ok [line0]) ∧
      line0.held u (.near sc.cur.core) true = false := by
  refine ⟨⟨readyC _ ?_, ?_⟩, ⟨readyC _ ?_, _, ⟨?_, ?_, found _ ?_⟩, ?_⟩, ⟨readyC _ ?_, extent_of _ ?_ ?_ ?_⟩,
    ⟨readyC _ ?_, readyC _ ?_, ⟨_, found _ ?_⟩, ?_, ?_, rfl, ?_⟩, readyC _ ?_, rfl, ?_, _, found _ ?_, ?_⟩ <;> decide +kernel

/-- The barrier object at offset 64. -/
def obj : Piece := ⟨.scr 96, 64, 32, none, 0, 64, 0⟩
theorem names_of {f : Fields} {major : Nat} {acc : Acc}
    (h : (scalarAccess sc (env sc wc f) major 1 (sr sc wc f.opa.toNat).toNat 32 acc).2 = .ok [obj]) : ∃ u, Names sc u wc f major acc obj :=
  ⟨_, found _ h, rfl⟩
theorem test_meets_Barriers : ∀ f : Fields, f = { blank with opa := 4, bimm := true, imm := 1 } → active sc wc f ≠ 0 ∧
    (Ready (.binit f) sc wc ∧ (∃ u, Names sc u wc f 0xB0 .wr obj) ∧ 1 ≤ countOf sc wc f ∧ countOf sc wc f ≤ 65535) ∧
    (Ready (.barv f) sc wc ∧ (∃ u, Names sc u wc f 0xB1 .wr obj) ∧ wc.part.length < 8 ∧ barPz (object sc obj.addr) = false ∧ ShadowsFit sc wc [0]) ∧
    (Ready (.bexp f) sc wc ∧ Ready (.bexp { f with minor := 1 }) sc wc ∧ (∃ u, Names sc u wc f 0xB2 .wr obj) ∧ countOf sc wc f < 2 ^ 31) ∧
    (Ready (.bdrop { blank with opa := 4 }) sc wc ∧ ∃ u, Names sc u wc { blank with opa := 4 } 0xB5 .wr obj) ∧
    (Ready (.bwait { blank with opa := 4, opb := 5 }) sc wc ∧ (∃ u, Names sc u wc { blank with opa := 4, opb := 5 } 0xB3 .rd obj) ∧
      barPhase (object sc obj.addr) ≠ (sr sc wc 5).toNat % 2 ^ 32) ∧
    Ready (.btest { blank with opa := 4, opb := 5 }) sc wc ∧ ∃ u, Names sc u wc { blank with opa := 4, opb := 5 } 0xB4 .rd obj := by
  intro f hf
  subst hf
  refine ⟨?_, ⟨readyC _ ?_, names_of ?_, ?_, ?_⟩, ⟨readyC _ ?_, names_of ?_, ?_, ?_, ?_⟩, ⟨readyC _ ?_, readyC _ ?_, names_of ?_, ?_⟩,
    ⟨readyC _ ?_, names_of ?_⟩, ⟨readyC _ ?_, names_of ?_, ?_⟩, readyC _ ?_, names_of ?_⟩ <;> decide +kernel

/-- The small state with a launch of two workgroups that share three tiles of four units, the warp in the first; one group. -/
def sl : State :=
  { s0 with
    launches := [{ noLaunch w0 with id := 0, kk := 4, tiles := 3, grid := 2, groups := [{ members := [(0, 1)], exp := 1 }] }],
    groups := [⟨0, 0, 0, .grid 1, 0, 96, 0, 0, 1, 1, 0, false, [], [], []⟩] }
theorem readyL (i : Instr) (l : legal0 i = true) : Ready i sl w0 := by
  rw [legal0, Bool.and_eq_true] at l
  exact ⟨rfl, rfl, rfl, rfl, by simpa using l.1, fun _ => by decide, l.2, ⟨rfl, rfl⟩⟩
theorem test_meets_WaitsComplete : (Ready (.seqw blank) sl w0 ∧ active sl w0 blank ≠ 0 ∧ ShadowsFit sl w0 [0, 1] ∧ (sl.comb 12).chain = []) ∧
    (Ready (.grpsync blank) sl w0 ∧ groupOf sl w0 0 = some { members := [(0, 1)], exp := 1 } ∧ w0.grp = []) ∧
    (Ready (.iter blank) sl w0 ∧ (sl.wgroup w0.wg).map (fun g => g.kind) = some (.grid 1) ∧ (launchOf sl w0).kk ≠ 0) ∧
    Ready (.waitc { blank with minor := 2 }) sl w0 ∧ w0.m.queue = [] ∧ w0.trv = [] := by
  refine ⟨⟨readyL _ ?_, ?_, ?_, rfl⟩, ⟨readyL _ ?_, ?_, rfl⟩, ⟨readyL _ ?_, ?_, ?_⟩, readyL _ ?_, rfl, rfl⟩ <;> decide

/-- Bytes that are a task record, a watch of 4 bytes, and a queue header for two records at offset 64. -/
def st : State := mst wc [(0x2020008, 4), (0x2020040, 2)]
theorem reaches_at {u : State} {w : Warp} {f : Fields} {seg size : Nat} {acc : Acc} {fb : Bool} {offs : List (Nat × Nat)}
    (xs : List (Nat × List Piece)) (h : (accessLanes u (env u w f) seg size acc fb offs).2 = xs.map fun x => (x.1, .ok x.2))
    (k : (xs.all fun x => x.2.all fun p => (pieceFault (accessLanes u (env u w f) seg size acc fb offs).1 acc p).isNone &&
      !p.held (accessLanes u (env u w f) seg size acc fb offs).1 (.near u.cur.core) acc.writes) = true) :
    Reaches u (accessLanes u (env u w f) seg size acc fb offs).1 w f seg size acc fb offs xs := by
  simp only [List.all_eq_true, Bool.and_eq_true, Option.isNone_iff_eq_none, Bool.not_eq_true'] at k
  exact ⟨found _ h, fun x hx p hp => (k x hx p hp).1, fun x hx p hp => (k x hx p hp).2⟩
theorem get_of {α : Type} {o : Option α} (h : o.isSome = true) : o = some (o.get h) := (Option.some_get h).symm
theorem readyT (i : Instr) (l : legal0 i = true) : Ready i st wc := readyM i _ _ _ l (by decide +kernel)
/-- The end of a task record with nothing set. -/
def task0 : TaskRec := ⟨0, 0, 0, 1, 0, [0, 0], [0, 0]⟩
def rec64 : Piece := ⟨.phys, 0x20200C0, 64, some false, 0, 0xC0, 0⟩
def watch96 : Piece := ⟨.phys, 0x2020000, 96, some false, 0, 0, 0⟩
def hdr64 : Piece := ⟨.phys, 0x2020040, 64, some false, 0, 64, 0⟩
theorem test_meets_Tasks : (∃ u, Ready (.spawn { blank with imm := 0xC0 }) st wc ∧ active st wc blank ≠ 0 ∧ ShadowsFit st wc [0] ∧
      scalarAccess st (env st wc { blank with imm := 0xC0 }) 0xB8 0 0xC0 64 .rd = (u, .ok [rec64]) ∧
      rec64.held u (.near st.cur.core) false = false ∧ taskRec (readBytes st (touched st u [(0, [rec64])]) wc [rec64]) = some task0 ∧
      (launchOf st wc).fitsEmpty 1 = true ∧ wc.cslot < st.ctxs.length ∧ (st.ctx wc.cslot).tasks.length < 4096) ∧
    (∃ u u' bs, Ready (.watch blank) st wc ∧ scalarAccess st (env st wc blank) 0xB9 0 0 96 .rd = (u, .ok [watch96]) ∧
      watch96.held u (.near st.cur.core) false = false ∧ bs = readBytes st (touched st u [(0, [watch96])]) wc [watch96] ∧
      wordAt bs 0 = 0 ∧ wordAt bs 1 = 4 ∧ wordAt bs 3 = 0 ∧ (taskRec (bs.drop 32)).isSome = true ∧
      translate (touched st u [(0, [watch96])]) (.near st.cur.core) wc.cslot wc.ctxid 400 0 .rd false = (u', .ok 0x2020000 (some false) 0 0) ∧
      (∀ ln ∈ linesOf 0x2020000 4, sliceEntries st (sliceOf (ln * 128)) < 64) ∧ freeHandle st wc.cslot = some 0) ∧
    (Ready (.unwatch { blank with opa := 5 }) st wc ∧ (sr st wc 5).toNat < 256) ∧
    ∀ f : Fields, f = { blank with opb := 4 } → ∃ u u' u'' h xs, Ready (.rqpush f) st wc ∧ wc.stnt = [] ∧
      scalarAccess st (env st wc f) 0xBC 5 64 64 .wr = (u, .ok [hdr64]) ∧ h = queueHdr (leNat (homeBytes u wc [hdr64])) ∧
      h.malformed (launchOf st wc) = false ∧ h.room = 2 ∧ h.cpc = 0 ∧ h.tail = 0 ∧ h.cap = 2 ∧
      Reaches u u' wc f 5 16 .wr false [(0, 128), (1, 144)] xs ∧ hdr64.held u' (.near st.cur.core) true = false ∧
      bindQueue u' wc.cslot wc.launch 0x2020040 (sr st wc 4) h = some u'' := by
  refine ⟨⟨_, readyT _ ?_, ?_, ?_, found _ ?_, ?_, ?_, ?_, ?_, ?_⟩,
    ⟨_, _, _, readyT _ ?_, found _ ?_, ?_, rfl, ?_, ?_, ?_, ?_, found _ ?_, ?_, ?_⟩, ⟨readyT _ ?_, ?_⟩, fun f hf => ?last⟩
  case last =>
    subst hf
    refine ⟨_, _, _, _, [(0, [⟨.phys, 0x2020080, 16, some false, 0, 128, 0⟩]), (1, [⟨.phys, 0x2020090, 16, some false, 0, 144, 1⟩])],
      readyT _ ?_, rfl, found _ ?_, rfl, ?_, ?_, ?_, ?_, ?_, reaches_at _ ?_ ?_, ?_, get_of ?_⟩ <;> decide +kernel
  all_goals decide +kernel

/-! ### Hypotheses that are met: streams and the matrix unit -/

theorem test_meets_BitStreams : ∀ f : Fields, f = { blank with typ := 4, bimm := true, imm := 5 } →
    (Ready (.decw f) sc wc ∧ active sc wc f ≠ 0 ∧ (sr sc wc 0).toNat < 2 ^ 26 ∧ widthOf sc wc f = 5 ∧
      (let d := decodeStream 0 32 5 (sgn f) (streamBits (leNat (sc.scrBytes sc.cur.core 0 24)) 0) 0 2 0
       StreamOk wc 0 d.used false ∧ d.state = none ∧ d.used = 10) ∧ ShadowsFit sc wc [0]) ∧
    Ready (.packw f) sc wc ∧ StreamOk wc 0 10 true ∧ lanesOf (active sc wc f) = [0, 1] := by
  intro f hf
  subst hf
  refine ⟨⟨readyC _ ?_, ?_, ?_, ?_, ⟨?_, ?_, ?_⟩, ?_⟩, readyC _ ?_, ?_, ?_⟩ <;> decide +kernel

theorem test_meets_MatrixIssue : (∀ i ∈ [.mfree blank, .mzero blank, .mldD (ft 5), .mldF { ft 5 with minor := 1, imm := 0x800000 },
      .mstD (ft 5), .mstF { ft 5 with minor := 1 }, .mma (ft 5), .mma (ft 11), .maddf { ft 5 with imm := 0x800000 }, .maddm blank,
      .mmulf blank, .mrcmp blank, .mdns blank, .mscl (ft 5), .mmovm blank], Ready i s0 w0) ∧
    (∀ f ∈ [blank, ft 5, ft 11, { ft 5 with minor := 1, imm := 0x800000 }, { ft 5 with minor := 1 }, { ft 5 with imm := 0x800000 }],
      active s0 w0 f = fullMask w0.width ∧ active s0 w0 f ≠ 0 ∧ MayQueue w0 f) ∧
    blank.opa.toNat + 8 * (64 / w0.width) ≤ 64 + 32 * w0.r.xgrant := by
  refine ⟨ready_all ?_, ?_, ?_⟩ <;> decide

/-- A warp with a dense register m1 and s1 = 1, and a second warp with a stopped fragment and a held queue in slot 1. -/
def wd : Warp := { ws [(1, 1)] with m := { w0.m with regs := {} :: { dense := true } :: List.replicate 14 {} } }
def wstop : Warp :=
  { w0 with m := { w0.m with held := true }, frags := { st := .stopped, mem := 0xFFFF, exm := 0xFFFF } :: List.replicate 7 {} }
def sd : State := { stateOf wd with cores := bare ++ [{ slots := [some wd, some wstop] }] }
theorem readyD (i : Instr) (l : legal0 i = true) : Ready i sd wd := by
  rw [legal0, Bool.and_eq_true] at l
  exact ⟨rfl, rfl, rfl, rfl, by simpa using l.1, fun _ => by decide, l.2, ⟨rfl, rfl⟩⟩
theorem test_meets_MatrixDirect : (Ready (.mrsv { blank with imm := 2 }) sd wd ∧ active sd wd blank ≠ 0 ∧ wd.m.queue = [] ∧
      (sd.core sd.cur.core).mrsv = [] ∧ 0 < wd.m.regs.length ∧
      (freeCells (sd.core sd.cur.core) (2 - (wd.mreg 0).res)).length = 2 - (wd.mreg 0).res) ∧
    Ready (.mrank blank) sd wd ∧ Ready (.mrankErr { blank with minor := 1 }) sd wd ∧ ShadowsFit sd wd [0] ∧
    (Ready (.mmovv { blank with opa := 1 }) sd wd ∧ (wd.mreg 1).dense = true ∧ wd.width ∣ 64) ∧
    Ready (.mrowp { blank with opa := 1 }) sd wd ∧ Ready (.mrowpSet { blank with opa := 1, opb := 1, minor := 1 }) sd wd ∧
    sd.ctxSup wd.cslot = true ∧ (sr sd wd 1).toNat < 64 ∧ sd.warp sd.cur.core (sr sd wd 1).toNat = some wstop ∧
    (∃ fr ∈ wstop.frags, fr.st = .stopped) ∧ wstop.m.held = true := by
  refine ⟨⟨readyD _ ?_, ?_, rfl, rfl, ?_, ?_⟩, readyD _ ?_, readyD _ ?_, ?_, ⟨readyD _ ?_, ?_, ?_⟩, readyD _ ?_, readyD _ ?_, ?_, ?_, ?_, ?_, rfl⟩ <;>
    decide +kernel

/-- A matrix operation with some actions left, in the queue of the small state's warp, with or without the unit. -/
def mop (i : Instr) : MatOp := ⟨i, 0x100000, 0xFFFF, [], [], 0, 0, 0, false, 0⟩
def mrun (acts : List MatAct) : MatRun := ⟨acts, [(128, List.replicate 256 0)], 0, none⟩
def wq (i : Instr) (acts : List MatAct) : Warp :=
  { w0 with r := { w0.r with g := open8 }, m := { w0.m with queue := [mop i], run := some (mrun acts) } }
def sq (i : Instr) (acts : List MatAct) (unit : Option Nat) : State :=
  { stateOf (wq i acts) with cores := bare ++ [{ slots := [some (wq i acts)], unit := unit }] }
def hq (i : Instr) (acts : List MatAct) : MatHead := ⟨0, wq i acts, mop i, some (mrun acts)⟩

theorem test_meets_MatrixSteps : (∀ i, i = .mfree blank → ∀ acts, acts = [.charge, .whole, .finish] → ∀ s, s = sq i acts none →
      s.pkg.powered = true ∧ s.running 96 = true ∧ (s.core 96).unit = none ∧ (matHeads s 96).find? MatHead.unweighed = none ∧
      chooseHead (s.tower 0).clock ((matHeads s 96).filter MatHead.weighed) = some (hq i acts) ∧
      matCost (wq i acts) (mop i) (mrun acts) ≤ (s.core 96).purse) ∧
    (∀ i, i = .mldD (ft 5) → ∀ acts, acts = [.row 0, .finish] → ∀ s, s = sq i acts (some 0) →
      (matHeads s 96).find? (fun h => h.slot == 0) = some (hq i acts) ∧ (s.core 96).bad = [] ∧ (s.core 96).weak = [] ∧
      (rowElems (mop i) ((mrun acts).bytes 128)).1.length = 64) ∧
    (∀ i, i = .mldD { ft 5 with minor := 8, imm := 64 } → ∀ acts, acts = [.consumed, .finish] → ∀ s, s = sq i acts (some 0) →
      headWith s 96 (fun a => a == .consumed) = some (hq i acts, mrun acts, .consumed) ∧ (mop i).bar = some 64 ∧
      segCheck (seg (wq i acts) 1) 64 32 true = none) ∧
    (∀ i, i = .mldD (ft 5) → ∀ acts, acts = [.finish] → ∀ s, s = sq i acts (some 0) →
      headWith s 96 (fun a => a == .finish) = some (hq i acts, mrun acts, .finish)) ∧
    (∀ i, i = .mldD (ft 5) → ∀ acts, acts = [.stop 3 64 1 0] → ∀ s, s = sq i acts (some 0) →
      headWith s 96 (fun a => match a with
        | .stop _ _ _ _ => true
        | _ => false) = some (hq i acts, mrun acts, .stop 3 64 1 0)) ∧
    ∀ i, i = .mldD (ft 5) → ∀ acts, acts = [.error 0x14 2] → ∀ s, s = sq i acts (some 0) →
      headWith s 96 (fun a => match a with
        | .error _ _ => true
        | _ => false) = some (hq i acts, mrun acts, .error 0x14 2) := by
  refine ⟨?_, ?_, ?_, ?_, ?_, ?_⟩ <;> intro i hi acts ha s hs <;> subst hi ha hs
  · exact ⟨rfl, by decide, rfl, by rfl, by rfl, by decide⟩
  · exact ⟨by rfl, rfl, rfl, by decide +kernel⟩
  · exact ⟨by rfl, by decide, by decide⟩
  all_goals rfl
/-- The head of a warp's queue whose registers 0 to 2 are given, on a unit that is to make an action; the rows read hold
zeros. -/
def mop' (i : Instr) (p : Mask) : MatOp := ⟨i, 0x100000, p, [], [], 0, 0, 0, false, 0⟩
def mrun' (acts : List MatAct) : MatRun := ⟨acts, (List.range 192).map fun i => (i, List.replicate 256 0), 0, none⟩
def wreg (i : Instr) (p : Mask) (acts : List MatAct) (regs : List MReg) : Warp :=
  { w0 with r := { w0.r with g := open8 },
            m := { w0.m with regs := regs ++ List.replicate 13 {}, queue := [mop' i p], run := some (mrun' acts) } }
def sreg (i : Instr) (p : Mask) (acts : List MatAct) (regs : List MReg) : State :=
  { mst (wreg i p acts regs) [] with
    cores := bare ++ [{ slots := [some (wreg i p acts regs)], unit := some 0, used := List.range 96 }] }
theorem unit_of (i : Instr) (p : Mask) (a : MatAct) (regs : List MReg)
    (h : ((rowsLeft (wreg i p [a, .finish] regs) (mop' i p)).all (· < 64) && decide ((mop' i p).dst < 16)) = true)
    (l : regs.length = 3) : AtUnit (sreg i p [a, .finish] regs) 96 0 (wreg i p [a, .finish] regs) (mop' i p)
      (mrun' [a, .finish]) a [.finish] := by
  rw [Bool.and_eq_true] at h
  refine ⟨⟨rfl, (by decide : s0.running 96 = true)⟩, rfl, rfl, rfl, ⟨rfl, rfl⟩, fun j hj => by simpa using List.all_eq_true.1 h.1 j hj, ?_⟩
  have e : (wreg i p [a, .finish] regs).m.regs.length = 16 := by simp [wreg, l]
  rw [e]
  simpa using h.2
/-- A factored register of some rank, and a dense one, of 32 cells each. -/
def fac (c r : Nat) : MReg := { rank := r, cells := (List.range 32).map (· + c) }
def den (c : Nat) : MReg := { dense := true, cells := (List.range 32).map (· + c) }
/-- The registers' cells are their own and enough. -/
def cellsOk (used : List Nat) (m : MReg) : Bool :=
  decide m.cells.Nodup && m.cells.all used.contains && (m.dense || decide (m.rank ≤ m.res)) && (!m.dense || decide (32 ≤ m.res))
theorem cells_of {k : Core} {m : MReg} (h : cellsOk k.used m = true) : CellsOf k m := by
  simp only [cellsOk, Bool.and_eq_true, decide_eq_true_eq, List.all_eq_true, List.contains_iff_mem, Bool.or_eq_true,
    Bool.not_eq_true'] at h
  exact ⟨h.1.1.1, h.1.1.2, fun e => h.1.2.resolve_left (by rw [e]; decide), fun e => h.2.resolve_left (by rw [e]; decide)⟩

theorem test_meets_MatrixSteps_rows :
    (∀ i ∈ [.mldD (ft 5), .mma { ft 5 with opa := 4 }, .maddf { ft 5 with imm := 0x800000 }, .mstD { ft 5 with minor := 2 },
      .mstF { ft 5 with minor := 2 }], AtUnit (sreg i 0xFFFF [.row 3, .finish] [fac 0 1, {}, {}]) 96 0
        (wreg i 0xFFFF [.row 3, .finish] [fac 0 1, {}, {}]) (mop' i 0xFFFF) (mrun' [.row 3, .finish]) (.row 3) [.finish]) ∧
    (∀ i, i = .mstF { ft 5 with minor := 4 } → AtUnit (sreg i 0xFFFF [.vrow 0, .finish] [fac 0 1, {}, {}]) 96 0
      (wreg i 0xFFFF [.vrow 0, .finish] [fac 0 1, {}, {}]) (mop' i 0xFFFF) (mrun' [.vrow 0, .finish]) (.vrow 0) [.finish] ∧
      RowPasses (sreg i 0xFFFF [.vrow 0, .finish] [fac 0 1, {}, {}]) 96 (wreg i 0xFFFF [.vrow 0, .finish] [fac 0 1, {}, {}])
        (mop' i 0xFFFF) (mop' i 0xFFFF).bs ((mop' i 0xFFFF).rowAddr 2 0) 256) ∧
    ∀ i, i = .mstD { ft 5 with minor := 4 } → RowPasses (sreg i 0xFFFF [.row 3, .finish] [fac 0 1, {}, {}]) 96
      (wreg i 0xFFFF [.row 3, .finish] [fac 0 1, {}, {}]) (mop' i 0xFFFF) false ((mop' i 0xFFFF).rowAddr 0 3) 256 := by
  refine ⟨?_, fun i hi => ⟨?_, ?_⟩, fun i hi => ?_⟩
  · intro i hi
    have a : [.mldD (ft 5), .mma { ft 5 with opa := 4 }, .maddf { ft 5 with imm := 0x800000 }, .mstD { ft 5 with minor := 2 },
        .mstF { ft 5 with minor := 2 }].all (fun i => ((rowsLeft (wreg i 0xFFFF [.row 3, .finish] [fac 0 1, {}, {}]) (mop' i 0xFFFF)).all
          (· < 64) && decide ((mop' i 0xFFFF).dst < 16))) = true := by decide +kernel
    exact unit_of _ _ _ _ (List.all_eq_true.1 a i hi) rfl
  · subst hi; exact unit_of _ _ _ _ (by decide +kernel) rfl
  · subst hi
    refine ⟨by decide, ?_⟩
    rw [if_pos (by decide)]
    exact ⟨by decide +kernel, by decide +kernel⟩
  · subst hi
    refine ⟨by decide, ?_⟩
    rw [if_neg (by decide)]
    exact ⟨_, [⟨.phys, 0x2020000, 256, some false, 0, 0, 0⟩], found _ (by decide +kernel)⟩

/-- The operations that are made in one action, with their registers and lanes. -/
def wholes : List (Instr × Mask × List MReg) :=
  [(.mfree blank, 0xFFFF, [fac 0 1, {}, {}]), (.mzero blank, 0xFFFF, [fac 0 1, {}, {}]), (.mzero blank, 3, [den 0, {}, {}]),
   (.mzero blank, 3, [fac 0 1, {}, {}]), (.mzero { blank with minor := 1 }, 0xFFFF, [fac 0 1, {}, {}]), (.mdns blank, 3, [fac 0 1, {}, {}]),
   (.mscl (ft 5), 3, [fac 0 1, {}, {}]), (.mscl (ft 5), 3, [den 0, {}, {}]), (.mmovm blank, 3, [den 0, {}, {}]),
   (.mldF { ft 5 with imm := 0x800000 }, 0xFFFF, [fac 0 1, {}, {}]), (.mldF { ft 5 with imm := 0x800000 }, 0xFFFF, [{}, {}, {}]),
   (.maddf { ft 5 with imm := 0x800000 }, 3, [fac 0 1, {}, {}]), (.maddm { blank with opa := 1 }, 3, [den 0, den 32, {}]),
   (.maddm { blank with opa := 1 }, 3, [fac 0 1, fac 32 2, {}]), (.mmulf { blank with opa := 1, opb := 2 }, 3, [fac 0 1, fac 32 2, den 64]),
   (.mrcmp blank, 0xFFFF, [fac 0 1, {}, {}])]
theorem test_meets_MatrixSteps_whole : (∀ x ∈ wholes, AtUnit (sreg x.1 x.2.1 [.whole, .finish] x.2.2) 96 0
      (wreg x.1 x.2.1 [.whole, .finish] x.2.2) (mop' x.1 x.2.1) (mrun' [.whole, .finish]) .whole [.finish] ∧
      CellsOf ((sreg x.1 x.2.1 [.whole, .finish] x.2.2).core 96) ((x.2.2[0]?).getD {})) ∧
    laneCount 0xFFFF = w0.width ∧ laneCount 3 ≠ w0.width ∧ (∀ k, MayDensify k (fac 0 1) false) ∧ (∀ k, MayDensify k (den 0) false) ∧
    (∀ i, i = .mldF { ft 5 with imm := 0x800000 } → ∀ o, o = mop' i 0xFFFF → o.count = 1 ∧ o.count ≤ (fac 0 1).res ∧ ({} : MReg).res < o.count ∧
      (freeCells ({ used := List.range 96 } : Core) 32).length = 32 ∧ rowsLeft (wreg i 0xFFFF [.whole, .finish] [{}, {}, {}]) o = List.range 64 ∧
      (List.range 64).all (fun j => (rowElems o ((mrun' []).bytes (128 + j))).1.length == o.count ||
        (rowElems o ((mrun' []).bytes (128 + j))).1.length == 64) = true ∧ (rowElems o ((mrun' []).bytes 0)).1.length = 64) ∧
    Fits (fac 0 1) 1 ∧ Fits (fac 0 1) 2 := by
  refine ⟨?_, ?_, ?_, fun k => .inr (.inl (by decide)), fun k => .inl rfl, ?_, ?_, ?_⟩
  · intro x hx
    have a : wholes.all (fun x => ((rowsLeft (wreg x.1 x.2.1 [.whole, .finish] x.2.2) (mop' x.1 x.2.1)).all (· < 64) &&
        decide ((mop' x.1 x.2.1).dst < 16)) && (decide (x.2.2.length = 3) && cellsOk (List.range 96) ((x.2.2[0]?).getD {}))) = true := by
      decide +kernel
    have b := List.all_eq_true.1 a x hx
    simp only [Bool.and_eq_true (a := _ && _) (b := _ && _), Bool.and_eq_true (a := decide _), decide_eq_true_eq] at b
    exact ⟨unit_of _ _ _ _ b.1 b.2.1, cells_of b.2.2⟩
  · decide
  · decide
  · intro i hi o ho; subst hi ho; decide +kernel
  · decide
  · decide

/-! ### Hypotheses that are met: the chain table -/

/-- Four slots of the chain table: slot 0 FREE, slot 1 OPEN, slot 2 SEALED, one element each. -/
def slots4 : List Host.Cell := [(0x2020040, 1), (0x202006A, 1), (0x202006C, 1), (0x2020080, 2), (0x20200AA, 1), (0x20200AC, 1)]
/-- A warp whose g6 covers them, with references to slots 1 and 2, a descriptor of one element, and a stale reference to slot 0. -/
def wk : Warp :=
  { wc with r := { wc.r with g := wc.r.g.set 6 ⟨0, 1, 0, false, true, true⟩, s := [(1, 1), (2, 2), (3, 0x10001), (4, 0x10000)] } }
def sk : State := mst wk slots4
theorem readyK (i : Instr) (l : legal0 i = true) : Ready i sk wk := by
  rw [legal0, Bool.and_eq_true] at l
  exact ⟨rfl, rfl, rfl, rfl, by simpa using l.1, fun _ => by decide +kernel, l.2, ⟨rfl, rfl⟩⟩
/-- The parts of slot `i`. -/
def slotPart (i : Nat) : List Piece := [⟨.phys, 0x2020000 + 64 * i, 64, some false, 0, 64 * i, 0⟩]
theorem get2_of {α β : Type} {o : Option (α × β)} (h : o.isSome = true) : o = some ((o.get h).1, (o.get h).2) := (Option.some_get h).symm

/-- Slots 1 and 2 as read. -/
def open1 : Nat := 1 + 2 ^ 336 + 2 ^ 352
def sealed2 : Nat := 2 + 2 ^ 336 + 2 ^ 352
theorem test_meets_ChainTable_open : (Ready (.hstat { blank with opa := 2 }) sk wk ∧ active sk wk blank ≠ 0 ∧ ShadowsFit sk wk [0] ∧
      (sr sk wk 2).toNat < 256 ∧ ∃ u, slotAccess (env sk wk { blank with opa := 2 }) sk 0xD1 (sr sk wk 2).toNat .rd false = (u, .ok (slotPart 2))) ∧
    (Ready (.fopen { blank with opc := 3 }) sk wk ∧ wk.stnt = [] ∧ (sr sk wk 3).getLsbD 48 = false ∧
      ∃ u, slotAccess (env sk wk { blank with opc := 3 }) sk 0xD2 0 .rw true = (u, .ok (slotPart 0)) ∧
        slMalformed (slotBits u wk (slotPart 0)) = false ∧ slState (slotBits u wk (slotPart 0)) = 0) ∧
    (Ready (.fseal { blank with opa := 1 }) sk wk ∧ slotRef (sr sk wk 1) = some (1, 0) ∧ wk.latch = none ∧ groupBusy sk wk.wg = false ∧
      ∃ u, slotAccess (env sk wk { blank with opa := 1 }) sk 0xD3 1 .rw true = (u, .ok (slotPart 1)) ∧
        slotBits u wk (slotPart 1) = open1 ∧ slMalformed open1 = false ∧ slGen open1 = 0 ∧ slState open1 = 1) ∧
    ∃ u u1 u2 table views, Ready (.fret { blank with opa := 2 }) sk wk ∧ slotRef (sr sk wk 2) = some (2, 0) ∧
      slotAccess (env sk wk { blank with opa := 2 }) sk 0xD5 2 .rw true = (u, .ok (slotPart 2)) ∧ slotBits u wk (slotPart 2) = sealed2 ∧
      slMalformed sealed2 = false ∧ slGen sealed2 = 0 ∧ slState sealed2 = 2 ∧ min 256 ((seg wk 6).lim.toNat * 256 / 64) = 4 ∧
      slotsTaken (env sk wk { blank with opa := 2 }) 0xD5 .rd u (List.range 4) = some (u1, table) ∧
      slotsTaken (env sk wk { blank with opa := 2 }) 0xD5 .rw u1
        ((((table.map fun y => (y.1, y.2.2)).zip (retireSlots 2 (table.map fun y => (y.1, y.2.2)))).filter fun y => y.1.2 != y.2.2).map
          fun y => y.2.1) = some (u2, views) := by
  refine ⟨⟨readyK _ ?_, ?_, ?_, ?_, _, found _ ?_⟩, ⟨readyK _ ?_, rfl, ?_, _, found _ ?_, ?_, ?_⟩,
    ⟨readyK _ ?_, ?_, rfl, ?_, _, found _ ?_, ?_, ?_, ?_, ?_⟩, _, _, _, _, _, readyK _ ?_, ?_, found _ ?_, ?_, ?_, ?_, ?_, ?_,
    get2_of ?_, get2_of ?_⟩ <;> decide +kernel

/-- A fragment parked at an instruction with a wait. -/
def wpark (x : Wait) (exm : Mask) : Warp :=
  { wk with frags := { st := .parked, pc := 0x100000, mem := 0xFFFF, exm := exm, act := exm, wait := some x } :: List.replicate 7 {} }
def spark (x : Wait) (exm : Mask) : State := mst (wpark x exm) slots4
theorem waiting_of (i : Instr) (x : Wait) (exm : Mask) (l : legal0 i = true) : Waiting i (spark x exm) (wpark x exm) x := by
  rw [legal0, Bool.and_eq_true] at l
  exact ⟨rfl, rfl, rfl, rfl, by simpa using l.1, fun _ => (by decide +kernel : sk.ctxSup 0 = true), l.2, ⟨rfl, rfl⟩⟩
/-- An address's access answers parts, said by a function that decides it. -/
def isVa (ps : List Piece) : VaRes (List Piece) → Bool
  | .ok qs => qs == ps
  | _ => false
theorem va_of {p : State × VaRes (List Piece)} {ps : List Piece} (h : isVa ps p.2 = true) : p = (p.1, .ok ps) := by
  obtain ⟨u, r⟩ := p
  cases r with
  | ok qs => rw [show qs = ps by simpa [isVa] using h]
  | _ => exact absurd h Bool.false_ne_true
/-- The composition of a cell of slot 1 by way of slot 2, and with every cell composed. -/
def comp (cell hop : Nat) : Compose := ⟨1, 0, open1, [(2, sealed2)], (2, 0), cell, hop, 4, 4, 0, 0, true⟩
theorem test_meets_ChainTable_compose : ∀ f : Fields, f = { blank with opa := 1, opb := 2, imm := 2 } →
    (∀ x, x = Wait.composing (comp 0 1) → ∀ w, w = wpark x 3 → ∀ s, s = spark x 3 → Waiting (.fcomp f) s w x ∧ (Claims.frag s w).act ≠ 0 ∧
      w.stnt = [] ∧ (comp 0 1).cell < slWid open1 * slHgt open1 ∧ (comp 0 1).next = none ∧
      ∃ u, vaAccess (envAt s w f (Claims.frag s w).act) s (.l2 (towerOf s.cur.core)) 0 .wr 0 4 =
        (u, .ok [⟨.phys, 0x2020000, 4, some false, 0, 0, 0⟩])) ∧
    ∀ x, x = Wait.composing (comp 1 0) → ∀ w, w = wpark x 3 → ∀ s, s = spark x 3 → ∃ u1 u2 u3 u4 now,
      Waiting (.fcomp f) s w x ∧ (Claims.frag s w).act ≠ 0 ∧ ShadowsFit s w [f.dst.toNat] ∧ slWid open1 * slHgt open1 ≤ (comp 1 0).cell ∧
      slotAccess (envAt s w f (Claims.frag s w).act) s 0xD4 1 .rw true = (u1, .ok (slotPart 1)) ∧
      slotsTaken (envAt s w f (Claims.frag s w).act) 0xD4 .rd u1 [2] = some (u2, now) ∧
      slotAccess (envAt s w f (Claims.frag s w).act) u2 0xD4 2 .rd true = (u3, .ok (slotPart 2)) ∧
      slotAccess (envAt s w f (Claims.frag s w).act) u3 0xD4 2 .rw true = (u4, .ok (slotPart 2)) ∧
      slMalformed (slotBits u1 w (slotPart 1)) = false ∧ slMalformed (slotBits u3 w (slotPart 2)) = false ∧
      now.all (fun y => !slMalformed y.2.2) = true := by
  intro f hf
  subst hf
  refine ⟨fun x hx w hw s hs => ?_, fun x hx w hw s hs => ?_⟩ <;> subst hx hw hs
  · exact ⟨waiting_of _ _ _ (by decide), by decide +kernel, rfl, by decide +kernel, by decide +kernel, _, va_of (by decide +kernel)⟩
  · refine ⟨_, _, _, _, _, waiting_of _ _ _ ?_, ?_, ?_, ?_, found _ ?_, get2_of ?_, found _ ?_, found _ ?_, ?_, ?_, ?_⟩ <;> decide +kernel

/-- Every walk of a list has ended well. -/
def allOk {α : Type} : Option (List (Nat × Except WalkFail α)) → Bool
  | some l => l.all fun x => match x.2 with
    | .ok _ => true
    | .error _ => false
  | none => false
theorem ends_of {α : Type} {o : Option (List (Nat × Except WalkFail α))} (h : allOk o = true) :
    ∃ ends : List (Nat × α), o = some (ends.map fun h => (h.1, .ok h.2)) := by
  match o, h with
  | some l, h =>
    induction l with
    | nil => exact ⟨[], rfl⟩
    | cons x xs ih =>
      have h' : (match x.2 with
        | .ok _ => true
        | .error _ => false) = true ∧ allOk (some xs) = true := by simpa [allOk] using h
      obtain ⟨es, e⟩ := ih h'.2
      rcases x with ⟨L, _ | y⟩
      · exact absurd h'.1 Bool.false_ne_true
      · exact ⟨(L, y) :: es, by simpa using e⟩
/-- HLD by a stale reference to slot 0, in the two lanes of a fragment that stands ready, and parked with its first lane done. -/
def fh : Fields := { blank with opb := 4, opc := 12, typ := 5, imm := 1 }
def fh1 : Fields := { fh with opb := 1 }
def walks2 (x : List WalkAns) : List LaneWalk := [⟨0, [0], x⟩, ⟨1, [8], []⟩]
def hwait : Wait := .walks 0x10000 (walks2 [.data [0]])
/-- The same fragment with one lane, whose walk is then the one chosen. -/
def wk1 : Warp := { wk with frags := { st := .ready, pc := 0x100000, mem := 0xFFFF, exm := 1 } :: List.replicate 7 {} }
def sk1 : State := mst wk1 slots4
theorem readyK1 (i : Instr) (l : legal0 i = true) : Ready i sk1 wk1 := by
  rw [legal0, Bool.and_eq_true] at l
  exact ⟨rfl, rfl, rfl, rfl, by simpa using l.1, fun _ => (by decide +kernel : sk1.ctxSup 0 = true), l.2, ⟨rfl, rfl⟩⟩
theorem test_meets_ChainTable_load : (∀ act, act = active sk1 wk1 fh1 → Walks (.hld fh1) sk1 wk1 fh1 (fun L => [v wk1 fh1.opa.toNat L]) act 1
      ((lanesOf act).map fun L => ⟨L, [v wk1 fh1.opa.toNat L], []⟩) ∧ (slotRef 1).isSome = true ∧
      ∃ u ws', stepWalks (hldWalk fh1 1) (hldAnswer (envAt sk1 wk1 fh1 act)) sk1
        ((lanesOf act).map fun L => ⟨L, [v wk1 fh1.opa.toNat L], []⟩) = (u, ws') ∧ (walkEnds (hldWalk fh1 1) ws').isNone = true) ∧
    ∀ w, w = wpark hwait 3 → ∀ s, s = spark hwait 3 → Walks (.hld fh) s w fh (fun L => [v w fh.opa.toNat L]) 3 0x10000 (walks2 [.data [0]]) ∧
      ∃ u ws', stepWalks (hldWalk fh 0x10000) (hldAnswer (envAt s w fh 3)) s (walks2 [.data [0]]) = (u, ws') ∧
        ∃ ends : List (Nat × HldEnd), walkEnds (hldWalk fh 0x10000) ws' = some (ends.map fun h => (h.1, .ok h.2)) := by
  refine ⟨fun act ha => ?_, fun w hw s hs => ?_⟩
  · subst ha
    exact ⟨⟨.inl ⟨readyK1 _ (by decide), rfl, by decide, rfl⟩, by decide, by decide⟩, by decide, _, _, rfl, by decide +kernel⟩
  · subst hw hs
    exact ⟨⟨.inr ⟨waiting_of _ _ _ (by decide), rfl⟩, by decide, by decide⟩, _, _, rfl, ends_of (by decide +kernel)⟩

/-! ### Hypotheses that are met: traversal and the raster -/

/-- The page tables with a 2 MiB page at virtual address 0 (R66). -/
def tables2 : List Host.Cell :=
  tables.filter (fun c => decide (c.1 < 0x2013000)) ++ [(0x2013000, 0x73), (0x2013002, 0x20), (0x2013003, 2)]
/-- A record queue for two records at 64, and two blocks of one triangle; the node at 0x200 has no children, the one at 0x280 has
itself as a child. -/
def big : List Host.Cell := [(0x2200040, 2), (0x2200108, 1), (0x2200148, 1), (0x22002E8, 1)]
/-- The warp with operations of PAIR in flight, and its state. -/
def wpair (o : List PairOp) : Warp := { wm vv [(4, 64), (7, 0x10000)] with trv := o }
def spair (w : Warp) : State := { sline w with mem := tables2 ++ big }
/-- An operation with a stack, and entries of a block with itself and of two blocks. -/
def pop (ph : PairPhase) (es : List PairEntry) : PairOp := ⟨0x100000, 1, 5, 64, 0x10000, ph, some es, 3, [], 0⟩
def selfE : PairEntry := ⟨0x100, 0x100, true, true, 2, 2, 0, 0, 0, true, true⟩
def crossE : PairEntry := ⟨0x100, 0x140, true, true, 2, 2, 0, 0, 0, false, false⟩
theorem readyP (i : Instr) (l : legal0 i = true) : Ready i (spair (wpair [])) (wpair []) := by
  rw [legal0, Bool.and_eq_true] at l
  exact ⟨rfl, rfl, rfl, rfl, by simpa using l.1, fun _ => by decide +kernel, l.2, ⟨rfl, rfl⟩⟩
/-- The answers that the first reads of a walk of the operation get, one after another. -/
def answers {α : Type} (s : State) (w : Warp) (p : TraceWalking α) : Nat → List WalkAns → List WalkAns
  | 0, got => got
  | n + 1, got => match p.feed got with
    | .ask a _ => match (pairAnswer s 96 w a).2 with
      | some x => answers s w p n (got ++ [x])
      | none => got
    | _ => got
/-- What a walk has come to, as data: a read, an end, or a fault. -/
def doneWith {α : Type} [DecidableEq α] (b : α) : TraceWalking α → Bool
  | .done x => decide (x = b)
  | _ => false
theorem done_of {α : Type} [DecidableEq α] {p : TraceWalking α} (b : α) (h : doneWith b p = true) : p = .done b := by
  cases p <;> simp_all [doneWith]
def asksFor {α : Type} (a : TraceAsk) : TraceWalking α → Bool
  | .ask b _ => decide (b = a)
  | _ => false
theorem ask_of {α : Type} {p : TraceWalking α} (a : TraceAsk) (h : asksFor a p = true) : ∃ k, p = .ask a k := by
  cases p <;> simp_all [asksFor]
def failsWith {α : Type} (x : WalkFail) : TraceWalking α → Bool
  | .fail y => decide (y = x)
  | _ => false
theorem fail_of {α : Type} {p : TraceWalking α} (x : WalkFail) (h : failsWith x p = true) : p = .fail x := by
  cases p <;> simp_all [failsWith]

/-- A warp of one lane with the addresses of the two nodes. -/
def wtr : Warp :=
  { wm [] [(6, 0x200), (8, 0x280)] with frags := { st := .ready, pc := 0x100000, mem := 0xFFFF, exm := 1 } :: List.replicate 7 {} }
theorem readyTr (i : Instr) (l : legal0 i = true) : Ready i (spair wtr) wtr := by
  rw [legal0, Bool.and_eq_true] at l
  exact ⟨rfl, rfl, rfl, rfl, by simpa using l.1, fun _ => by decide +kernel, l.2, ⟨rfl, rfl⟩⟩
/-- TRACE from the node in s[n]. -/
def ftr (n : BitVec 8) : Fields := { ft 5 with opb := n, dst := 20 }
/-- The walks of its one lane at their start. -/
def wst : List LaneWalk := [⟨0, (List.range 8).map fun j => v wtr ((ft 5).opa.toNat + j) 0, []⟩]

theorem test_meets_Traversal_trace : ∀ f s w act root first, first = f.qual.getLsbD 0 → act = active s w f → w = wtr → s = spair w →
    ((f = ftr 8 ∧ root = 0x280) ∨ (f = ftr 6 ∧ root = 0x200)) → ∃ u ws',
      Walks (.trace f) s w f (fun L => (List.range 8).map fun j => v w (f.opa.toNat + j) L) act root wst ∧
      stepWalks (traceWalk first root) (traceAnswer (envAt s w f act)) s wst = (u, ws') ∧
      (f = ftr 8 → walkEnds (traceWalk first root) ws' = none) ∧
      (f = ftr 6 → ∃ ks : List (Nat × TraceEnd), walkEnds (traceWalk first root) ws' = some (ks.map fun k => (k.1, .ok k.2))) := by
  intro f s w act root first h1 h2 h3 h4 h5
  subst h4 h3
  rcases h5 with ⟨h, h'⟩ | ⟨h, h'⟩ <;> subst h h' h2 h1
  · exact ⟨_, _, ⟨.inl ⟨readyTr _ (by decide), rfl, by decide, by decide⟩, by decide, by decide⟩, rfl,
      fun _ => Option.isNone_iff_eq_none.1 (by decide +kernel), fun h => absurd h (by decide)⟩
  · exact ⟨_, _, ⟨.inl ⟨readyTr _ (by decide), rfl, by decide, by decide⟩, by decide, by decide⟩, rfl,
      fun h => absurd h (by decide), fun _ => ends_of (by decide +kernel)⟩

/-- A read of a page not resident. -/
theorem test_meets_Traversal_absent : ∀ f s w act L ask, f = ftr 6 → w = wm [] [] → s = mst w [(0x2014008, 6)] → act = 1 → L = 0 →
    ask = ⟨0x10000, 128⟩ → ∃ u, s.warp s.cur.core s.cur.slot = some w ∧ traceAnswer (envAt s w f act) s L ask = (u, some .absent) := by
  intro f s w act L ask h1 h2 h3 h4 h5 h6
  subst h3 h2 h1 h4 h5 h6
  exact ⟨_, rfl, found _ (by decide +kernel)⟩

theorem test_meets_Traversal_pair : ∀ w, w = wpair [] → ∀ s, s = spair w →
    (∀ i ∈ [.pair { blank with pk := 2 }, .pairx { blank with pk := 2 }], Ready i s w) ∧ active s w { blank with pk := 2 } = 0 ∧ ShadowsFit s w [0] ∧
    ∃ f u, f = { blank with opb := 4, opc := 7 } ∧ Ready (.pair f) s w ∧ Ready (.pairx f) s w ∧ active s w f ≠ 0 ∧ w.trv.length < 255 ∧
      pairChecks (env s w f) s (sr s w f.opb.toNat).toNat (sr s w f.opc.toNat).toNat = (u, .ok []) ∧
      (settleStores u s.cur.core s.cur.slot).isSome = true := by
  intro w hw s hs
  subst hw hs
  refine ⟨?_, ?_, ?_, _, _, rfl, readyP _ ?_, readyP _ ?_, ?_, ?_, found _ ?_, ?_⟩
  case refine_1 =>
    intro i hi
    have l : [.pair { blank with pk := 2 }, .pairx { blank with pk := 2 }].all legal0 = true := by decide
    exact readyP i (List.all_eq_true.1 l i hi)
  all_goals decide +kernel

/-- An operation with the answers that the first reads of a walk got. -/
def popAt {α : Type} (ph : PairPhase) (es : List PairEntry) (p : TraceWalking α) (n : Nat) : PairOp :=
  { pop ph es with got := answers (spair (wpair [pop ph es])) (wpair [pop ph es]) p n [] }
/-- The bytes of the pair of the two blocks, and a continuation at an address that none of them is aligned for. -/
def pairData : List Byte := [0, 0, 0, 0, 0xFF, 0xFF, 0xFF, 0xFF, 0, 0, 0, 0, 0xFF, 0xFF, 0xFF, 0xFF]
theorem test_meets_Traversal_reads : ∀ o1, o1 = pop .run [crossE] → ∀ o2, o2 = pop .load [] → ∀ o3, o3 = popAt .load [] (loadStack 0x10000) 1 →
    ∀ s : PairOp → State, s = (fun o => spair (wpair [o])) →
    ((s o1).pkg.powered = true ∧ (s o1).pairOp 96 0 0 = some (wpair [o1], o1) ∧ o1.phase = .run ∧ o1.stack = some [crossE] ∧
      ∃ a k u x, (expandEntry crossE).feed o1.got = .ask a k ∧ pairAnswer (s o1) 96 (wpair [o1]) a = (u, some x)) ∧
    ((s o2).pkg.powered = true ∧ (s o2).pairOp 96 0 0 = some (wpair [o2], o2) ∧ o2.phase = .load ∧
      ∃ a k u x, (loadStack o2.cont.toNat).feed o2.got = .ask a k ∧ pairAnswer (s o2) 96 (wpair [o2]) a = (u, some x)) ∧
    ((s o3).pairOp 96 0 0 = some (wpair [o3], o3) ∧ o3.phase = .load ∧ (loadStack o3.cont.toNat).feed o3.got = .done []) ∧
    (∀ o, o = { pop .run [crossE] with got := [.bad { cause := 3 }] } → o.stack = some [crossE] ∧ (expandEntry crossE).feed o.got = .fail { cause := 3 }) ∧
    ∀ o, o = { pop .load [] with got := [.data [2049]] } → (loadStack o.cont.toNat).feed o.got = .fail { cause := 0x0D } := by
  intro o1 h1 o2 h2 o3 h3 s hs
  subst h1 h2 h3 hs
  refine ⟨⟨rfl, rfl, rfl, rfl, ?_⟩, ⟨rfl, rfl, rfl, ?_⟩, ⟨rfl, rfl, done_of _ (by decide +kernel)⟩, fun o ho => ?_, fun o ho => ?_⟩
  · obtain ⟨k, hk⟩ := ask_of (p := (expandEntry crossE).feed (pop .run [crossE]).got) ⟨0x100, 64⟩ (by decide +kernel)
    exact ⟨_, k, _, _, hk, found _ (get_of (by decide +kernel))⟩
  · obtain ⟨k, hk⟩ := ask_of (p := (loadStack (pop .load []).cont.toNat).feed (pop .load []).got) ⟨0x10000, 64⟩ (by decide +kernel)
    exact ⟨_, k, _, _, hk, found _ (get_of (by decide +kernel))⟩
  · subst ho
    exact ⟨rfl, fail_of _ (by decide +kernel)⟩
  · subst ho
    exact fail_of _ (by decide +kernel)

theorem test_meets_Traversal_steps :
    (∀ o, o = pop .run [selfE] → (spair (wpair [o])).pairOp 96 0 0 = some (wpair [o], o) ∧ o.stack = some [selfE] ∧
      (expandEntry selfE).feed o.got = .done (.entries [])) ∧
    (∀ o, o = popAt .run [crossE] (expandEntry crossE) 9 → ∃ u, (spair (wpair [o])).pairOp 96 0 0 = some (wpair [o], o) ∧
      o.stack = some [crossE] ∧ (expandEntry crossE).feed o.got = .done (.emit pairData) ∧
      appendRecord (spair (wpair [o])) 96 (wpair [o]) o.queue pairData = (u, .ok)) ∧
    (∀ put ∈ [0, 1], ∀ o, o = { pop (.finish true) [crossE] with put := put } → ∃ va data u, (spair (wpair [o])).pairOp 96 0 0 = some (wpair [o], o) ∧
      contPiece o.cont.toNat (o.stack.getD []) o.put = some (va, data) ∧ devWrite (spair (wpair [o])) (pairCtx 96 (wpair [o])) va data = (u, .ok ())) ∧
    (∀ o, o = { pop (.finish true) [crossE] with put := 2 } → contPiece o.cont.toNat (o.stack.getD []) o.put = none) ∧
    ∀ o, o = { pop (.stopping 3 64 1 0) [crossE] with put := 2 } → (spair (wpair [o])).pairOp 96 0 0 = some (wpair [o], o) ∧
      (spair (wpair [o])).pkg.powered = true ∧ ∀ st, o.stack = some st → contPiece o.cont.toNat st o.put = none := by
  refine ⟨?_, ?_, ?_, ?_, ?_⟩
  · intro o ho
    subst ho
    exact ⟨rfl, rfl, done_of _ (by decide +kernel)⟩
  · intro o ho
    subst ho
    exact ⟨_, rfl, rfl, done_of _ (by decide +kernel), found _ (by decide +kernel)⟩
  · intro p hp o ho
    simp only [List.mem_cons, List.not_mem_nil, or_false] at hp
    rcases hp with rfl | rfl <;> subst ho <;> exact ⟨_, _, _, rfl, rfl, found _ (by decide +kernel)⟩
  · intro o ho
    subst ho
    rfl
  · intro o ho
    subst ho
    refine ⟨rfl, rfl, fun st h => ?_⟩
    cases h
    rfl

/-- A warp with the key 5 in s1, 128 KiB of scratchpad, and an entry of the tile directory for its key. -/
def wz : Warp :=
  { wm [(65, 1)] [(1, 5), (2, 0x8000)] with r := { (wm [(65, 1)] [(1, 5), (2, 0x8000)]).r with g := open8.set 1 ⟨0, 0x200, 0, false, true, true⟩ } }
def tile5 (wg : Nat) : Tile := ⟨0, 0, 5, tileSlice 0 5, wg, 0, 0⟩
def sz (ts : List Tile) : State := { mst wz [] with tiles := ts }
theorem readyZ (i : Instr) (ts : List Tile) (l : legal0 i = true) : Ready i (sz ts) wz := by
  rw [legal0, Bool.and_eq_true] at l
  have c : (mst wz []).ctxSup 0 = true := by decide +kernel
  exact ⟨rfl, rfl, rfl, rfl, by simpa using l.1, fun _ => c, l.2, ⟨rfl, rfl⟩⟩
theorem test_meets_Raster : Ready (.cover { blank with dst := 20 }) s0 w0 ∧
    (∀ f, f = { ft 5 with dst := 3, opa := 10, opb := 1, opc := 2 } → Ready (.ztst f) (sz []) wz ∧ active (sz []) wz f ≠ 0 ∧
      segCheck (seg wz 1) 0x8000 16384 true = none ∧ ∀ L ∈ lanesOf (active (sz []) wz f), (op32 (sz []) wz f.bscl f.opb L).toNat < 4096) ∧
    (∀ ts ∈ [[], [tile5 0], [tile5 1]], Ready (.tlacq { blank with opa := 1, opb := 2, opc := 3, minor := 3 }) (sz ts) wz ∧
      Ready (.tlrel { blank with opa := 1 }) (sz ts) wz ∧ active (sz ts) wz blank ≠ 0 ∧ ShadowsFit (sz ts) wz [0] ∧
      (ts.filter fun x => x.wg == wz.wg).length < 8 ∧ tilesIn (sz ts) (tileSlice 0 5) < 64 ∧ oldestWaiter (sz ts) 0 5 = none) ∧
    segCheck (seg wz 1) 0x8000 32768 true = none ∧ (sz []).tile wz.ctxid 5 = none ∧ (sz [tile5 0]).tile wz.ctxid 5 = some (tile5 0) ∧
    (sz [tile5 1]).tile wz.ctxid 5 = some (tile5 1) ∧
    Ready (.ordwWait { blank with opa := 1, opb := 4 }) (sz [tile5 0]) wz ∧ Ready (.ordwAdv { blank with opa := 1, minor := 1 }) (sz [tile5 0]) wz ∧
    (sr (sz [tile5 0]) wz 4).toNat = 0 := by
  refine ⟨ready0 _ ?_ ?_, ?_, ?_, ?_, ?_, ?_, ?_, readyZ _ _ ?_, readyZ _ _ ?_, ?_⟩
  case refine_3 =>
    intro f hf
    subst hf
    exact ⟨readyZ _ _ (by decide), by decide, by decide, by decide⟩
  case refine_4 =>
    intro ts hts
    refine ⟨readyZ _ _ (by decide), readyZ _ _ (by decide), ?_⟩
    revert ts
    decide
  all_goals decide

/-! ### Hypotheses that are met: privileged control -/

/-- A warp of context 7 in slot 1 of the core, of workgroup 5; with a stopped fragment, and with a held matrix queue. -/
def wv : Warp := freshWarp 9 1 7 0 5 0 16 0x100000
def wvs : Warp := { wv with frags := { st := .stopped, pc := 0x100000, mem := 0xFFFF, exm := 0xFFFF } :: List.replicate 7 {} }
def wvh : Warp :=
  { wv with
    m := { wv.m with held := true, queue := [mop (.mfree blank)] },
    frags := { st := .stopped, pc := 0x100000, mem := 0xFFFF, exm := 0xFFFF, byHeld := some .ready } :: List.replicate 7 {} }
/-- The supervisor warp: its target in s1, a slot in s2, context 7 as a target in s3 and as a number in s4, the words of a segment
of 256 bytes in s5, and a TLBINV range in s6. -/
def wp : Warp := ws [(1, 0x700000009), (2, 1), (3, 0x700000000), (4, 7), (5, 0x10003), (6, 0x2000)]
/-- Its core with the other warp, context 7 in slot 1 with a fault queue of 16 records that holds two, and a number of units for
saved images. -/
def sp (other : Warp) (saved : Bool) (units : W32) : State :=
  { stateOf wp with
    cores := bare ++ [{ slots := [some wp, some other], records := [] }] ++ pad,
    mem := [(0x2000000, 3), (0x2000040, 1), (0x2000050, 2), (0x2000054, 7), (0x2000056, 16)],
    ctxs := [{}, { svbase := 0x3000000, svsize := units }], groups := [⟨0, 0, 0, .grid 0, 0, 96, 0, 0, 1, 1, 0, false, [], [], []⟩, ⟨5, 0, 1, .grid 0, 0, 96, 0, 0, 1, 1, 0, saved, [], [], []⟩] }
theorem readyS (i : Instr) (o : Warp) (b : Bool) (n : W32) (l : legal0 i = true) : Ready i (sp o b n) wp := by
  rw [legal0, Bool.and_eq_true] at l
  have c : (sp wv false 0).ctxSup 0 = true := by decide
  exact ⟨rfl, rfl, rfl, rfl, by simpa using l.1, fun _ => c, l.2, ⟨rfl, rfl⟩⟩

/-- A warp of context 7 whose pending store used a cached entry, and that entry. -/
def wuse : Warp := { wvs with stnt := [[⟨0x2400000, 0x40, [9], some false⟩]] }
def tlb7 : TlbEntry := ⟨7, 4, 0, 0⟩
def suse : State := { sp wuse false 0 with tlb := [tlb7] }
theorem readyU (i : Instr) (l : legal0 i = true) : Ready i suse wp := by
  rw [legal0, Bool.and_eq_true] at l
  have c : suse.ctxSup 0 = true := by decide
  exact ⟨rfl, rfl, rfl, rfl, by simpa using l.1, fun _ => c, l.2, ⟨rfl, rfl⟩⟩
theorem test_meets_SegmentsAndTlb : ∀ s, s = suse → active s wp blank ≠ 0 ∧ SegWord (sr s wp 5) ∧
    (∀ n < 8, SegFits n 16 (segFrom (sr s wp 5) (sr s wp 0)) ∧ SegFits n 1 (segFrom (sr s wp 5) (sr s wp 0))) ∧
    (∀ i ∈ [.segld { blank with opb := 5 }, .segldW { blank with opb := 5, opc := 2, minor := 1 }, .tlbinvAll blank,
      .tlbinvCtx { blank with opa := 4, minor := 1 }, .tlbinvPage { blank with opa := 4, opb := 1, minor := 2 },
      .tlbinvRange { blank with opa := 4, opb := 6, opc := 6, minor := 3 }], Ready i s wp) ∧
    s.warp s.cur.core (sr s wp 2).toNat = some wuse ∧ (∃ fr ∈ wuse.frags, fr.st = .stopped) ∧ (sr s wp 4).toNat < 2 ^ 16 ∧
    liveEntry s wp { blank with opa := 4 } tlb7 = true ∧ Meets tlb7 0 1 ∧ Meets tlb7 (sr s wp 6).toNat (sr s wp 6).toNat ∧
    (sr s wp 6).toNat + (sr s wp 6).toNat ≤ 2 ^ 56 ∧ usedGone s (fun _ => true) wuse = true ∧
    ∀ x ∈ s.warps, ∀ st ∈ x.2.2.stnt, ∀ p ∈ st, s.poisoned p.addr p.data.length = false ∧
      ∀ ln ∈ linesOf p.addr p.data.length, s.writeHeld ln = false ∧ activeReq s (towerOf x.1) ln = none := by
  intro s hs
  subst hs
  refine ⟨?_, ?_, ?_, ?l, rfl, ?_, ?_, ?_, ?_, ?_, ?_, ?_, ?_⟩
  case l =>
    intro i hi
    have l : [.segld { blank with opb := 5 }, .segldW { blank with opb := 5, opc := 2, minor := 1 }, .tlbinvAll blank,
      .tlbinvCtx { blank with opa := 4, minor := 1 }, .tlbinvPage { blank with opa := 4, opb := 1, minor := 2 },
      .tlbinvRange { blank with opa := 4, opb := 6, opc := 6, minor := 3 }].all legal0 = true := by decide
    exact readyU i (List.all_eq_true.1 l i hi)
  all_goals decide

/-- A supervisor warp with a stopped fragment in slot 1, which the resident kernel alone resumes and ends. -/
def wk0 : Warp := { wvs with cslot := 0, ctxid := 0 }
theorem test_meets_Supervisor_kernel : ∀ s, s = sp wk0 false 0 → ∀ f : Fields, f = { blank with opa := 4 } →
    Ready (.wresume f) s wp ∧ active s wp f ≠ 0 ∧ (sr s wp 4).extractLsb' 51 13 = 0 ∧
    targetWarp s 0 9 = some (96, some 1, wk0) ∧ kernelOnly s wk0 = true := by
  intro s hs f hf
  subst hs hf
  exact ⟨readyS _ _ _ _ (by decide), by decide, by decide, by rfl, by decide⟩
theorem test_meets_Supervisor_resume : (∀ s, s = sp wvs false 0 → ∀ f : Fields, f = { blank with opa := 1 } →
      Ready (.wresume f) s wp ∧ active s wp f ≠ 0 ∧ Settleable s wp ∧ (sr s wp 1).extractLsb' 51 13 = 0 ∧
      targetWarp s (tgtCtx (sr s wp 1)) (tgtTag (sr s wp 1)) = some (96, some 1, wvs) ∧ s.ctxSup wvs.cslot = false ∧ wvs.heldPCs = [] ∧
      (wvs.frag (tgtEntry (sr s wp 1))).st = .stopped ∧ (s.core 96).records = [] ∧ HwmOk s wp f wvs) ∧
    (∀ s, s = sp wvh false 0 → ∀ f : Fields, f = { blank with opa := 1 } → Ready (.wresume f) s wp ∧ Settleable s wp ∧
      (Claims.frag s wp).byHeld = none ∧ targetWarp s (tgtCtx (sr s wp 1)) (tgtTag (sr s wp 1)) = some (96, some 1, wvh) ∧
      kernelOnly s wvh = false ∧ wvh.heldPCs ≠ [] ∧ (s.core 96).records = [] ∧ HwmOk s wp f wvh) ∧
    (∀ s, s = sp wvs false 0 → ∀ f : Fields, f = { blank with opa := 1, opb := 6, opc := 6, minor := 3 } → Ready (.wresume f) s wp ∧
      Settleable s wp ∧ pcValid 0x2000 = true ∧ HwmOk s wp f wvs) := by
  refine ⟨?_, ?_, ?_⟩ <;> intro s hs f hf <;> subst hs hf
  · exact ⟨readyS _ _ _ _ (by decide), by decide, ⟨by decide, rfl⟩, by decide, by rfl, by decide, by decide, by decide, rfl, by decide⟩
  · exact ⟨readyS _ _ _ _ (by decide), ⟨by decide, rfl⟩, by decide, by rfl, by decide, by decide, rfl, by decide⟩
  · exact ⟨readyS _ _ _ _ (by decide), ⟨by decide, rfl⟩, by decide, by decide⟩

theorem test_meets_Supervisor_others : ∀ s, s = sp wv false 0 → ∀ g, g = ⟨5, 0, 1, .grid 0, 0, 96, 0, 0, 1, 1, 0, false, [], [], []⟩ →
    (∀ i ∈ [.frqack { blank with opa := 2, opb := 2 }, .wkill { blank with opa := 1 }, .wkillCtx { blank with opa := 3, minor := 1 },
      .ctxsave { blank with opa := 1 }, .ctxsaveCtx { blank with opa := 3, minor := 1 }, .haltc { blank with opa := 4 },
      .haltcGo { blank with opa := 4, minor := 1 }], Ready i s wp) ∧ active s wp blank ≠ 0 ∧ ShadowsFit s wp [0] ∧
    s.ctxValid 1 = true ∧ s.num (s.descAddr 1 + 16) 4 = 2 ∧ s.num (s.descAddr 1 + 12) 4 = 0 ∧
    Target s wp (sr s wp 1) g ∧ (sr s wp 3).toNat = (tgtCtx (sr s wp 3)).toNat * 2 ^ 32 ∧ (tgtCtx (sr s wp 3)).toNat ≠ wp.ctxid.toNat ∧
    s.ctxSlot 7 = some 1 ∧ 1 < s.ctxs.length ∧ (s.groups.filter fun g => g.cslot == 1 && !g.saved && g.ended != g.nw) = [g] ∧
    s.wgroup g.id = some g ∧ (∀ x ∈ s.warps, x.2.2.maps = []) ∧ roomFor s g = false ∧ (evictAll s [5]).2 = (1, false) ∧
    (∀ x ∈ s.warps, kernelOnly s x.2.2 = false) ∧ s.storeHeld (s.descAddr 1 + 12) 4 = false := by
  intro s hs g hg
  subst hs hg
  refine ⟨?l, ?_, ?_, ?_, ?_, ?_, ⟨?_, ?_, ?_, ?_, ?_⟩, ?_, ?_, ?_, ?_, ?_, ?_, ?_, ?_, ?_, ?_, ?_⟩
  case l =>
    intro i hi
    have l : [.frqack { blank with opa := 2, opb := 2 }, .wkill { blank with opa := 1 }, .wkillCtx { blank with opa := 3, minor := 1 },
      .ctxsave { blank with opa := 1 }, .ctxsaveCtx { blank with opa := 3, minor := 1 }, .haltc { blank with opa := 4 },
      .haltcGo { blank with opa := 4, minor := 1 }].all legal0 = true := by decide
    exact readyS i _ _ _ (List.all_eq_true.1 l i hi)
  all_goals decide

theorem test_meets_Supervisor_save : (∃ g, Target (sp wv true 0) wp 0x700000009 g ∧ g.saved = true) ∧
    (∃ g, Target (sp wvs false 0) wp 0x700000009 g ∧ g.saved = false ∧ ∃ x ∈ (sp wvs false 0).warps, x.2.2.wg = g.id ∧ ∃ fr ∈ x.2.2.frags, fr.st = .stopped) ∧
    ∃ g, Target (sp wv false 64) wp 0x700000009 g ∧ g.saved = false ∧ roomFor (sp wv false 64) g = true ∧ commandsHold (sp wv false 64) g = false ∧
      (sp wv false 64).wgroup g.id = some g ∧
      (∀ x ∈ (sp wv false 64).warps, x.2.2.wg = g.id → (∀ fr ∈ x.2.2.frags, fr.st ≠ .stopped) ∧ x.2.2.stnt = [] ∧ x.2.2.trv = [] ∧ x.2.2.cfgs = [] ∧ x.2.2.fbs = []) ∧
      ∀ ln, (sp wv false 64).writeHeld ln = false := by
  refine ⟨⟨⟨5, 0, 1, .grid 0, 0, 96, 0, 0, 1, 1, 0, true, [], [], []⟩, ⟨?_, ?_, ?_, ?_, ?_⟩, ?_⟩, ⟨⟨5, 0, 1, .grid 0, 0, 96, 0, 0, 1, 1, 0, false, [], [], []⟩, ⟨?_, ?_, ?_, ?_, ?_⟩, ?_, ?_⟩,
    ⟨5, 0, 1, .grid 0, 0, 96, 0, 0, 1, 1, 0, false, [], [], []⟩, ⟨?_, ?_, ?_, ?_, ?_⟩, ?_, ?_, ?_, ?_, ?_, fun _ => rfl⟩ <;> decide

/-- A core's fault record of a warp of the context in slot `c`. -/
def frec (c : Nat) : FaultRec := ⟨0, 0, 0, 1, 0, 0, 0, 96, 9, c, 7, 1, 3, 3, 0, 1, 64, 0x100000⟩
def sr_ (c : Nat) (tail : Byte) (cap : Byte) : State :=
  { sp wv false 0 with
    cores := bare ++ [{ slots := [some wp, some wv], records := [frec c] }],
    mem := [(0x2000000, 3), (0x2000040, 1), (0x2000050, tail), (0x2000054, 7), (0x2000056, cap)] }
theorem test_meets_WindowAndRecords : (∃ r p, Ready (.cfgrd { blank with opa := 0 }) (sp wv false 0) wp ∧ Ready (.cfgwr { blank with minor := 1, opb := 2 }) (sp wv false 0) wp ∧
      active (sp wv false 0) wp blank ≠ 0 ∧ Window (sp wv false 0) wp { blank with minor := 1 } r p ∧ ShadowsFit (sp wv false 0) wp [0] ∧ wp.cfgs = []) ∧
    (∀ c ∈ [0, 1], (frec c).cause ≠ 0x15 ∧ ((sr_ c 2 16).core 96).records[0]? = some (frec c)) ∧ (sr_ 0 2 16).ctxSup 0 = true ∧
    ((sr_ 1 2 5).ctxSup 1 = false ∧ ((sr_ 1 2 5).faultQueue 1).usable = false) ∧
    ((sr_ 1 2 16).ctxSup 1 = false ∧ ((sr_ 1 2 16).faultQueue 1).usable = true ∧ ((sr_ 1 2 16).ctx 1).damaged = false ∧
      ((sr_ 1 2 16).faultQueue 1).fill < ((sr_ 1 2 16).faultQueue 1).cap ∧
      ((sr_ 1 2 16).storeHeld (((sr_ 1 2 16).faultQueue 1).base + 64 * (((sr_ 1 2 16).faultQueue 1).tail % ((sr_ 1 2 16).faultQueue 1).cap)) 64 = false ∧
      (sr_ 1 2 16).storeHeld ((sr_ 1 2 16).descAddr 1 + 16) 4 = false)) ∧
    ((sr_ 1 16 16).faultQueue 1).usable = true ∧ ((sr_ 1 16 16).faultQueue 1).cap ≤ ((sr_ 1 16 16).faultQueue 1).fill := by
  refine ⟨⟨.gtime, .whole, readyS _ _ _ _ ?_, readyS _ _ _ _ ?_, ?_, ⟨?_, ?_, ?_⟩, ?_, ?_⟩, ?_, ?_, ⟨?_, ?_⟩, ⟨?_, ?_, ?_, ?_, ?_, ?_⟩, ?_, ?_⟩ <;> decide

/-! ### Hypotheses that are met: registers, tokens, leases -/

/-- The reset state with tower 0 at a step of a change of its layer 1 to a count. -/
def changing (step : BitVec 2) (k : Nat) : State :=
  { State.reset with towers := [{ changing := some (1, k), step := step }, {}] }
theorem test_meets_RegisterWrites : State.reset.pkg.powered = true ∧ State.reset.towers.length = 2 ∧ Accepted State.reset 0 3 ∧
    ¬ Accepted State.reset 0 5 ∧ (∀ k ∈ [1, 3], ∀ st ∈ [1, 2, 3], ((changing st k).tower 0).changing = some (1, k) ∧ ((changing st k).tower 0).step = st) ∧
    ((0x1234567801 : W64).extractLsb' 8 4).toNat < 13 ∧ (0x1234567801 : W64).extractLsb' 4 4 = 0 ∧ ¬ (0x1234567811 : W64).extractLsb' 4 4 = 0 ∧
    3 < State.reset.ctxs.length ∧ 15 < (State.reset.ctx 3).queues.length ∧
    (∀ r ∈ [.llen 1 7, .mcoinr 0, .xplim 255, .ecbase 31, .ecsize 0, .gtime, .cdtbase, .monBin 63 15, .svbase 63, .trole 1, .monCtl 2],
      present State.reset r) ∧
    (∀ x ∈ [(0x10008, 4, MmioReg.qtail 0 0, MmioPart.whole), (0x10000, 8, .qctl 0 0, .whole)], mmioPart x.1 x.2.1 = some (x.2.2.1, x.2.2.2)) ∧
    (∀ r p, mmioPart 0x10000 8 = some (r, p) → r = .qctl 0 0 ∧ p = .whole) ∧
    ({ State.reset with pkg := { hostLink := true } } : State).pkg.hostLink = true ∧
    ({ State.reset with pkg := { hostLink := true } } : State).ctxSup 0 = false ∧ (∃ x ∈ s0.warps, s0.ctxSup x.2.2.cslot = true) ∧
    (∀ s, s = ({ State.reset with monitors := [{ en := true, src := 1, seen := [(7, true)] }] } : State) → sampleFits (s.monitor 0) 7 = true ∧
      (s.monitor 0).bins.length = 16) := by
  refine ⟨rfl, rfl, ?_, ?_, ?_, ?_, ?_, ?_, ?_, ?_, ?_, ?_, ?_, rfl, ?_, ⟨(96, 0, w0), ?_, ?_⟩, ?_⟩
  case refine_9 =>
    intro r hr
    simp only [List.mem_cons, List.not_mem_nil, or_false] at hr
    rcases hr with rfl | rfl | rfl | rfl | rfl | rfl | rfl | rfl | rfl | rfl | rfl <;> simp [present] <;> decide
  case refine_11 =>
    intro r p h
    have e : mmioPart 0x10000 8 = some (.qctl 0 0, .whole) := by decide
    rw [e] at h
    cases h
    exact ⟨rfl, rfl⟩
  case refine_15 =>
    intro s hs
    subst hs
    decide
  all_goals decide

/-- A line of memory, and the reset state with a bank for it in tower 0. -/
def ln0 : Nat := 0x40400
def banked (b : TokenBank) (pers : List PersReq) : State := { State.reset with lines := [(ln0, { bank0 := b })], pers := pers }
def lateBank (b : TokenBank) : State := { banked b [] with towers := [{ clock := 300 }, {}] }
theorem test_meets_TokenMoves : BankOk (bankOf State.reset 96 ln0) ∧ Asks State.reset 96 ln0 false ∧ Asks State.reset 96 ln0 true ∧
    (bankOf State.reset 96 ln0).homeOwner = true ∧ 2 ≤ (bankOf State.reset 96 ln0).home ∧
    (∀ s, s = banked { home := 1, near := [⟨97, 127, false, true⟩] } [] → Asks s 96 ln0 false ∧ (bankOf s 96 ln0).homeOwner = true ∧ (bankOf s 96 ln0).home = 1) ∧
    (∀ s, s = banked { home := 0, homeOwner := false, near := [⟨97, 128, true, true⟩], sentTo := some 97 } [] → Asks s 96 ln0 false ∧
      (bankOf s 96 ln0).homeOwner = false ∧ (bankOf s 96 ln0).sentTo = some 97 ∧ ∀ h ∈ (bankOf s 96 ln0).near, 1 ≤ h.tokens ∧ towerOf h.core = 0) ∧
    (∀ s, s = banked { home := 127, msgs := [⟨some 96, 1, false, true⟩], reqs := [⟨96, false, 0, false, 0, false, false⟩] } [] → (bankOf s 96 ln0).firstTo (some 96) = some 0 ∧
      (∀ r, (bankOf s 96 ln0).req 96 = some r → r.write = false) ∧ activeReq s 0 ln0 = none) ∧
    (∀ s, s = banked { home := 0, homeOwner := false, near := [⟨97, 128, true, true⟩], fwd := [(97, 96)] } [] →
      findIdxFrom (fun x => x.2 == 96) 0 (bankOf s 96 ln0).fwd = some 0 ∧ (bankOf s 96 ln0).held 97 = some ⟨97, 128, true, true⟩ ∧
      activeReq s 0 ln0 ≠ some 97) ∧
    (∀ s, s = banked { fwd := [(97, 96)] } [] → (bankOf s 96 ln0).held 97 = none) ∧
    (∀ s, s = banked { home := 100, msgs := [⟨none, 28, false, false⟩] } [] → (bankOf s 96 ln0).held 96 = none ∧ (bankOf s 96 ln0).firstTo none = some 0 ∧
      activeReq s 0 ln0 = none) ∧
    (∀ tries ∈ [0, 3], ∀ s, s = lateBank { reqs := [⟨96, true, tries, false, 0, false, false⟩] } → (bankOf s 96 ln0).req 96 = some ⟨96, true, tries, false, 0, false, false⟩ ∧
      (bankOf s 96 ln0).satisfied ⟨96, true, tries, false, 0, false, false⟩ = false ∧ 0 + 256 ≤ (s.tower 0).clock ∧ activeReq s 0 ln0 = none) ∧
    (∀ s, s = lateBank { reqs := [⟨96, true, 2, false, 0, true, false⟩] } → (bankOf s 96 ln0).req 96 = some ⟨96, true, 2, false, 0, true, false⟩ ∧
      (bankOf s 96 ln0).satisfied ⟨96, true, 2, false, 0, true, false⟩ = false) ∧
    (∀ s, s = banked { reqs := [⟨96, true, 4, true, 0, false, false⟩] } [] → (bankOf s 96 ln0).req 96 = some ⟨96, true, 4, true, 0, false, false⟩ ∧ s.pers = []) ∧
    ∀ s, s = banked { home := 0, homeOwner := false, near := [⟨96, 128, true, true⟩], reqs := [⟨96, true, 4, true, 0, false, false⟩] } [⟨reqSlice 0 ln0, ln0, 96⟩] →
      (bankOf s 96 ln0).req 96 = some ⟨96, true, 4, true, 0, false, false⟩ ∧ activeReq s 0 ln0 = some 96 ∧ (bankOf s 96 ln0).satisfied ⟨96, true, 4, true, 0, false, false⟩ = true := by
  refine ⟨⟨by decide, fun _ => by decide, by decide, by decide⟩, ⟨by decide, by decide, fun _ e => (by cases e), by decide⟩,
    ⟨by decide, by decide, fun _ e => (by cases e), by decide⟩, rfl, by decide, ?a, ?b, ?c, ?_, ?_, ?_, ?d, ?_, ?_, ?_⟩
  case a =>
    intro s hs
    subst hs
    exact ⟨⟨by decide, by decide, fun _ e => (by cases e), by decide⟩, by decide, by decide⟩
  case b =>
    intro s hs
    subst hs
    exact ⟨⟨by decide, by decide, fun _ e => (by cases e), by decide⟩, by decide, by decide, by decide⟩
  case c =>
    intro s hs
    subst hs
    exact ⟨by decide, fun r e => by cases e; rfl, by decide⟩
  case d =>
    intro tries ht s hs
    subst hs
    revert tries
    decide
  all_goals intro s hs; subst hs; decide

/-! ### Hypotheses that are met: from launch to core -/

/-- A context 7 in slot 1 with a launch in its queue 0: two workgroups of one warp, or as given. -/
def lnch : Launch :=
  { noLaunch w0 with id := 3, cslot := 1, queue := 0, entry := 0x100000, grid := 2, nw := 1, width := 16, pri := 3, next := 0 }
def sched (l : List Launch) (q : Queue) (c : Ctx) : State :=
  { stateOf w0 with
    towers := [{ k := 1 }, { k := 0 }], cores := bare ++ [{}] ++ pad,
    mem := [(0x2000040, 1), (0x2000054, 7), (0x200007A, 1), (0x200007B, 2)] ++ tables.drop 3 ++ [(0x2020108, 4), (0x2030020, 1)],
    ctxs := [{}, { c with queues := q :: List.replicate 15 {} }], launches := l }
/-- A queue that holds one record; a queue that a launch is placed from. -/
def qfull : Queue := { base := 0x2030, en := true, tail := 1 }
def qcur : Queue := { qfull with tail := 0, current := some 3 }
theorem test_meets_WorkPlacement_take : ∀ s, s = sched [] qfull {} → ∃ u u' head blk b, Takes s 1 0 ∧ RecordOk s 1 0 ∧
    devRead (headRead s 1 0) (blockCtx s 1) (recordWord s 1 0 1) 160 = (u, .ok head) ∧
    devRead u (blockCtx s 1) (recordWord s 1 0 1) (blockLen head) = (u', .ok blk) ∧ parseBlock blk 16 = some b ∧
    blockRefused (groupTable b 1 1) (launchFrom u' 1 0 (recordWord s 1 0) b) = false := by
  intro s hs
  subst hs
  have e : (sched [] qfull {}).placing 1 = true := by decide
  refine ⟨_, _, List.replicate 160 0, List.replicate 160 0, _, ⟨e, ?_, ?_, fun _ _ => rfl, ?ser⟩, ?_, found _ ?_, found _ ?_, get_of ?_, ?_⟩
  case ser => exact fun h => absurd h (by decide +kernel)
  all_goals decide +kernel

/-- The queue's record with reserved bits set, and with a block at an address that is not mapped. -/
def badRec (c : Host.Cell) : State :=
  { sched [] qfull {} with mem := (sched [] qfull {}).mem.filter (fun x => x.1 != c.1) ++ [c] }
theorem test_meets_WorkPlacement_refuse : Takes (badRec (0x2030038, 1)) 1 0 ∧ ¬ RecordOk (badRec (0x2030038, 1)) 1 0 := by
  have e : (badRec (0x2030038, 1)).placing 1 = true := by decide
  exact ⟨⟨e, by decide +kernel, by decide +kernel, fun _ _ => rfl, fun h => absurd h (by decide +kernel)⟩, by decide +kernel⟩

/-- A block that is malformed, and one of more scratchpad than a core has. -/
theorem test_meets_WorkPlacement_block : ∀ c ∈ [(0x2020084, (8 : Byte)), (0x2020083, 1)], ∀ s, s = badRec c → ∃ u u' head blk,
    Takes s 1 0 ∧ RecordOk s 1 0 ∧ devRead (headRead s 1 0) (blockCtx s 1) (recordWord s 1 0 1) 160 = (u, .ok head) ∧
      devRead u (blockCtx s 1) (recordWord s 1 0 1) (blockLen head) = (u', .ok blk) ∧
      (parseBlock blk 16 = none ∨ ∃ b, parseBlock blk 16 = some b ∧
        blockRefused (groupTable b 1 1) (launchFrom u' 1 0 (recordWord s 1 0) b) = true) := by
  have e : ∀ c ∈ [(0x2020084, (8 : Byte)), (0x2020083, 1)], (badRec c).placing 1 = true := by decide
  intro c hc s hs
  have hp := e c hc
  simp only [List.mem_cons, List.not_mem_nil, or_false] at hc
  subst hs
  rcases hc with h | h <;> subst h
  · exact ⟨_, _, List.replicate 132 0 ++ 8 :: List.replicate 27 0, List.replicate 132 0 ++ 8 :: List.replicate 27 0,
      ⟨hp, by decide +kernel, by decide +kernel, fun _ _ => rfl, fun h => absurd h (by decide +kernel)⟩, by decide +kernel,
      found _ (by decide +kernel), found _ (by decide +kernel), .inl (by decide +kernel)⟩
  · exact ⟨_, _, List.replicate 131 0 ++ 1 :: List.replicate 28 0, List.replicate 131 0 ++ 1 :: List.replicate 28 0,
      ⟨hp, by decide +kernel, by decide +kernel, fun _ _ => rfl, fun h => absurd h (by decide +kernel)⟩, by decide +kernel,
      found _ (by decide +kernel), found _ (by decide +kernel), .inr ⟨_, get_of (by decide +kernel), by decide +kernel⟩⟩

theorem test_meets_WorkPlacement_place : (∀ s, s = sched [lnch] qcur {} → nextWork s = some (3, 17) ∧ queueLaunch s 1 0 = some lnch ∧
      coreFor s lnch lnch.next = some 96 ∧ Slots s 96) ∧
    (∀ l, l = { lnch with pers := true, grid := 1 } → ∀ s, s = sched [l] qcur {} → nextWork s = some (3, 17) ∧ queueLaunch s 1 0 = some l ∧
      RoomForAll l.id (l.grid - l.next) (s.giveTurn 3 17)) := by
  refine ⟨fun s hs => ?_, fun l hl s hs => ?_⟩
  · subst hs
    exact ⟨by decide +kernel, by decide, by decide +kernel, by decide⟩
  · subst hl hs
    exact ⟨by decide +kernel, by decide, _, 96, rfl, by decide +kernel, trivial⟩

/-- A task, and a batch, in the pool of the context. -/
def tsk : PoolTask := ⟨1, 1, 3, ⟨0x100000, 0, 0, 1, 3, [0, 0], [0, 0]⟩, [], 0, 0⟩
def btc : Batch := ⟨1, 3, 0x100000, 0, 0x100, 0, 1, 1, 3, 0, 0⟩
theorem test_meets_WorkPlacement_pool : (∀ s, s = sched [lnch] qfull { tasks := [tsk] } → nextWork s = some (3, 33) ∧ poolNext s 1 3 = some 0 ∧
      (poolOf s 1)[0]? = some (.task tsk) ∧ (entryStart s (.task tsk)).isSome = true) ∧
    (∀ s, s = sched [lnch] qfull { batches := [btc] } → nextWork s = some (3, 33) ∧ poolNext s 1 3 = some 0 ∧
      (poolOf s 1)[0]? = some (.batch btc) ∧ (entryStart s (.batch btc)).isSome = true) ∧
    ∀ s, s = ({ sched [lnch] qfull {} with
        mem := [(0x2000040, 1), (0x2020000, 4), (0x2020008, 1), (0x2020010, 1), (0x2020028, 1)],
        binds := [⟨0x2020000, 0, 3, 1, true⟩] } : State) → s.binds[0]? = some ⟨0x2020000, 0, 3, 1, true⟩ ∧ s.launch 3 = some lnch ∧
      (queueHdr (s.num 0x2020000 64)).cpc ≠ 0 ∧ (queueHdr (s.num 0x2020000 64)).malformed lnch = false ∧
      s.poisoned 0x2020000 64 = false ∧ (queueHdr (s.num 0x2020000 64)).batch ≤ 1 ∧ (queueHdr (s.num 0x2020000 64)).tail = 1 ∧
      (s.ctx 1).batches.length < 4096 ∧ s.storeHeld (0x2020000 + 32) 4 = false := by
  refine ⟨?_, ?_, ?_⟩ <;> intro s hs <;> subst hs
  · exact ⟨by decide +kernel, by decide +kernel, rfl, by decide +kernel⟩
  · exact ⟨by decide +kernel, by decide +kernel, rfl, by decide +kernel⟩
  · exact ⟨rfl, by decide, by decide, by decide, by decide, by decide, by decide, by decide, by decide⟩

/-- A launch of wide warps that asks for core 0, or of warps with scratchpad there, which is held by a warp of priority 0. -/
def wide (scr : Nat) : Launch := { lnch with width := 32, places := [0], scr := scr }
def grp5 : Workgroup := ⟨5, 0, 1, .grid 0, 0, 96, 0, 0, 1, 1, 0, false, [], [], []⟩
def full96 (scr : Nat) : State :=
  { sched [wide scr] qcur { svbase := 0x3000000, svsize := 64 } with
    cores := bare ++ [{ slots := [some (freshWarp 9 1 7 0 5 0 16 0x100000)] }] ++ pad, groups := [grp5] }
theorem test_meets_WorkPlacement_evict : (nextVictim (full96 4096) = some (96, (5, none)) ∧ roomFor (full96 4096) grp5 = true) ∧
    (nextVictim (full96 0) = some (96, (5, some 0)) ∧ (full96 0).warp 96 0 = some (freshWarp 9 1 7 0 5 0 16 0x100000) ∧
      (findUnits (full96 0) 1 (imageUnits 0 false [freshWarp 9 1 7 0 5 0 16 0x100000])).isSome = true) ∧
    (full96 0).wgroup 5 = some grp5 ∧ commandsHold (full96 0) grp5 = false ∧
    (∀ x ∈ (full96 0).warps, (∀ fr ∈ x.2.2.frags, fr.st ≠ .stopped) ∧ x.2.2.stnt = [] ∧ x.2.2.trv = [] ∧ x.2.2.cfgs = [] ∧ x.2.2.maps = [] ∧ x.2.2.fbs = []) ∧
    ∀ ln, (full96 0).writeHeld ln = false := by
  refine ⟨⟨?_, ?_⟩, ⟨?_, ?_, ?_⟩, ?_, ?_, ?_, fun _ => rfl⟩ <;> decide +kernel

/-- Images of the warp alone and of its workgroup, which is then away. -/
def img (whole : Bool) : Image := ⟨8, 1, 5, whole, 96, 3, [(0, freshWarp 9 1 7 0 5 0 16 0x100000)], [], [], [], [], 0, 1, false, 0, 0⟩
def away (whole : Bool) : State :=
  { sched [] qfull {} with images := [img whole], groups := [{ grp5 with saved := whole }] }
theorem test_meets_WorkPlacement_restore : ∀ b ∈ [false, true], (away b).images.find? (fun y => y.id == 8) = some (img b) ∧
    canRestore (away b) (img b) 96 = true ∧ restoreTurn (away b) (img b) = true ∧ (away b).wgroup 5 = some { grp5 with saved := b } ∧
    findArea (away b) 96 0 = some 0 ∧ Slots (away b) 96 := by decide +kernel

/-- A warp whose lanes have ended, its workgroup, and a launch without work. -/
def spent : Warp := { freshWarp 9 1 7 3 5 0 16 0x100000 with ended := 0xFFFF }
theorem test_meets_WorkPlacement_end : (∀ s, s = stateOf spent → s.pkg.powered = true ∧ s.warp 96 0 = some spent ∧
      spent.ended = fullMask spent.width ∧ spent.m.queue = [] ∧ spent.trv = [] ∧ spent.fbs = []) ∧
    (∀ n ∈ [1, 2], ∀ s, s = ({ stateOf spent with groups := [{ grp5 with nw := n }] } : State) → s.wgroup spent.wg = some { grp5 with nw := n }) ∧
    (∀ s, s = ({ s0 with groups := [{ grp5 with ended := 1 }] } : State) → s.wgroup 5 = some { grp5 with ended := 1 } ∧ (∀ c ∈ s.combs, c.chain = [])) ∧
    ∀ s, s = sched [{ lnch with next := 2 }] qfull {} → s.launch 3 = some { lnch with next := 2 } ∧ s.groups = [] ∧ (s.ctx 1).tasks = [] ∧
      (s.ctx 1).batches = [] ∧ s.watches = [] ∧ s.binds = [] := by
  refine ⟨?_, fun n _ s hs => by subst hs; rfl, ?_, ?_⟩ <;> intro s hs <;> subst hs
  · exact ⟨rfl, rfl, by decide, rfl, rfl, rfl⟩
  · exact ⟨by decide, by decide⟩
  · exact ⟨by decide, rfl, rfl, rfl, rfl, rfl⟩

/-! ### Hypotheses that are met: engines, memory steps, the package -/

/-- A copy of 32 bytes from virtual address 0 to offset 0x200 of the scratchpad or of memory, with a barrier at 64. -/
def cmd (dsp : Nat) (cancel : Bool) (r : Option EngRun) : EngCmd :=
  ⟨5, 96, 0, 0, 1, 0, ⟨0, 0x80, 0, false, true, true⟩, {}, [BitVec.ofNat 64 (0x100 + 2048 * dsp), 64, 0, 0x200, 32, 0, 0, 0], 0, none, none, cancel, r⟩
/-- It is the head of its comb's chain, and its words stand in the ring. -/
def seng (c : EngCmd) : State :=
  { mst (wm [] []) [(0x2040001, if c.dsp = 1 then 9 else 1), (0x2040008, 64), (0x2040019, 2), (0x2040020, 32)] with
    combs := List.replicate 12 {} ++ [{ ecbase := 0x2040000, chain := [c] }] }
theorem head_of (dsp : Nat) (r : Option EngRun) : Head (seng (cmd dsp false r)) 12 (cmd dsp false r) [] :=
  ⟨rfl, by simp [seng], by simp [seng, State.comb], rfl⟩
/-- A run that has read its row, one that has not, one that is done, and one that failed. -/
def rw0 : EngRun := { buf := List.replicate 32 7, writing := true }
/-- Two rows of 8 bytes side by side in one granule, and the run at the second, with the first put aside. -/
def cmdRows (r : EngRun) : EngCmd :=
  { cmd 1 false (some r) with words := [BitVec.ofNat 64 (0x110 + 2048), 64, 0, 0x200, 0x200000008, 0x800000008, 0, 0] }
def rwp : EngRun := { buf := List.replicate 8 7, writing := true, row := 1, pend := [(0x20, ((List.range 8).map fun i => (0x200 + i, 7), 8))] }
theorem test_meets_EngineSteps : (∀ s, s = seng (cmd 1 false none) →
      (List.range 8).map (fun i => BitVec.ofNat 64 (s.num ((s.comb 12).ecbase.toNat + 64 * 0 + 8 * i) 8)) = (cmd 1 false none).words) ∧
    ((cmd 1 false none).bad = false ∧ (cmd 3 false none).bad = true ∧ (cmd 1 false none).forkErr = none ∧ (cmd 1 false none).cv = false) ∧
    (∀ c, c = cmd 1 false (some rw0) → c.dsp = 1 ∧ (rowData c rw0).length = c.rowBytes ∧ rw0.pos < c.rowBytes ∧
      segCheck c.g1 0x200 16 true = none ∧ wrapInt 64 ((c.dstRow 0 0 : Int) + 0) = 0x200 ∧ Alone c rw0) ∧
    (∀ r, r = { rwp with row := 0 } ∨ r = rwp → ∀ c, c = cmdRows r → c.dsp = 1 ∧ (rowData c r).length = c.rowBytes ∧ r.pos < c.rowBytes ∧
      c.laterMeets r.plane r.row (pieceGranule c r) = decide (r.row = 0) ∧
      ∀ y ∈ runsOf (addBytes (spGet ([], 0) rwp.pend 0x20) 0x208 (List.replicate 8 7)).1,
        segCheck c.g1 y.1 y.2.length true = none ∧ c.g1.base.toNat + y.1 + y.2.length ≤ 2 ^ 23) ∧
    (∀ c, c = cmd 0 false (some rw0) → c.dsp = 0 ∧ Alone c rw0 ∧ (rowData c rw0).length = c.rowBytes ∧
      (devResolve (seng c) (c.ctx 310) .wr 0x200 16).2 = .ok [⟨.phys, 0x2020200, 16, some false, 0, 0x200, 0⟩]) ∧
    (∀ c, c = cmd 1 false (some {}) → c.cv = false ∧ c.kind = 0 ∧ c.ssp = 0 ∧ (0 : Nat) < c.n0 ∧
      (devResolve (seng c) (c.ctx 330) .rd 0 16).2 = .ok [⟨.phys, 0x2020000, 16, some false, 0, 0, 0⟩]) ∧
    (cmd 1 false none).bv = true ∧ (cmd 1 false none).bar = 64 ∧ segCheck (cmd 1 false none).g1 64 32 true = none ∧
    ((seng (cmd 1 true none)).comb 12).chain = [cmd 1 true none] := by
  refine ⟨?_, ?_, ?_, ?r, ?_, ?_, ?_, ?_, ?_, rfl⟩
  · intro s hs
    subst hs
    decide +kernel
  · decide
  case r =>
    intro r hr c hc
    subst hc
    rcases hr with h | h <;> subst h <;> decide +kernel
  all_goals first
    | (intro c hc; subst hc; decide +kernel)
    | decide

/-- A dirty line, a full pending table, a block held in it, and a stored compressed block. -/
def sdirty (attr : Bool) (ms : List MergeSlot) : State :=
  { s0 with lines := [(ln0, { attr := attr, dirty := true })], merges := ms }
theorem test_meets_MemorySteps : ((s0.pkg.powered = true ∧ (homeTower (ln0 * 128)).isSome = true ∧ Loses .blockData ln0) ∧
    (∀ s, s = sdirty true (List.replicate 64 ⟨ctrlOf (blockOf ln0), 0, false, []⟩) → (s.line ln0).dirty = true ∧ (s.line ln0).attr = true ∧
      (∀ m ∈ s.merges, m.block ≠ blockOf ln0) ∧ 64 ≤ (s.merges.filter fun m => m.ctrl == ctrlOf (blockOf ln0)).length) ∧
    (∀ s, s = sdirty true [⟨ctrlOf (blockOf ln0), blockOf ln0, true, []⟩] → s.merges.find? (fun m => m.block == blockOf ln0) =
      some ⟨ctrlOf (blockOf ln0), blockOf ln0, true, []⟩) ∧
    (∀ s, s = banked { home := 0, homeOwner := false, near := [⟨96, 128, true, true⟩] } [] →
      ((s.line ln0).bank (towerOf 96)).held 96 = some ⟨96, 128, true, true⟩) ∧ (∀ h, ((s0.line ln0).bank (towerOf 96)).held 96 = some h → h.owner = false) ∧
    (∀ s, s = ({ s0 with cores := bare ++ [{ coreOf w0 with bad := [.vec 0 0] }] ++ pad } : State) → Word? s 96 (.vec 0 0) ∧ RegWord.vec 0 0 ∈ (s.core 96).bad) ∧
    (∀ s, s = ({ s0 with cores := bare ++ [{ coreOf w0 with weak := [.vec 0 0] }] ++ pad } : State) → s.running 96 = true ∧ 96 < s.cores.length ∧
      wordExists (.vec 0 0) = true ∧ RegWord.vec 0 0 ∈ (s.core 96).weak) ∧
    (∀ s, s = ({ s0 with towers := [{ clock := 1024 }, {}] } : State) → (s.tower 0).agingDue = true ∧ s.warp 96 0 = some w0)) := by
  refine ⟨⟨rfl, by decide, .inl (by decide)⟩, ?_, ?_, ?_, fun h e => (by cases e), ?b, ?_, ?_⟩
  case b => intro s hs; subst hs; exact ⟨⟨rfl, by decide, by decide, by decide⟩, by decide⟩
  all_goals intro s hs; subst hs; decide

/-- A warp with a report, in a context whose feedback window holds 512 pages from virtual address 0, its bits at 0x3000000. -/
def wfb : Warp := { w0 with fbs := [⟨0x30000, 2⟩] }
def sfb (pages : Byte) : State :=
  { stateOf wfb with mem := [(0x2000000, 3), (0x2000023, 3), (0x200002D, pages), (0x3000041, 0xFF)] }
theorem test_meets_MemorySteps_feedback : (sfb 2).warp 96 0 = some wfb ∧ wfb.fbs[0]? = some ⟨0x30000, 2⟩ ∧
    (sfb 0).desc wfb.cslot 383 352 = 0 ∧ (∀ n ∈ [0, 2], reportHeld (sfb n) wfb.cslot ⟨0x30000, 2⟩ = false) ∧ Counts (sfb 2) wfb.cslot ⟨0x30000, 2⟩ 3 0x3000000 0x3000041 := by
  refine ⟨rfl, rfl, ?_, ?_, ⟨?_, ?_, ?_, ?_, ?_, ?_⟩⟩ <;> decide

/-- A line in memory with a NOP in its first slot, every slot a legal target; its CRC, worked out by R24, is 0x1921. -/
def sfetch : State := mst (wm [] []) [(0x202000B, 1), (0x202003C, 0x21), (0x202003D, 0x19), (0x202003F, 0xF8)]
def isFetched (l : List Byte) : Fetched → Bool
  | .ok x => decide (x = l)
  | _ => false
theorem fetched_of {p : State × Nat × Fetched} (pa : Nat) (l : List Byte) (h : (p.2.1 == pa && isFetched l p.2.2) = true) :
    p = (p.1, pa, .ok l) := by
  rcases p with ⟨a, b, _ | _ | _⟩ <;> simp_all [isFetched]
theorem test_meets_MemorySteps_fetch : sfetch.running 96 = true ∧ 96 < sfetch.cores.length ∧ sfetch.ctxValid 0 = true ∧
    ∃ u line, readLine sfetch 96 0 (BitVec.ofNat 16 (sfetch.ctxId 0)) 0 =
      (u, 0x2020000, .ok line) := by
  refine ⟨?_, ?_, ?_, _, leBytes 12 0x010000000000000000000000 ++ List.replicate 48 0 ++ [0x21, 0x19, 0, 0xF8], fetched_of _ _ ?_⟩ <;> decide +kernel

/-- R24: the check value. -/
theorem test_crc : lineCrc [0x31, 0x32, 0x33, 0x34, 0x35, 0x36, 0x37, 0x38, 0x39] = 0x29B1 := by decide

/-- The reset state with the host's link up, and with the host owning a line or leasing it. -/
def shost : State := { State.reset with pkg := { hostLink := true } }
/-- A package with one trained port, through which peers 3 and 63 are reached, of which 3 may have a live host link. -/
def sport (hosted : List Nat) (linkid : BitVec 6) : State :=
  { State.reset with pkg := { hostLink := false, ports := [⟨true, 0, [3, 63]⟩], hosted := hosted, linkid := linkid } }
def sown (x : LineState) : State := { shost with lines := [(ln0, x)] }
theorem test_meets_Leases : (∀ s, s = State.reset → s.pkg.powered = true ∧ s.towers.length = 2 ∧ homeLine ln0 = true ∧ homeTower (ln0 * 128) ≠ some 1 ∧
      s.readHeld ln0 = false ∧ (s.line ln0).proxy 1 = none ∧ Granted shost .host ln0 ∧ Granted (sport [] 5) (.peer 63) ln0 ∧ isOutside .host = true ∧
      s.writeHeld ln0 = false ∧ ln0 ∉ s.poison ∧ (s.line ln0).wanted = [] ∧ (s.agent .host).lost = none) ∧
    (∀ s, s = sown { proxy1 := some ⟨3, 9, none, none⟩ } → (s.line ln0).proxy 1 = some ⟨3, 9, none, none⟩ ∧ Valid s 1 ⟨3, 9, none, none⟩) ∧
    (∀ s, s = sown { leases := [⟨.host, 100⟩] } → s.writeHeld ln0 = true ∧ (s.line ln0).owner = none ∧ holdsAny s .host = true) ∧
    (∀ s, s = sown { owner := some .host } → s.granting .host = true ∧ (s.line ln0).owner = some .host ∧ (s.line ln0).wanted = []) ∧
    (∀ s, s = ({ sown { leases := [⟨.host, 100⟩] } with pkg := { gtime := 50000 }, agents := [⟨.host, none, 0, 0⟩] } : State) → (s.agent .host).last + 50000 ≤ s.pkg.gtime ∧
      (0 : Nat) + 2000 < s.pkg.gtime ∧ holdsAny s .host = true) ∧
    ∀ s, s = ({ shost with agents := [⟨.host, some 7, 0, 0⟩] } : State) → (s.agent .host).lost = some 7 := by
  refine ⟨?_, ?_, ?_, ?_, ?_, ?_⟩ <;> intro s hs <;> subst hs <;> decide

theorem test_meets_PackageEvents : State.reset.pkg.powered = true ∧ (State.reset.pkg.lcstate.toNat, 3) ∈ [(0, 1), (1, 2), (2, 3), (3, 1), (3, 4)] ∧
    (State.reset.pkg.lcstate.toNat, 1) ∉ [(0, 1), (1, 2), (2, 3), (3, 1), (3, 4)] ∧ State.reset.pkg.bootStep = 0xFF ∧
    hostReaches shost 0x2000000 128 = true ∧ hostReaches shost 0x1000 64 = false ∧ shost.granting .host = true ∧ shost.poisoned 0x2000000 128 = false ∧
    (∀ ln ∈ linesOf 0x2000000 128, shost.readHeld ln = false ∧ shost.writeHeld ln = false) ∧ plainMemory 0x1000 64 = true ∧
    mmioPart 0 8 = some (.gtime, .whole) ∧ mapCause State.reset 96 (96 * 2 ^ 24 + 16) 16 false = none ∧
    mapBad State.reset 96 16 16 = none ∧ State.reset.pkg.ports[11]? = some ⟨true, 0, []⟩ ∧ ((sport [] 5).pkg.ports[0]? = some ⟨true, 0, [3, 63]⟩ ∧ (sport [] 5).pkg.reaches (.peer 3) = true ∧ (sport [] 5).pkg.ports.length = 1) ∧
    mmioPart 0x10008 4 = some (.qtail 0 0, .whole) ∧ (∀ off ∈ [0, 0xFFC], off % 4 = 0 ∧ off / 64 < 64) ∧
    (sown { owner := some .host }).pkg.hostLink = true ∧ (sown { owner := some .host }).lines.length = 1 ∧
    (∃ temps : List Int, temps.length = 5 ∧ (110 : Int) ∈ temps ∧ ∀ x ∈ temps, x ≤ 110) ∧
    (∀ th ∈ [Thermal.normal, .clockHeld], ∀ s, s = ({ State.reset with towers := [{ due := 100, thermal := th, skip := true }, {}] } : State) →
      100 ≤ (s.tower 0).due ∧ (s.tower 0).thermal = th ∧ (s.tower 0).skip = true ∧ (s.tower 0).agingDue = false) ∧
    (∀ s, s = ({ State.reset with towers := [{ due := 100, clock := 1024 }, {}] } : State) → (s.tower 0).agingDue = true) ∧
    ({ State.reset with pkg := { powered := false } } : State).pkg.powered = false := by
  refine ⟨rfl, ?_, ?_, rfl, ?_, ?_, ?_, ?_, ?_, ?_, ?_, ?_, ?_, rfl, ?_, ?_, ?_, rfl, rfl, ⟨[110, 20, 20, 20, 20], ?_, ?_, ?_⟩, ?b, fun s hs => (by subst hs; decide), rfl⟩
  case b => intro th ht s hs; subst hs; revert th; decide
  all_goals decide

/-- The messages of peer 3, and of peer 63 when 3 has a live host link, and when none has. -/
theorem test_meets_PackageEvents_time : (∀ s, s = sport [63] 5 → s.pkg.reaches (.peer 3) = true ∧ 3 ≠ s.pkg.linkid.toNat ∧
      ∀ n, n < 3 → s.pkg.reaches (.peer n) = true → n ∉ s.pkg.hosted) ∧
    (∀ s, s = sport [3] 5 → s.pkg.reaches (.peer 63) = true ∧ s.pkg.reaches (.peer 3) = true ∧ 3 ∈ s.pkg.hosted ∧
      ∀ m, m < 3 → s.pkg.reaches (.peer m) = true → ¬ HostedAfter s 63 true m) ∧
    (∀ s, s = sport [] 5 → (∀ n, s.pkg.reaches (.peer n) = true → ¬ HostedAfter s 3 false n) ∧ 3 < s.pkg.linkid.toNat ∧
      ∀ n, n < 3 → s.pkg.reaches (.peer n) = false) ∧
    ∀ s, s = sport [] 1 → ∀ n, n < s.pkg.linkid.toNat → s.pkg.reaches (.peer n) = false := by
  have none3 : ∀ h l n, n < 3 → (sport h l).pkg.reaches (.peer n) = false := by
    intro h l n hn
    match n, hn with
    | 0, _ => rfl
    | 1, _ => rfl
    | 2, _ => rfl
  refine ⟨fun s hs => ?_, fun s hs => ?_, fun s hs => ?_, fun s hs n hn => ?_⟩ <;> subst hs
  · exact ⟨by decide, by decide, fun n hn h => absurd (none3 [63] 5 n hn) (by rw [h]; decide)⟩
  · exact ⟨by decide, by decide, by decide, fun n hn h => absurd (none3 [3] 5 n hn) (by rw [h]; decide)⟩
  · refine ⟨fun n h e => ?_, by decide, fun n hn => none3 [] 5 n hn⟩
    rcases e with ⟨_, e⟩ | ⟨_, e⟩
    · exact absurd e (by decide)
    · exact absurd e (List.not_mem_nil)
  · exact none3 [] 1 n (Nat.lt_trans hn (by decide))

theorem test_meets_StepKeepsMemory : ∃ s t, Memory.wf s.mem = true ∧ step s = .next t := by
  refine ⟨{ State.reset with agenda := [.event .powerLoss] }, _, by decide, rfl⟩

/-! ### The refused launches of WorkPlacement, one for each reason, and the encoder -/

theorem test_meets_WorkPlacement_reason2 : ∀ s, s = badRec (0x203000A, 0x10) → Takes s 1 0 ∧ RecordOk s 1 0 ∧
    ∃ u c va, devRead (headRead s 1 0) (blockCtx s 1) (recordWord s 1 0 1) 160 = (u, .bad c va) := by
  intro s hs
  subst hs
  have e : (badRec (0x203000A, 0x10)).placing 1 = true := by decide
  exact ⟨⟨e, by decide +kernel, by decide +kernel, fun _ _ => rfl, fun h => absurd h (by decide +kernel)⟩, by decide +kernel, _, 1, 0x100000,
    found _ (by decide +kernel)⟩

theorem test_meets_WorkPlacement_reason1 : ∀ s, s = badRec (0x2020000, 4) → Takes s 1 0 ∧ RecordOk s 1 0 ∧
    ∃ u u' head blk, devRead (headRead s 1 0) (blockCtx s 1) (recordWord s 1 0 1) 160 = (u, .ok head) ∧
      devRead u (blockCtx s 1) (recordWord s 1 0 1) (blockLen head) = (u', .ok blk) ∧
      parseBlock blk (16 * 2 ^ bits (recordWord s 1 0 4) 38 37) = none := by
  intro s hs
  subst hs
  have e : (badRec (0x2020000, 4)).placing 1 = true := by decide
  refine ⟨⟨e, ?_, ?_, fun _ _ => rfl, ?_⟩, ?_, _, _, 4 :: List.replicate 159 0, 4 :: List.replicate 159 0, found _ ?_, found _ ?_, ?_⟩
  case refine_3 => exact fun h => absurd h (by decide +kernel)
  all_goals decide +kernel

theorem test_meets_EncodeOfDecode : ∃ w i, decode w = .ok i := ⟨0x010000000000000000000000, .nop blank, rfl⟩

/-! ### One word of every instruction, written out from R12 and the majors of R38 and the encoding of the instruction -/

/-- Every word of a list decodes to the instruction beside it. -/
def reads (ws : List (BitVec 96 × Instr)) : Bool := ws.all fun x => match decode x.1 with
  | .ok i => i == x.2
  | .error _ => false
theorem test_words_control : reads [
    (0x010000000000000000000000, .nop blank),
    (0x02000000000000000000002B, .bra { blank with imm := 0x2b }),
    (0x030200090000000000000005, .brs { blank with minor := 2, opa := 9, imm := 0x5 }),
    (0x043F00000000B000FFFFFFFB, .brv { blank with minor := 63, pneg := true, pk := 3, imm := 0xfffffffb }),
    (0x050000060000000000000000, .jmpx { blank with opa := 6 }),
    (0x06000700000000000000000A, .call { blank with dst := 7, imm := 0xa }),
    (0x072907080900000000000000, .callx { blank with minor := 41, dst := 7, opa := 8, opb := 9 }),
    (0x080000070000000000000000, .ret { blank with opa := 7 }),
    (0x09000000000000000000003F, .rcvg { blank with imm := 0x3f }),
    (0x0A8000000000200000000000, .exit { blank with sw := true, pk := 2 }),
    (0x0B0000000000000000000000, .yield blank),
    (0x0C01000000000000000000C8, .waitc { blank with minor := 1, imm := 0xc8 }),
    (0x0D0000000000000000000000, .trapf blank),
    (0x0E000000000000000000BEEF, .sysc { blank with imm := 0xbeef }),
    (0x0F0000000000000000001234, .bkpt { blank with imm := 0x1234 }),
    (0x100005000000000000000000, .elect { blank with dst := 5 }),
    (0x1100000300000000FFFFFFFF, .loop { blank with opa := 3, imm := 0xffffffff }),
    (0x120009000000000000000004, .sget { blank with dst := 9, imm := 0x4 }),
    (0x130000090000000000000008, .sput { blank with opa := 9, imm := 0x8 }),
    (0x140000000000000000000006, .xacq { blank with imm := 0x6 }),
    (0x150000000000000000000000, .xrel blank),
    (0x160000000000000000000000, .isync blank)] = true := by decide +kernel
theorem test_words_masks : reads [
    (0x180401020300000000000000, .kop { blank with minor := 4, dst := 1, opa := 2, opb := 3 }),
    (0x190014030000000000000000, .kpop { blank with dst := 20, opa := 3 }),
    (0x1A0015040000000000000000, .kff1 { blank with dst := 21, opa := 4 }),
    (0x1B0016050000000000000000, .ktos { blank with dst := 22, opa := 5 }),
    (0x1C0006170000000000000000, .stok { blank with dst := 6, opa := 23 }),
    (0x1D0007000000000000000000, .exmrd { blank with dst := 7 }),
    (0x1E0000010000000000000000, .exmwr { blank with opa := 1 })] = true := by decide +kernel
theorem test_words_scalar : reads [
    (0x200003040500010100000000, .sadd { blank with dst := 3, opa := 4, opb := 5, typ := 1, qual := 1 }),
    (0x210003040500020100000000, .ssub { blank with dst := 3, opa := 4, opb := 5, typ := 2, qual := 1 }),
    (0x220003040500030100000000, .smul { blank with dst := 3, opa := 4, opb := 5, typ := 3, qual := 1 }),
    (0x230003040500040000000000, .smulh { blank with dst := 3, opa := 4, opb := 5, typ := 4 }),
    (0x240003040500010000000000, .sdiv { blank with dst := 3, opa := 4, opb := 5, typ := 1 }),
    (0x250003040500020000000000, .srem { blank with dst := 3, opa := 4, opb := 5, typ := 2 }),
    (0x260003040500030000000000, .sand { blank with dst := 3, opa := 4, opb := 5, typ := 3 }),
    (0x270003040500040000000000, .sor { blank with dst := 3, opa := 4, opb := 5, typ := 4 }),
    (0x280003040500010000000000, .sxor { blank with dst := 3, opa := 4, opb := 5, typ := 1 }),
    (0x290003040500020000000000, .sshl { blank with dst := 3, opa := 4, opb := 5, typ := 2 }),
    (0x2A0003040500030000000000, .sshr { blank with dst := 3, opa := 4, opb := 5, typ := 3 }),
    (0x2B0003040500040000000000, .ssra { blank with dst := 3, opa := 4, opb := 5, typ := 4 }),
    (0x2C0003040500010000000000, .smin { blank with dst := 3, opa := 4, opb := 5, typ := 1 }),
    (0x2D0003040500020000000000, .smax { blank with dst := 3, opa := 4, opb := 5, typ := 2 }),
    (0x2E05030400000120FFFFFFFF, .scmp { blank with minor := 5, dst := 3, opa := 4, typ := 1, bimm := true, imm := 0xffffffff }),
    (0x2F0003040506040000000000, .ssel { blank with dst := 3, opa := 4, opb := 5, opc := 6, typ := 4 }),
    (0x300003040000020000000000, .smov { blank with dst := 3, opa := 4, typ := 2 }),
    (0x310103000000040080000000, .sli { blank with minor := 1, dst := 3, typ := 4, imm := 0x80000000 }),
    (0x32000A0B0C00040300000040, .slea { blank with dst := 10, opa := 11, opb := 12, typ := 4, qual := 3, imm := 0x40 }),
    (0x330003040000030000000000, .sclz { blank with dst := 3, opa := 4, typ := 3 }),
    (0x340003040000020000000000, .spop { blank with dst := 3, opa := 4, typ := 2 }),
    (0x350003040000010000000805, .sbfe { blank with dst := 3, opa := 4, typ := 1, imm := 0x805 }),
    (0x360003040000040000002010, .sbfi { blank with dst := 3, opa := 4, typ := 4, imm := 0x2010 }),
    (0x3702030400050000FFFFFFFC, .sld { blank with minor := 2, dst := 3, opa := 4, opc := 5, imm := 0xfffffffc }),
    (0x380303040001000000000008, .sst { blank with minor := 3, dst := 3, opa := 4, opc := 1, imm := 0x8 })] = true := by decide +kernel
theorem test_words_vector : reads [
    (0x4040040506000F0100000000, .vadd { blank with minor := 64, dst := 4, opa := 5, opb := 6, typ := 15, qual := 1 }),
    (0x410004050600018000000000, .vsub { blank with dst := 4, opa := 5, opb := 6, typ := 1, ascl := true }),
    (0x420004080600030100000000, .vmul { blank with dst := 4, opa := 8, opb := 6, typ := 3, qual := 1 }),
    (0x430004050600024000000000, .vmulh { blank with dst := 4, opa := 5, opb := 6, typ := 2, bscl := true }),
    (0x44000408060A040000000000, .vmad { blank with dst := 4, opa := 8, opb := 6, opc := 10, typ := 4 }),
    (0x4500040500000020FF00FF00, .vand { blank with dst := 4, opa := 5, bimm := true, imm := 0xff00ff00 }),
    (0x460004080600040000000000, .vor { blank with dst := 4, opa := 8, opb := 6, typ := 4 }),
    (0x470004050600000000000000, .vxor { blank with dst := 4, opa := 5, opb := 6 }),
    (0x480004050000000000000000, .vnot { blank with dst := 4, opa := 5 }),
    (0x4900040506000E0000000000, .vshl { blank with dst := 4, opa := 5, opb := 6, typ := 14 }),
    (0x4A0004050600010000000000, .vshr { blank with dst := 4, opa := 5, opb := 6, typ := 1 }),
    (0x4B40040506000F0000000000, .vsra { blank with minor := 64, dst := 4, opa := 5, opb := 6, typ := 15 }),
    (0x4C0004080600030000000000, .vmin { blank with dst := 4, opa := 8, opb := 6, typ := 3 }),
    (0x4D0004050600020000000000, .vmax { blank with dst := 4, opa := 5, opb := 6, typ := 2 }),
    (0x4E40040500000E0100000000, .vabs { blank with minor := 64, dst := 4, opa := 5, typ := 14, qual := 1 }),
    (0x4F0004080000030000000000, .vneg { blank with dst := 4, opa := 8, typ := 3 }),
    (0x500004050000000000000000, .vclz { blank with dst := 4, opa := 5 }),
    (0x510004080000040000000000, .vpop { blank with dst := 4, opa := 8, typ := 4 }),
    (0x5200FFFE0000000000000000, .vbrev { blank with dst := 255, opa := 254 }),
    (0x530004050000010000000805, .vbfe { blank with dst := 4, opa := 5, typ := 1, imm := 0x805 }),
    (0x540004080000040000002010, .vbfi { blank with dst := 4, opa := 8, typ := 4, imm := 0x2010 }),
    (0x5500040506070E0000000000, .vsad { blank with dst := 4, opa := 5, opb := 6, opc := 7, typ := 14 }),
    (0x5640070809070E0100000000, .vdot4 { blank with minor := 64, dst := 7, opa := 8, opb := 9, opc := 7, typ := 14, qual := 1 }),
    (0x570503020400024000000000, .vcmp { blank with minor := 5, dst := 3, opa := 2, opb := 4, typ := 2, bscl := true }),
    (0x580004050607000000000000, .vsel { blank with dst := 4, opa := 5, opb := 6, opc := 7 }),
    (0x590004050000008000000000, .vmov { blank with dst := 4, opa := 5, ascl := true }),
    (0x5A00040000000000DEADBEEF, .vli { blank with dst := 4, imm := 0xdeadbeef }),
    (0x5B000A020000000000000004, .vlane { blank with dst := 10, opa := 2, imm := 0x4 }),
    (0x5C0104080000030000000000, .vcvt { blank with minor := 1, dst := 4, opa := 8, typ := 3 })] = true := by decide +kernel
theorem test_words_floats : reads [
    (0x600004050600050400000000, .fadd { blank with dst := 4, opa := 5, opb := 6, typ := 5, qual := 4 }),
    (0x610004080600060000000000, .fsub { blank with dst := 4, opa := 8, opb := 6, typ := 6 }),
    (0x620004050600070000000000, .fmul { blank with dst := 4, opa := 5, opb := 6, typ := 7 }),
    (0x638004010203B50100000000, .ffma { blank with sw := true, dst := 4, opa := 1, opb := 2, opc := 3, pneg := true, pk := 3, typ := 5, qual := 1 }),
    (0x640004050600080000000000, .fmin { blank with dst := 4, opa := 5, opb := 6, typ := 8 }),
    (0x650004050600050000000000, .fmax { blank with dst := 4, opa := 5, opb := 6, typ := 5 }),
    (0x660004080000060000000000, .fabs { blank with dst := 4, opa := 8, typ := 6 }),
    (0x670004050000070000000000, .fneg { blank with dst := 4, opa := 5, typ := 7 }),
    (0x680004050600050000000000, .fcps { blank with dst := 4, opa := 5, opb := 6, typ := 5 }),
    (0x690702050600050000000000, .fcmp { blank with minor := 7, dst := 2, opa := 5, opb := 6, typ := 5 }),
    (0x6A0004050000080000000000, .fclass { blank with dst := 4, opa := 5, typ := 8 }),
    (0x6B0004050000050B00000000, .frnd { blank with dst := 4, opa := 5, typ := 5, qual := 11 }),
    (0x6C0704050000090800000000, .fcvt { blank with minor := 7, dst := 4, opa := 5, typ := 9, qual := 8 }),
    (0x6D0604080000010300000000, .fcvti { blank with minor := 6, dst := 4, opa := 8, typ := 1, qual := 3 }),
    (0x6E0104050000050000000000, .icvtf { blank with minor := 1, dst := 4, opa := 5, typ := 5 }),
    (0x6F0004050600050000000000, .fscale { blank with dst := 4, opa := 5, opb := 6, typ := 5 }),
    (0x700004050607070000000000, .fdot2 { blank with dst := 4, opa := 5, opb := 6, opc := 7, typ := 7 })] = true := by decide +kernel
theorem test_words_special : reads [
    (0x780006070000050000000000, .rcp { blank with dst := 6, opa := 7, typ := 5 }),
    (0x790006070000050000000000, .rsq { blank with dst := 6, opa := 7, typ := 5 }),
    (0x7A0006070000050200000000, .sqrt { blank with dst := 6, opa := 7, typ := 5, qual := 2 }),
    (0x7B0006070000050000000000, .exp2 { blank with dst := 6, opa := 7, typ := 5 }),
    (0x7C0006070000050000000000, .log2 { blank with dst := 6, opa := 7, typ := 5 }),
    (0x7D0006070000050000000000, .sinpi { blank with dst := 6, opa := 7, typ := 5 }),
    (0x7E0006070000050000000000, .cospi { blank with dst := 6, opa := 7, typ := 5 }),
    (0x7F0006070000050000000000, .tanh { blank with dst := 6, opa := 7, typ := 5 }),
    (0x800007000000000000000000, .rng { blank with dst := 7 }),
    (0x810000040500000000000000, .rngseed { blank with opa := 4, opb := 5 }),
    (0x820204060708010000000000, .decw { blank with minor := 2, dst := 4, opa := 6, opb := 7, opc := 8, typ := 1 }),
    (0x830006040000042100000009, .packw { blank with dst := 6, opa := 4, typ := 4, bimm := true, qual := 1, imm := 0x9 })] = true := by decide +kernel
theorem test_words_lanes : reads [
    (0x880304050000002000000001, .shfl { blank with minor := 3, dst := 4, opa := 5, bimm := true, imm := 0x1 }),
    (0x890004060700040000000000, .bcast { blank with dst := 4, opa := 6, opb := 7, typ := 4 }),
    (0x8A0509050000010000000000, .vred { blank with minor := 5, dst := 9, opa := 5, typ := 1 }),
    (0x8B0204050000050100000000, .vscan { blank with minor := 2, dst := 4, opa := 5, typ := 5, qual := 1 }),
    (0x8C0005010208000000000000, .vcmprs { blank with dst := 5, opa := 1, opb := 2, opc := 8 }),
    (0x8D0006050208000100000000, .vexpnd { blank with dst := 6, opa := 5, opb := 2, opc := 8, qual := 1 }),
    (0x8E0003050000000000000000, .ballot { blank with dst := 3, opa := 5 }),
    (0x8F0004060000040000000000, .matchL { blank with dst := 4, opa := 6, typ := 4 })] = true := by decide +kernel
theorem test_words_memory : reads [
    (0x901605040200000DFFFFFFF0, .ld { blank with minor := 22, dst := 5, opa := 4, opb := 2, qual := 13, imm := 0xfffffff0 }),
    (0x910404060004000000000000, .st { blank with minor := 4, dst := 4, opa := 6, opc := 4 }),
    (0x92200C030000000100000011, .ldb { blank with minor := 32, dst := 12, opa := 3, qual := 1, imm := 0x11 }),
    (0x93000C030000000000000011, .stb { blank with dst := 12, opa := 3, imm := 0x11 }),
    (0x942A08000200000C00000000, .gath { blank with minor := 42, dst := 8, opb := 2, qual := 12 }),
    (0x950B08010201000800000000, .scat { blank with minor := 11, dst := 8, opa := 1, opb := 2, opc := 1, qual := 8 }),
    (0x960906040200080C00000000, .atom { blank with minor := 9, dst := 6, opa := 4, opb := 2, typ := 8, qual := 12 }),
    (0x970010040000000000000000, .atomw { blank with dst := 16, opa := 4 }),
    (0x980105040000000000000000, .stnt { blank with minor := 1, dst := 5, opa := 4 }),
    (0x990000000000000000000000, .drainnt blank),
    (0x9A0000000000000000000000, .fenceCode blank),
    (0x9A0100000000000000000000, .fenceIo { blank with minor := 1 }),
    (0x9A0200000000000000000000, .fenceEng { blank with minor := 2 }),
    (0x9B0508040001000000000000, .ldfe { blank with minor := 5, dst := 8, opa := 4, opc := 1 }),
    (0x9C0208040001000000000040, .stfe { blank with minor := 2, dst := 8, opa := 4, opc := 1, imm := 0x40 }),
    (0x9D0100040200000E00000000, .pft { blank with minor := 1, opa := 4, opb := 2, qual := 14 }),
    (0x9E0900040000000000000000, .cflush { blank with minor := 9, opa := 4 }),
    (0x9F0000040503000000000000, .iflush { blank with opa := 4, opb := 5, opc := 3 }),
    (0xA00000040000000000000080, .llock { blank with opa := 4, imm := 0x80 }),
    (0xA10000040000000000000000, .lunlk { blank with opa := 4 })] = true := by decide +kernel
theorem test_words_tasks : reads [
    (0xB00000040000002000000020, .binit { blank with opa := 4, bimm := true, imm := 0x20 }),
    (0xB10009040500000000000000, .barv { blank with dst := 9, opa := 4, opb := 5 }),
    (0xB20100040500000000000000, .bexp { blank with minor := 1, opa := 4, opb := 5 }),
    (0xB30009040500000000000000, .bwait { blank with dst := 9, opa := 4, opb := 5 }),
    (0xB40009040500000000000000, .btest { blank with dst := 9, opa := 4, opb := 5 }),
    (0xB50000040000000000000000, .bdrop { blank with opa := 4 }),
    (0xB60006070000000000000000, .seqw { blank with dst := 6, opa := 7 }),
    (0xB700000000000000000000FF, .grpsync { blank with imm := 0xff }),
    (0xB80003040005000000000040, .spawn { blank with dst := 3, opa := 4, opc := 5, imm := 0x40 }),
    (0xB90103040001000000000000, .watch { blank with minor := 1, dst := 3, opa := 4, opc := 1 }),
    (0xBA0000040000000000000000, .unwatch { blank with opa := 4 }),
    (0xBB007E000000000000000000, .iter { blank with dst := 126 }),
    (0xBC0006FC0400000000000000, .rqpush { blank with dst := 6, opa := 252, opb := 4 })] = true := by decide +kernel
theorem test_words_matrix : reads [
    (0xC00003000000000000000020, .mrsv { blank with dst := 3, imm := 0x20 }),
    (0xC10003000000000000000000, .mfree { blank with dst := 3 }),
    (0xC21103000000000000000000, .mzero { blank with minor := 17, dst := 3 }),
    (0xC30203040000050000000000, .mldD { blank with minor := 2, dst := 3, opa := 4, typ := 5 }),
    (0xC30D03040600070010000020, .mldF { blank with minor := 13, dst := 3, opa := 4, opb := 6, typ := 7, imm := 0x10000020 }),
    (0xC40203040000080400000000, .mstD { blank with minor := 2, dst := 3, opa := 4, typ := 8, qual := 4 }),
    (0xC40503040600050000000000, .mstF { blank with minor := 5, dst := 3, opa := 4, opb := 6, typ := 5 }),
    (0xC548020A0C000E0000000400, .mma { blank with minor := 72, dst := 2, opa := 10, opb := 12, typ := 14, imm := 0x400 }),
    (0xC60004141600050001000000, .maddf { blank with dst := 4, opa := 20, opb := 22, typ := 5, imm := 0x1000000 }),
    (0xC71003040000000000000000, .maddm { blank with minor := 16, dst := 3, opa := 4 }),
    (0xC80003040500000000000000, .mmulf { blank with dst := 3, opa := 4, opb := 5 }),
    (0xC9000F000000000000000000, .mrcmp { blank with dst := 15 }),
    (0xCA1003000000000000000000, .mdns { blank with minor := 16, dst := 3 }),
    (0xCB0009040000000000000000, .mrank { blank with dst := 9, opa := 4 }),
    (0xCB0109000000000000000000, .mrankErr { blank with minor := 1, dst := 9 }),
    (0xCC0009040000000000000000, .mrowp { blank with dst := 9, opa := 4 }),
    (0xCC0100040500000000000000, .mrowpSet { blank with minor := 1, opa := 4, opb := 5 }),
    (0xCD0003000000052140000000, .mscl { blank with dst := 3, typ := 5, bimm := true, qual := 1, imm := 0x40000000 }),
    (0xCE0009040000000000000007, .mmovv { blank with dst := 9, opa := 4, imm := 0x7 }),
    (0xCF1004090000000000000003, .mmovm { blank with minor := 16, dst := 4, opa := 9, imm := 0x3 })] = true := by decide +kernel
theorem test_words_units : reads [
    (0xD0800802050C050100000302, .hld { blank with sw := true, dst := 8, opa := 2, opb := 5, opc := 12, typ := 5, qual := 1, imm := 0x302 }),
    (0xD10003040000000000000000, .hstat { blank with dst := 3, opa := 4 }),
    (0xD20002030405000000000000, .fopen { blank with dst := 2, opa := 3, opb := 4, opc := 5 }),
    (0xD30000030000000000000000, .fseal { blank with opa := 3 }),
    (0xD40008090600000000000002, .fcomp { blank with dst := 8, opa := 9, opb := 6, imm := 0x2 }),
    (0xD50000030000000000000000, .fret { blank with opa := 3 }),
    (0xD80010080400050100000002, .trace { blank with dst := 16, opa := 8, opb := 4, typ := 5, qual := 1, imm := 0x2 }),
    (0xD90006080405000000000000, .pair { blank with dst := 6, opa := 8, opb := 4, opc := 5 }),
    (0xDA0006000405000000000000, .pairx { blank with dst := 6, opb := 4, opc := 5 }),
    (0xDB0014040A00004000000000, .cover { blank with dst := 20, opa := 4, opb := 10, bscl := true }),
    (0xDC0C02181915050000000000, .ztst { blank with minor := 12, dst := 2, opa := 24, opb := 25, opc := 21, typ := 5 }),
    (0xDD0000040500000000000000, .ordwWait { blank with opa := 4, opb := 5 }),
    (0xDD0100040000000000000000, .ordwAdv { blank with minor := 1, opa := 4 }),
    (0xDE0303040506000000000000, .tlacq { blank with minor := 3, dst := 3, opa := 4, opb := 5, opc := 6 }),
    (0xDF0000040000000000000000, .tlrel { blank with opa := 4 })] = true := by decide +kernel
theorem test_words_privileged : reads [
    (0xF00003040500000000000000, .segld { blank with dst := 3, opa := 4, opb := 5 }),
    (0xF00103040506000000000000, .segldW { blank with minor := 1, dst := 3, opa := 4, opb := 5, opc := 6 }),
    (0xF10000000000000000000000, .tlbinvAll blank),
    (0xF10100010000000000000000, .tlbinvCtx { blank with minor := 1, opa := 1 }),
    (0xF10200010200000000000000, .tlbinvPage { blank with minor := 2, opa := 1, opb := 2 }),
    (0xF10300010203000000000000, .tlbinvRange { blank with minor := 3, opa := 1, opb := 2, opc := 3 }),
    (0xF20300040506000000000000, .wresume { blank with minor := 3, opa := 4, opb := 5, opc := 6 }),
    (0xF30000040000000000000000, .wkill { blank with opa := 4 }),
    (0xF30100040000000000000000, .wkillCtx { blank with minor := 1, opa := 4 }),
    (0xF40000040505000000000080, .lnclaim { blank with opa := 4, opb := 5, opc := 5, imm := 0x80 }),
    (0xF50002030500000000000000, .frqack { blank with dst := 2, opa := 3, opb := 5 }),
    (0xF60103040000000000001000, .cfgrd { blank with minor := 1, dst := 3, opa := 4, imm := 0x1000 }),
    (0xF70000040600000000000000, .cfgwr { blank with opa := 4, opb := 6 }),
    (0xF80003040000000000000000, .ctxsave { blank with dst := 3, opa := 4 }),
    (0xF80103040000000000000000, .ctxsaveCtx { blank with minor := 1, dst := 3, opa := 4 }),
    (0xF90000040000000000000000, .haltc { blank with opa := 4 }),
    (0xF90100040000000000000000, .haltcGo { blank with minor := 1, opa := 4 })] = true := by decide +kernel

/-! ### Words that the spec writes out (spec/01, 09, 12 to 19, 21 and 24), and words that are no instruction -/

theorem test_words_spec : reads [
    (0x638004010203B50100000000, .ffma { blank with sw := true, dst := 4, opa := 1, opb := 2, opc := 3, pneg := true, pk := 3, typ := 5, qual := 1 }),
    (0x828004060000022000000005, .decw { blank with sw := true, dst := 4, opa := 6, typ := 2, bimm := true, imm := 5 }),
    (0x900205040200000C00000010, .ld { blank with minor := 2, dst := 5, opa := 4, opb := 2, qual := 12, imm := 16 }),
    (0x960002000000120000000080, .atom { blank with dst := 2, pk := 1, typ := 2, imm := 128 }),
    (0x9E0200040000000000000000, .cflush { blank with minor := 2, opa := 4 }),
    (0xD0800804070C050100000202, .hld { blank with sw := true, dst := 8, opa := 4, opb := 7, opc := 12, typ := 5, qual := 1, imm := 0x202 }),
    (0x928008030000200000000001, .ldb { blank with sw := true, dst := 8, opa := 3, pk := 2, imm := 1 }),
    (0xC588020A0C00090000000400, .mma { blank with sw := true, minor := 8, dst := 2, opa := 10, opb := 12, typ := 9, imm := 0x400 }),
    (0xC60004141600050001000000, .maddf { blank with dst := 4, opa := 20, opb := 22, typ := 5, imm := 0x1000000 }),
    (0x960209000001110000000020, .atom { blank with minor := 2, dst := 9, opc := 1, pk := 1, typ := 1, imm := 32 }),
    (0x8B000C0B0000050000000000, .vscan { blank with dst := 12, opa := 11, typ := 5 }),
    (0xD90006080405000000000000, .pair { blank with dst := 6, opa := 8, opb := 4, opc := 5 }),
    (0xDC0002181915050000000000, .ztst { blank with dst := 2, opa := 24, opb := 25, opc := 21, typ := 5 }),
    (0xD88010080400050000000002, .trace { blank with sw := true, dst := 16, opa := 8, opb := 4, typ := 5, imm := 2 }),
    (0x578202060F00220000000000, .vcmp { blank with sw := true, minor := 2, dst := 2, opa := 6, opb := 15, pk := 2, typ := 2 }),
    (0x94AA08000200000C00000000, .gath { blank with sw := true, minor := 0x2A, dst := 8, opb := 2, qual := 12 }),
    (0x5B8000000000000000000001, .vlane { blank with sw := true, imm := 1 }),
    (0x910200000000000C00000000, .st { blank with minor := 2, qual := 12 })] = true := by decide +kernel

theorem test_rejects : List.all [
    (0, Reject.major), (0x170000000000000000000000, .major), (0xE00000000000000000000000, .major), (0xFA0000000000000000000000, .major),
    (0x300100000000040000000000, .minor), (0x404000000000010000000000, .signBit), (0x200000000000050000000000, .type),
    (0x208000800000040000000000, .operand), (0x200000800000040000000000, .operand), (0x300000000100040000000000, .operand),
    (0x200000000000048000000000, .scalarBit), (0x200000000000840000000000, .predicate), (0x090000000000100000000000, .predicate),
    (0x600000000000050500000000, .qualifier), (0x300000000000040000000001, .immediate), (0x150000000000000000000100, .immediate)]
    (fun x => match decode (BitVec.ofNat 96 x.1) with
      | .ok _ => false
      | .error y => y == x.2) = true := by decide +kernel

/-! ### An ill-formed term for each check of a word (R39): the check of its form refuses it -/

theorem test_illformed : List.all [(Instr.sadd { blank with typ := 4, minor := 1 }, Reject.minor), (.vadd { blank with typ := 1, minor := 64 }, .signBit),
    (.sadd { blank with typ := 5 }, .type), (.sadd { blank with typ := 4, dst := 128 }, .operand), (.vmov { blank with typ := 4, dst := 1 }, .operand),
    (.smov { blank with typ := 4, opb := 1 }, .operand), (.sadd { blank with typ := 4, ascl := true }, .scalarBit),
    (.vadd { blank with typ := 1, bscl := true, bimm := true }, .scalarBit), (.sadd { blank with typ := 4, pneg := true }, .predicate),
    (.yield { blank with pk := 1 }, .predicate), (.fadd { blank with typ := 5, qual := 5 }, .qualifier), (.smov { blank with typ := 4, imm := 1 }, .immediate),
    (.ld { blank with minor := 6 }, .combination), (.warpEnd 96 0, .noWord)] (fun x => x.1.check == some x.2) = true := by decide +kernel

/-! ### Values that the spec works out -/

/-- R271's RCP of 3.0; 1 / 0 raises divide by zero. -/
theorem test_rcp : fnRcp 0x40400000 = (0x3EAAAAAA, 0) ∧ fnRcp 0 = (0x7F800000, flDz) := by decide +kernel
/-- R339's triangle, in both windings. -/
theorem test_cover : coverMask (0, 0) (2048, 0) (0, 2048) 0 0 = 0x000103070F1F3F7F ∧
    coverMask (0, 0) (0, 2048) (2048, 0) 0 0 = 0x000103070F1F3F7F := by decide +kernel
/-- The worked DECW of spec/04: the fields 3, 29, 7 and 24 of the stream at 0x800, plain and signed. -/
theorem test_decw : (decodeStream 0 32 5 false (streamBits 0x6C1FA3 0x800) 0x800 4 0).elems = [3, 29, 7, 24] ∧
    (decodeStream 0 32 5 true (streamBits 0x6C1FA3 0x800) 0x800 4 0).elems = [3, 2 ^ 32 - 3, 7, 2 ^ 32 - 8] ∧
    (decodeStream 0 32 5 false (streamBits 0x6C1FA3 0x800) 0x800 4 0).used = 20 := by decide +kernel
/-- The worked translation's home (R62, R55): tower 1, quad 14. -/
theorem test_home : homeTower 0x50002B1A40 = some 1 := by decide +kernel
/-- The worked VCMPRS of spec/11: selection 0x1212 of 10 × L over exm 0xFFFF. -/
def vc : Warp := { w0 with r := { w0.r with v := (List.range 15).map fun i => (65 + i, BitVec.ofNat 32 (10 * (i + 1))), k := [(2, 0x1212)] } }
theorem test_vcmprs : (match exec (.vcmprs { blank with dst := 5, opa := 1, opb := 2, opc := 8 }) (stateOf vc) with
    | .next t => (t.warp 96 0).map fun w => ([0, 1, 2, 3, 4].map (v w 5 ·), spGet 0 w.r.s 8)
    | _ => none) = some ([10, 40, 90, 120, 0], 4) := by decide +kernel

/-! ### The instruction that is placed where the step fetches -/

/-- SLI.n64 s3, 77 as the first instruction after reset. -/
theorem test_first : (match step (State.reset.withFetchWord 96 0x31000300000004000000004D) with
    | .next t => (t.warp 96 0).map fun w => (spGet 0 w.r.s 3, (w.frag 0).pc)
    | _ => none) = some (77, 0x100001) := by decide +kernel

/-! ### Further hypotheses that are met -/

/-- A fragment of a split whose four shadows are of s10 to s13. -/
def wshadow : Warp :=
  { wsplit with
    r := { wsplit.r with s := [(2, 2)] },
    frags := { wsplit.frag 0 with shadows := [⟨10, 0, []⟩, ⟨11, 0, []⟩, ⟨12, 0, []⟩, ⟨13, 0, []⟩] } :: List.replicate 7 {} }
theorem test_meets_ControlFaults_shadow : ∀ f : Fields, f = { blank with imm := 1, opa := 2 } →
    Ready (.loop f) (stateOf wshadow) wshadow ∧ active (stateOf wshadow) wshadow f ≠ 0 ∧ sr (stateOf wshadow) wshadow 2 ≠ 0 ∧
    shadowRefused wshadow (Claims.frag (stateOf wshadow) wshadow) [2] = some 2 := by
  intro f hf
  subst hf
  refine ⟨⟨rfl, rfl, rfl, rfl, by decide, fun h => (by cases h), by decide, ⟨rfl, rfl⟩⟩, ?_, ?_, ?_⟩ <;> decide

/-- A queue that is bound to a launch, in a slice whose watch table is full; and the performing of what a warp has on its way. -/
def stfull : State :=
  { mst wc [(0x2020040, 2), (0x2020051, 1), (0x2020068, 1)] with binds := List.replicate 64 ⟨0x8002020040, 0, 0, 0, true⟩ }
theorem test_meets_Tasks_full : ∀ f : Fields, f = { blank with opb := 4 } → ∃ u h, Ready (.rqpush f) stfull wc ∧ active stfull wc f ≠ 0 ∧
    ShadowsFit stfull wc [0] ∧ scalarAccess stfull (env stfull wc f) 0xBC 5 64 64 .wr = (u, .ok [hdr64]) ∧
    h = queueHdr (leNat (homeBytes u wc [hdr64])) ∧ h.malformed (launchOf stfull wc) = false ∧ h.cpc ≠ 0 ∧
    hdr64.held u (.near 96) true = false ∧ bindQueue u wc.cslot wc.launch 0x2020040 (sr stfull wc 4) h = none := by
  intro f hf
  subst hf
  refine ⟨_, _, ⟨rfl, rfl, rfl, rfl, by decide, fun h => (by cases h), by decide, ⟨rfl, rfl⟩⟩, ?_, ?_, found _ ?_, rfl, ?_, ?_, ?_, ?_⟩ <;> decide +kernel
theorem test_meets_performs : (∃ u, scalarAccess st (env st wc { blank with imm := 0xC0 }) 0xB8 0 0xC0 64 .rd = (u, .ok [rec64]) ∧
      (settleWarp (touched st u [(0, [rec64])]) st.cur.core st.cur.slot true).isSome = true) ∧ (settleStores s0 96 0).isSome = true := by
  refine ⟨⟨_, found _ ?_, ?_⟩, ?_⟩ <;> decide +kernel

/-- A fragment that has run on since a map load, and one that has not. -/
theorem test_meets_StepRunsInstruction_begins : ((w0.frag 0).runOver = false ∧ (Instr.nop blank).isFlow = false) ∧
    (w0.frag 0).loads = [] ∧ (w0.frag 0).run = [] ∧ (Instr.bra blank).isFlow = true := by decide

theorem test_meets_WaitsComplete_units : Ready (.waitc { blank with minor := 1 }) sl w0 ∧ w0.trv.length ≤ 0 ∧ active sl w0 blank ≠ 0 ∧
    (∀ j, j < 8 → (w0.frag j).loads = []) ∧ sl.cur.core / 128 < sl.towers.length :=
  ⟨readyL _ (by decide), by decide, by decide, by decide, by decide⟩

/-- The ring of a comb, the header of a queue, and a descriptor table that no outside agent has written. -/
theorem test_meets_unheld : (∀ ln ∈ ringLines (seng (cmd 1 false none)) 12 (cmd 1 false none), (seng (cmd 1 false none)).readHeld ln = false) ∧
    (sched [lnch] qfull {}).readHeld (lineOf 0x2020000) = false ∧ (sr_ 1 2 16).tableHeld = false ∧ shost.tableHeld = false ∧
    (∀ fr ∈ (freshWarp 9 1 7 0 5 0 16 0x100000).frags, fr.loads = []) ∧
    ∀ x ∈ suse.warps, ∀ st ∈ x.2.2.stnt, ∀ p ∈ st, ∀ ln ∈ linesOf p.addr p.data.length,
      ∀ r ∈ ((suse.line ln).bank (towerOf x.1)).reqs, r.served = false := by
  refine ⟨?_, ?_, ?_, ?_, ?_, ?_⟩ <;> decide

/-- The bit of the report lies in a slice whose filter holds the page's report. -/
theorem test_meets_MemorySteps_filtered : ({ sfb 2 with filter := [⟨0, 3, 2, lineOf 0x3000000, lineOf 0x3000040⟩] } : State).filterHolds
    (BitVec.ofNat 16 ((sfb 2).ctxId wfb.cslot)) (0x30000 / 65536) 2 ((sfb 2).desc wfb.cslot 319 256 + 3 / 8) = true := by decide

/-- The host has waited for a line that its lease held. -/
theorem test_meets_Leases_wanted : ∀ s, s = sown { leases := [⟨.host, 100⟩], wanted := [.host] } → (s.line ln0).wanted = [.host] ∧
    (s.agent .host).lost = none ∧ s.pkg.reaches .host = true := by
  intro s hs
  subst hs
  decide


end Sys2Proof.Tests
end

section
/-!
PROOFS. The machine right after a start: what every part of the reset state reads as, and the statement about it.
-/
namespace Sys2Proof.Machine

/-! ### The parts of the reset state

Each table of parts repeats one default value, which is also what lies beyond its end, so a part reads as that value at every
index. -/

/-- A read of a table that repeats one value, with that value as the default. -/
theorem getD_replicate_self {α : Type} (x : α) (n i : Nat) : ((List.replicate n x)[i]?).getD x = x := by
  rw [List.getElem?_replicate]
  split
  · rfl
  · rfl

theorem State.reset_pkg : State.reset.pkg = {} := rfl

theorem State.reset_tower (t : Nat) : State.reset.tower t = {} :=
  getD_replicate_self _ 2 t

theorem State.reset_ctx (i : Nat) : State.reset.ctx i = {} :=
  getD_replicate_self _ 64 i

theorem State.reset_comb (c : Nat) : State.reset.comb c = {} :=
  getD_replicate_self _ 32 c

theorem State.reset_core (c : Nat) : State.reset.core c = {} :=
  getD_replicate_self _ 256 c

theorem State.reset_monitor (m : Nat) : State.reset.monitor m = {} :=
  getD_replicate_self _ 64 m

theorem State.reset_queue (i q : Nat) : (State.reset.ctx i).queue q = {} := by
  rw [State.reset_ctx]
  exact getD_replicate_self _ 16 q

/-- Nothing is resident: every slot of every core is empty. -/
@[simp] theorem State.reset_warp (c slot : Nat) : State.reset.warp c slot = none := by
  rw [State.warp, State.reset_core]
  exact getD_replicate_self _ 128 slot

@[simp] theorem State.reset_byte (a : Nat) : State.reset.byte a = 0 := spGet_nil 0 a

/-! ### The registers of the window after a start -/

/-- TROLE: ktarget reads 2, and cmask names layers 2 and 3, the compute layers of a tower of two (R50). -/
theorem mmioValue_reset_trole (t : Nat) : mmioValue State.reset (.trole t) = 2 + 2 ^ 18 + 2 ^ 19 := by
  rw [mmioValue, State.reset_tower]
  decide

theorem mmioValue_reset_queue (i q : Nat) :
    mmioValue State.reset (.qctl i q) = 0 ∧ mmioValue State.reset (.qtail i q) = 0 ∧ mmioValue State.reset (.qhead i q) = 0 :=
  have h := State.reset_queue i q
  ⟨congrArg Queue.qctl h, congrArg (·.tail.toNat) h, congrArg (·.head.toNat) h⟩

theorem mmioValue_reset_saveArea (i : Nat) :
    mmioValue State.reset (.svbase i) = 0 ∧ mmioValue State.reset (.svsize i) = 0 :=
  have h := State.reset_ctx i
  ⟨congrArg (·.svbase.toNat) h, congrArg (·.svsize.toNat) h⟩

theorem mmioValue_reset_comb (c : Nat) :
    mmioValue State.reset (.ecbase c) = 0 ∧ mmioValue State.reset (.ecsize c) = 0 ∧ mmioValue State.reset (.ecdone c) = 0 :=
  have h := State.reset_comb c
  ⟨congrArg (·.ecbase.toNat) h, congrArg (·.ecsize.toNat) h, congrArg (·.ecdone.toNat) h⟩

theorem mmioValue_reset_monitor (m : Nat) :
    mmioValue State.reset (.monCtl m) = 0 ∧ mmioValue State.reset (.monMin m) = 0xFFFFFFFF ∧
      mmioValue State.reset (.monMax m) = 0 :=
  have h := State.reset_monitor m
  ⟨congrArg Monitor.ctl h, congrArg (·.mmin.toNat) h, congrArg (·.mmax.toNat) h⟩

theorem mmioValue_reset_monBin (m b : Nat) : mmioValue State.reset (.monBin m b) = 0 := by
  rw [mmioValue, State.reset_monitor]
  exact congrArg BitVec.toNat (getD_replicate_self _ 16 b)

theorem mmioValue_reset_cdtbase : mmioValue State.reset .cdtbase = 0 := by
  rw [mmioValue, State.reset_pkg]
  rfl

/-! ### The statement -/

/-- Settles O59: the parts of the reset state and the registers of the window, each from its lemma above. -/
theorem resetState : Obligations.ResetState := by
  refine ⟨List.length_replicate, List.length_replicate, List.length_replicate, List.length_replicate,
    List.length_replicate, fun t _ => ?towers, fun c _ => ?cores, fun i q _ _ => ?contexts,
    fun c _ => mmioValue_reset_comb c, fun m _ => ?monitors, mmioValue_reset_cdtbase, ?epoch, ?bootStep,
    State.reset_wf, State.reset_byte⟩
  case towers =>
    rw [State.reset_tower]
    exact ⟨rfl, rfl, rfl, rfl, rfl, mmioValue_reset_trole t⟩
  case cores =>
    rw [State.reset_core]
    exact ⟨rfl, rfl, rfl, rfl, rfl, State.reset_warp c⟩
  case contexts =>
    obtain ⟨qctl, qtail, qhead⟩ := mmioValue_reset_queue i q
    exact ⟨qctl, qtail, qhead, mmioValue_reset_saveArea i⟩
  case monitors =>
    obtain ⟨ctl, least, greatest⟩ := mmioValue_reset_monitor m
    exact ⟨ctl, least, greatest, fun b _ => mmioValue_reset_monBin m b⟩
  case epoch => rw [State.reset_pkg]
  case bootStep => rw [State.reset_pkg]

end Sys2Proof.Machine
end

section
/-!
PROOFS. The chain table (O46). The statement's last part, HLD whose walks have all ended, says that k[kd] gains a bit for every
lane that ended with DISOCC. It lets the Active of a parked fragment be any mask, but a mask register has no bit at or above W
(R229): a lane of Active beyond W that ends with DISOCC refutes it.
-/
namespace Sys2Proof.MotionFields
open Sys2Proof.Machine Sys2Proof.Claims

/-! ### A mask register reads as zero at and above W (R229) -/

theorem fullMask_getLsbD (w L : Nat) (h : L < 64) : (fullMask w).getLsbD L = decide (L < w) := by
  rw [fullMask, BitVec.getLsbD_ofNat, Nat.testBit_two_pow_sub_one, decide_eq_true h, Bool.true_and]

theorem kr_above_width (w : Warp) (n L : Nat) (h : w.width ≤ L) : (kr w n).getLsbD L = false := by
  have outside : (fullMask w.width).getLsbD L = false := by
    by_cases hL : L < 64
    · rw [fullMask_getLsbD _ _ hL, decide_eq_false (Nat.not_lt.2 h)]
    · exact BitVec.getLsbD_of_ge _ _ (Nat.not_lt.1 hL)
  unfold kr
  split
  · exact outside
  · rw [BitVec.getLsbD_and, outside, Bool.and_false]

/-! ### Walks that have ended -/

/-- A walk that has ended asks for nothing, so no access is made. -/
theorem stepWalks_ended {ρ α : Type} {prog : LaneWalk → Walking ρ α} {answer : State → Nat → ρ → State × Option WalkAns}
    {s : State} {x : LaneWalk} {r : α} (h : x.now prog = .done r) : stepWalks prog answer s [x] = (s, [x]) := by
  simp [stepWalks, h, Walking.asks]

theorem walkEnds_ended {ρ α : Type} {prog : LaneWalk → Walking ρ α} {x : LaneWalk} {r : α} (h : x.now prog = .done r) :
    walkEnds prog [x] = some ([(x.lane, r)].map fun e => (e.1, .ok e.2)) := by
  simp [walkEnds, h, Walking.ended]

/-- A walk with a hop to make ends DISOCC at its start slot when that is SEALED, one-dimensional and without a predecessor
(R143). -/
theorem hldWalk_without_predecessor {f : Fields} {root : W64} {L i b n : Nat} {args : List W32}
    (ref : slotRef root = some (i, slGen b)) (hops : iv f % 16 = n + 1) (plain : bitAt (qv f) 3 = false)
    (quiet : bitAt (qv f) 2 = false) (ok : slMalformed b = false) (st : slState b = 2) (flat : slDim2 b = false)
    (first : slHp b = false) :
    LaneWalk.now (hldWalk f root) ⟨L, args, [.data [b]]⟩ = .done ⟨hldDisocc, false, [], 0⟩ := by
  simp [LaneWalk.now, hldWalk, walkField, Walking.read, Walking.bind, Walking.feed, HldAt.withY, HldAt.sealed, HldAt.hops,
    HldAt.stop, ref, hops, plain, quiet, ok, st, flat, first]

/-! ### Lane 16 in a warp of sixteen lanes -/

/-- HLD of one hop that gives k1 its DISOCC lanes. -/
def hopToK1 : Fields := { blank with opc := 12, typ := 5, imm := 0x101 }
/-- A SEALED slot of generation 0 and one cell that has no predecessor (R128). -/
def firstSlot : Nat := 2 + 2 ^ 336 + 2 ^ 352
/-- The walk of lane 16 from slot 0, which it has read. -/
def walk16 : LaneWalk := ⟨16, [0], [.data [firstSlot]]⟩
/-- A warp of W = 16 parked at HLD with the walk of lane 16, which its Active names. -/
def warp16 : Warp :=
  { freshWarp 1 0 0 0 0 0 16 0x100000 with
    frags := { st := .parked, pc := 0x100000, mem := fullMask 16, exm := fullMask 16, act := laneBit 16,
               wait := some (.walks 0 [walk16]) } :: List.replicate 7 {} }
/-- The machine after reset with this warp as its current one. -/
def state16 : State := State.reset.setWarp 96 0 (some warp16)

theorem waiting_state16 : Waiting (.hld hopToK1) state16 warp16 (.walks 0 [walk16]) where
  warp := rfl
  st := rfl
  wait := rfl
  run := rfl
  legal := by decide
  mode := fun h => absurd h (by decide)
  grant := by decide
  codes := ⟨rfl, rfl⟩

theorem walks_state16 : Walks (.hld hopToK1) state16 warp16 hopToK1 (fun L => [v warp16 hopToK1.opa.toNat L]) (laneBit 16) 0
    [walk16] where
  stands := .inr ⟨waiting_state16, rfl⟩
  some_ := by decide
  lanes := by decide

theorem firstSlot_fields : slMalformed firstSlot = false ∧ slGen firstSlot = 0 ∧ slState firstSlot = 2 ∧
    slDim2 firstSlot = false ∧ slHp firstSlot = false := by decide +kernel

theorem walk16_disocc : walk16.now (hldWalk hopToK1 0) = .done ⟨hldDisocc, false, [], 0⟩ := by
  obtain ⟨ok, gen, st, flat, first⟩ := firstSlot_fields
  have ref : slotRef 0 = some (0, slGen firstSlot) := by rw [gen]; decide
  exact hldWalk_without_predecessor ref (n := 0) (by decide) (by decide) (by decide) ok st flat first

/-- Refutes O46: a fragment of a warp of sixteen lanes stands parked at HLD with an Active that names lane 16, whose walk has
ended with DISOCC. The statement wants bit 16 of k1 set, which reads as zero (R229). -/
theorem not_chainTable : ¬ Obligations.ChainTable := by
  unfold Obligations.ChainTable
  intro h
  obtain ⟨-, -, -, -, -, -, -, hldCompletes⟩ := h
  obtain ⟨_, w', -, -, same, -, -, -, -, -, -, mask⟩ := hldCompletes _ _ _ _ _ _ _ _ _ walks_state16 (by decide)
    (stepWalks_ended walk16_disocc) (walkEnds_ended walk16_disocc)
  have set : (kr w' 1).getLsbD 16 = true := mask (by decide) _ (List.mem_singleton_self _)
  have width : w'.width = 16 := congrArg Warp.width same
  have clear : (kr w' 1).getLsbD 16 = false := kr_above_width w' 1 16 (Nat.le_of_eq width)
  exact Bool.false_ne_true (clear.symm.trans set)

end Sys2Proof.MotionFields
end
